-- ==== Sys2Proof/Word.lean ====
section
/-! DEFINITION. The word types of the Kryulaven KV40 and the sparse map that every table of the state uses.
Only the types stand here; the operations on them are in Sys2Proof/Machine/Bits.lean. -/

namespace Sys2Proof

/-- One byte of memory, scratchpad or weight store. -/
abbrev Byte := BitVec 8

/-- A 32-bit lane of a vector register, and an instruction word. -/
abbrev Word := BitVec 32

/-- A 64-bit uniform register, and a privileged register. -/
abbrev DWord := BitVec 64

/-- An accumulator element in FA40 (R68). -/
abbrev Fa40 := BitVec 40

/-- A sparse map with natural keys: pairs in strictly rising key order, no pair holding the map's default. -/
abbrev KV (β : Type) := List (Nat × β)

end Sys2Proof
end

