-- ==== Sys2Proof/Machine/Bits.lean ====
section
/-! DEFINITION. The helpers that every other file uses: the sparse map in canonical form, bit fields of natural
numbers, sign extension, little-endian bytes and plain loops. -/

namespace Sys2Proof.Machine

/-- The value a sparse map holds for a key; an absent key reads as the default. -/
def kvGet {β : Type} (dflt : β) (m : KV β) (k : Nat) : β :=
  match m with
  | [] => dflt
  | (a, v) :: t => if a = k then v else kvGet dflt t k

/-- Remove a key. -/
def kvDel {β : Type} (m : KV β) (k : Nat) : KV β := m.filter (fun p => p.1 != k)

/-- Write one key. Writing the default removes the key, so equal maps are equal lists. -/
def kvSet {β : Type} [DecidableEq β] (dflt : β) (m : KV β) (k : Nat) (v : β) : KV β :=
  match m with
  | [] => if v = dflt then [] else [(k, v)]
  | (a, w) :: t =>
    if a < k then (a, w) :: kvSet dflt t k v
    else if a = k then (if v = dflt then kvDel t k else (k, v) :: t)
    else (if v = dflt then (a, w) :: kvDel t k else (k, v) :: (a, w) :: t)

/-- Every key of the map is above k. -/
def kvAbove {β : Type} (k : Nat) (m : KV β) : Bool :=
  match m with
  | [] => true
  | (a, _) :: t => decide (k < a) && kvAbove k t

/-- The canonical form: keys strictly rising, no pair holding the default. -/
def kvWf {β : Type} [DecidableEq β] (dflt : β) (m : KV β) : Bool :=
  match m with
  | [] => true
  | (a, v) :: t => decide (v ≠ dflt) && kvAbove a t && kvWf dflt t

/-- Look up a key that may be absent. -/
def kvFind {β : Type} (m : KV β) (k : Nat) : Option β :=
  match m with
  | [] => none
  | (a, v) :: t => if a = k then some v else kvFind t k

/-- Insert or replace a pair, keeping the keys rising. -/
def kvPut {β : Type} (m : KV β) (k : Nat) (v : β) : KV β :=
  match m with
  | [] => [(k, v)]
  | (a, w) :: t => if a < k then (a, w) :: kvPut t k v else if a = k then (k, v) :: t else (k, v) :: (a, w) :: t

/-- Bits hi down to lo of x. -/
def bits (x hi lo : Nat) : Nat := (x >>> lo) % 2 ^ (hi + 1 - lo)

/-- One bit of x. -/
def bit (x i : Nat) : Bool := (x >>> i) % 2 == 1

/-- x with bits hi down to lo replaced by the low bits of v. -/
def setBits (x hi lo v : Nat) : Nat :=
  (x >>> (hi + 1)) <<< (hi + 1) ||| ((v % 2 ^ (hi + 1 - lo)) <<< lo) ||| (x % 2 ^ lo)

/-- A truth value as a bit. -/
def b2n (b : Bool) : Nat := if b then 1 else 0

/-- The two's complement reading of the low w bits of x (SignExt of R14). -/
def sInt (w x : Nat) : Int :=
  let y := x % 2 ^ w
  if 2 * y < 2 ^ w then (y : Int) else (y : Int) - (2 ^ w : Nat)

/-- An integer modulo 2^w. -/
def wrapN (w : Nat) (x : Int) : Nat := (x % (2 ^ w : Nat)).toNat

/-- The n bytes of x, least significant first (R7). -/
def leBytes (n x : Nat) : List Byte :=
  match n with
  | 0 => []
  | n + 1 => BitVec.ofNat 8 x :: leBytes n (x / 256)

/-- The natural number that bytes form, least significant first. -/
def ofLe (bs : List Byte) : Nat :=
  match bs with
  | [] => 0
  | b :: t => b.toNat + 256 * ofLe t

/-- The element at an index, or a default past the end. -/
def listAt {α : Type} (dflt : α) (l : List α) (i : Nat) : α :=
  match l, i with
  | [], _ => dflt
  | a :: _, 0 => a
  | _ :: t, i + 1 => listAt dflt t i

/-- Replace the element at an index; nothing past the end. -/
def listPut {α : Type} (l : List α) (i : Nat) (v : α) : List α :=
  match l, i with
  | [], _ => []
  | _ :: t, 0 => v :: t
  | a :: t, i + 1 => a :: listPut t i v

/-- The natural numbers from a, n of them. -/
def natsFrom (a n : Nat) : List Nat :=
  match n with
  | 0 => []
  | n + 1 => a :: natsFrom (a + 1) n

/-- The natural numbers below n. -/
def nats (n : Nat) : List Nat := natsFrom 0 n

/-- Apply f for each index of a list in order. -/
def forEach {α σ : Type} (l : List α) (s : σ) (f : σ → α → σ) : σ :=
  match l with
  | [] => s
  | a :: t => forEach t (f s a) f

/-- The first index of a list that satisfies p. -/
def firstIdx {α : Type} (p : α → Bool) (l : List α) (i : Nat) : Option Nat :=
  match l with
  | [] => none
  | a :: t => if p a then some i else firstIdx p t (i + 1)

/-- Add modulo 2^56, the width of a virtual address (R51). -/
def add56 (a : Nat) (d : Int) : Nat := wrapN 56 ((a : Int) + d)

/-- The number of one bits among the low n bits of x. -/
def popN (n x : Nat) : Nat :=
  match n with
  | 0 => 0
  | n + 1 => x % 2 + popN n (x / 2)

/-- The number of bits that x needs. -/
def bitLen (x : Nat) : Nat := if x = 0 then 0 else Nat.log2 x + 1

/-- The floor of the square root, by one bit a round: k is the bit tried, r the root so far. -/
def isqrtLoop (k n r : Nat) : Nat :=
  match k with
  | 0 => r
  | k + 1 =>
    let c := r + 2 ^ k
    isqrtLoop k n (if c * c ≤ n then c else r)

/-- The floor of the square root. -/
def isqrt (n : Nat) : Nat := isqrtLoop (bitLen n / 2 + 1) n 0

/-- The threads whose bit is set in a 64-bit mask, ascending. -/
def threadsOf (mask : Nat) : List Nat := (nats 64).filter (fun t => bit mask t)

/-- A number lies between two others. -/
def between (lo hi n : Nat) : Bool := decide (lo ≤ n) && decide (n ≤ hi)

/-- Whether two byte ranges share a byte. -/
def overlaps (a n b m : Nat) : Bool := decide (a < b + m) && decide (b < a + n) && decide (0 < n) && decide (0 < m)

/-- Remove duplicates, keeping the first of each. -/
def dedup (seen : List Nat) (l : List Nat) : List Nat :=
  match l with
  | [] => []
  | a :: t => if seen.contains a then dedup seen t else a :: dedup (a :: seen) t

end Sys2Proof.Machine
end

