-- ==== Sys2Proof/Machine/Float.lean ====
section
/-! DEFINITION. Number formats (R68 to R76), exact values and their arithmetic, rounding with flags, overflow policy and
conversion events (R77 to R85), and the transcendental functions rounded from the exact value (R105, R108). -/

namespace Sys2Proof.Machine

/-- An exact value: NaN, an infinity, or (-1)^neg * m * 2^e. A zero keeps its sign. -/
inductive Ex where
  | nan
  | inf (neg : Bool)
  | fin (neg : Bool) (m : Nat) (e : Int)
  deriving DecidableEq, Repr

/-- A floating format (R68): exponent and fraction widths and bias; top marks F8A, whose highest exponent is normal. -/
structure FFmt where
  ebits : Nat
  fbits : Nat
  bias : Int
  top : Bool
  deriving DecidableEq, Repr

def fmtF32 : FFmt := ⟨8, 23, 127, false⟩
def fmtF16 : FFmt := ⟨5, 10, 15, false⟩
def fmtBf16 : FFmt := ⟨8, 7, 127, false⟩
def fmtF8a : FFmt := ⟨4, 3, 7, true⟩
def fmtF8b : FFmt := ⟨5, 2, 15, false⟩
def fmtFa40 : FFmt := ⟨8, 31, 127, false⟩

/-- The sign bit of a format as a number. -/
def FFmt.signBit (f : FFmt) : Nat := 2 ^ (f.ebits + f.fbits)

/-- The canonical NaN (R69). -/
def FFmt.nan (f : FFmt) : Nat :=
  if f.top then 2 ^ (f.ebits + f.fbits) - 1 else (2 ^ f.ebits - 1) * 2 ^ f.fbits + 2 ^ (f.fbits - 1)

/-- The encoding of the largest finite magnitude (R69). -/
def FFmt.maxFin (f : FFmt) : Nat :=
  if f.top then 2 ^ (f.ebits + f.fbits) - 2 else (2 ^ f.ebits - 1) * 2 ^ f.fbits - 1

/-- The encoding of +infinity in a format that has one (R69). -/
def FFmt.infBits (f : FFmt) : Nat := (2 ^ f.ebits - 1) * 2 ^ f.fbits

/-- The exact value of a bit pattern (R68, R71). -/
def FFmt.value (f : FFmt) (x : Nat) : Ex :=
  let neg := bit x (f.ebits + f.fbits)
  let e := (x >>> f.fbits) % 2 ^ f.ebits
  let fr := x % 2 ^ f.fbits
  if f.top then
    if e * 2 ^ f.fbits + fr = 2 ^ (f.ebits + f.fbits) - 1 then .nan
    else if e = 0 then .fin neg fr (1 - f.bias - f.fbits)
    else .fin neg (2 ^ f.fbits + fr) ((e : Int) - f.bias - f.fbits)
  else if e = 2 ^ f.ebits - 1 then (if fr = 0 then .inf neg else .nan)
  else if e = 0 then .fin neg fr (1 - f.bias - f.fbits)
  else .fin neg (2 ^ f.fbits + fr) ((e : Int) - f.bias - f.fbits)

/-! ## Rounding modes (R77) -/

/-- Whether the magnitude rounds up: q is the truncated magnitude, r the remainder of 2^sh. -/
def roundsUp (rm : Nat) (neg : Bool) (q r sh : Nat) : Bool :=
  match rm with
  | 0 => decide (2 * r > 2 ^ sh) || (decide (2 * r = 2 ^ sh) && q % 2 == 1)
  | 1 => false
  | 2 => neg && decide (r ≠ 0)
  | 3 => !neg && decide (r ≠ 0)
  | _ => decide (2 * r ≥ 2 ^ sh)

/-- m * 2^e rounded to a multiple of 2^q: the count of quanta, and whether it is exact. -/
def roundAt (rm : Nat) (neg : Bool) (m : Nat) (e q : Int) : Nat × Bool :=
  if q ≤ e then (m * 2 ^ (e - q).toNat, true)
  else
    let sh := (q - e).toNat
    let t := m / 2 ^ sh
    let r := m % 2 ^ sh
    (if roundsUp rm neg t r sh then t + 1 else t, decide (r = 0))

/-! The floating-point flags of FSTAT (R33) as numbers. -/

def flNV : Nat := 1
def flDZ : Nat := 2
def flOF : Nat := 4
def flUF : Nat := 8
def flNX : Nat := 16

/-- What rounding delivers: the bits, the flags (R79) and the event (R85): 0 none, 1 NaN, 2 saturation, 3 flush. -/
structure Rounded where
  bits : Nat
  flags : Nat
  event : Nat
  deriving DecidableEq, Repr

/-- An overflowing result (R82): pol 0 is the default, 1 .SAT, 2 .OVN; flags are those of the overflow itself. -/
def overflowed (f : FFmt) (rm pol : Nat) (neg : Bool) : Rounded :=
  let s := if neg then f.signBit else 0
  if pol = 2 then ⟨f.nan, flOF + flNX + flNV, 1⟩
  else if f.top ∨ pol = 1 then ⟨s + f.maxFin, flOF + flNX, 2⟩
  else
    let big := rm = 1 ∨ (rm = 2 ∧ !neg) ∨ (rm = 3 ∧ neg)
    if big then ⟨s + f.maxFin, flOF + flNX, 2⟩ else ⟨s + f.infBits, flOF + flNX, 0⟩

/-- An infinite input (R79, R82). -/
def infInput (f : FFmt) (pol : Nat) (neg : Bool) : Rounded :=
  let s := if neg then f.signBit else 0
  if pol = 2 then ⟨f.nan, flNV, 1⟩
  else if f.top ∨ pol = 1 then ⟨s + f.maxFin, flNX, 2⟩
  else ⟨s + f.infBits, 0, 0⟩

/-- Round an exact value into a format (Round of R14; R77 to R79, R82, R83). -/
def roundEx (f : FFmt) (rm pol : Nat) (x : Ex) : Rounded :=
  match x with
  | .nan => ⟨f.nan, 0, 1⟩
  | .inf neg => infInput f pol neg
  | .fin neg m e =>
    let s := if neg then f.signBit else 0
    if m = 0 then ⟨s, 0, 0⟩
    else
      let emin : Int := 1 - f.bias
      let top : Int := e + (bitLen m : Int) - 1
      let (un, _) := roundAt rm neg m e (top - f.fbits)
      let utop : Int := if un = 2 ^ (f.fbits + 1) then top + 1 else top
      let ufrac := if un = 2 ^ (f.fbits + 1) then 0 else un - 2 ^ f.fbits
      let maxE : Int := (if f.top then 2 ^ f.ebits - 1 else 2 ^ f.ebits - 2 : Nat) - f.bias
      if maxE < utop ∨ (f.top ∧ utop = maxE ∧ ufrac = 2 ^ f.fbits - 1) then overflowed f rm pol neg
      else
        let q : Int := max (top - f.fbits) (emin - f.fbits)
        let (n, exact) := roundAt rm neg m e q
        let tiny := utop < emin
        let fl := if exact then 0 else if tiny then flNX + flUF else flNX
        -- n quanta of 2^q; at or above 2^fbits the value is normal
        let enc : Nat := if q = emin - f.fbits then n else n + ((q + f.fbits - emin).toNat) * 2 ^ f.fbits
        ⟨s + enc, fl, if n = 0 then 3 else 0⟩

/-! ## Exact arithmetic -/

/-- A signed integer times 2^e. -/
def Ex.ofInt (x : Int) (e : Int) : Ex := .fin (decide (x < 0)) x.natAbs e

/-- The signed integer of m * 2^e in units of 2^q, for q at most e. -/
def scaled (neg : Bool) (m : Nat) (e q : Int) : Int :=
  let v : Int := (m * 2 ^ (e - q).toNat : Nat)
  if neg then -v else v

/-- Negation. -/
def Ex.neg (x : Ex) : Ex :=
  match x with
  | .nan => .nan
  | .inf n => .inf (!n)
  | .fin n m e => .fin (!n) m e

/-- The zero of a cancelled sum (R78): +0, but -0 under RDN. -/
def zeroSum (rm : Nat) : Ex := .fin (rm == 2) 0 0

/-- The exact sum, with the sign of a zero sum by R78; the flag says that a NaN came from non-NaN operands. -/
def exAdd (rm : Nat) (a b : Ex) : Ex × Bool :=
  match a, b with
  | .nan, _ => (.nan, false)
  | _, .nan => (.nan, false)
  | .inf x, .inf y => if x = y then (.inf x, false) else (.nan, true)
  | .inf x, _ => (.inf x, false)
  | _, .inf y => (.inf y, false)
  | .fin n1 m1 e1, .fin n2 m2 e2 =>
    let q := min e1 e2
    let t := scaled n1 m1 e1 q + scaled n2 m2 e2 q
    if t = 0 then
      (if n1 = n2 then .fin n1 0 0 else zeroSum rm, false)
    else (Ex.ofInt t q, false)

/-- The exact product; the flag says that a NaN came from 0 times infinity. -/
def exMul (a b : Ex) : Ex × Bool :=
  match a, b with
  | .nan, _ => (.nan, false)
  | _, .nan => (.nan, false)
  | .inf x, .inf y => (.inf (x != y), false)
  | .inf x, .fin n m _ => if m = 0 then (.nan, true) else (.inf (x != n), false)
  | .fin n m _, .inf y => if m = 0 then (.nan, true) else (.inf (n != y), false)
  | .fin n1 m1 e1, .fin n2 m2 e2 => (.fin (n1 != n2) (m1 * m2) (e1 + e2), false)

/-- a * b + c exactly; 0 times infinity plus NaN counts as produced (R105). -/
def exFma (rm : Nat) (a b c : Ex) : Ex × Bool :=
  let (p, nv) := exMul a b
  let (s, nv2) := exAdd rm p c
  (s, nv || nv2)

/-- Whether a value is NaN. -/
def Ex.isNan (x : Ex) : Bool := match x with | .nan => true | _ => false

/-- Whether a value is a zero. -/
def Ex.isZero (x : Ex) : Bool := match x with | .fin _ 0 _ => true | _ => false

/-- The sign of a value that is no NaN. -/
def Ex.isNeg (x : Ex) : Bool := match x with | .nan => false | .inf n => n | .fin n _ _ => n

/-- The exact order of two values that are no NaN: -1, 0 or 1, with -0 equal to +0. -/
def exCmp (a b : Ex) : Int :=
  match a, b with
  | .inf x, .inf y => if x = y then 0 else if x then -1 else 1
  | .inf x, _ => if x then -1 else 1
  | _, .inf y => if y then 1 else -1
  | .fin n1 m1 e1, .fin n2 m2 e2 =>
    let q := min e1 e2
    let d := scaled n1 m1 e1 q - scaled n2 m2 e2 q
    if d < 0 then -1 else if d = 0 then 0 else 1
  | _, _ => 0

/-- The exact sum of a list with the special values of R118 and R283: NaN for a NaN or infinities of both signs (the flag
marks the second, beside a NaN too, log 24), a zero sum negative only when every term is -0 or, when terms cancel, under RDN. -/
def exSum (rm : Nat) (l : List Ex) : Ex × Bool :=
  let pos := l.any (fun x => match x with | .inf false => true | _ => false)
  let neg := l.any (fun x => match x with | .inf true => true | _ => false)
  if l.any Ex.isNan then (.nan, pos && neg)
  else
    if pos && neg then (.nan, true)
    else if pos then (.inf false, false)
    else if neg then (.inf true, false)
    else
      let q := l.foldl (fun (q : Int) x => match x with | .fin _ _ e => min q e | _ => q) 0
      let t := l.foldl (fun (t : Int) x => match x with | .fin n m e => t + scaled n m e q | _ => t) 0
      if t = 0 then
        (match l with
          | [] => .fin false 0 0
          | a :: r => if r.all (fun b => b.isNeg == a.isNeg) then .fin a.isNeg 0 0 else zeroSum rm, false)
      else (Ex.ofInt t q, false)

/-- FMIN (R106): -0 below +0, the other operand for one NaN. -/
def exMin (a b : Ex) : Ex :=
  if a.isNan then b else if b.isNan then a
  else let c := exCmp a b
    if c < 0 then a else if 0 < c then b else if a.isNeg then a else b

/-- FMAX (R106). -/
def exMax (a b : Ex) : Ex :=
  if a.isNan then b else if b.isNan then a
  else let c := exCmp a b
    if 0 < c then a else if c < 0 then b else if a.isNeg then b else a

/-! ## LNS6 (R74 to R76, R80) -/

/-- T of R75 in 1.23 fixed point. -/
def lnsT (i : Nat) : Nat := match i with | 0 => 0x800000 | 1 => 0x9837F0 | 2 => 0xB504F3 | _ => 0xD744FD

/-- The value of a count of quarter units. -/
def lnsValue (neg : Bool) (q : Int) : Ex := .fin neg (lnsT (q % 4).toNat) (q / 4 - 23)

/-- The exact value of an LNS6 element under scale sigma (R75). -/
def lnsEx (sigma x : Nat) : Ex :=
  if sigma % 256 = 0x80 then .nan
  else if x % 32 = 16 then (if bit x 5 then .nan else .fin false 0 0)
  else lnsValue (bit x 5) (sInt 5 x + sInt 8 sigma)

/-- The exact product of two LNS6 elements (R76). -/
def lnsProd (sa a sw w : Nat) : Ex :=
  if sa % 256 = 0x80 ∨ sw % 256 = 0x80 ∨ a % 64 = 0x30 ∨ w % 64 = 0x30 then .nan
  else if a % 64 = 0x10 ∨ w % 64 = 0x10 then .fin false 0 0
  else lnsValue (bit a 5 != bit w 5) (sInt 5 a + sInt 5 w + sInt 8 sa + sInt 8 sw)

/-- The magnitude of L under sigma as a value. -/
def lnsMag (sigma : Int) (l : Int) : Ex := lnsValue false (l + sigma)

/-- The greatest L from lo, at most n steps up, whose magnitude is at most x. -/
def lnsFloor (sigma : Int) (x : Ex) (lo : Int) (n : Nat) : Int :=
  match n with
  | 0 => lo
  | n + 1 => if exCmp (lnsMag sigma (lo + 1)) x ≤ 0 then lnsFloor sigma x (lo + 1) n else lo

/-- Choose between neighbours m1 below m2 for a magnitude strictly between them (R80); evenLow says that m1's code is the
even one. -/
def lnsUp (rm : Nat) (neg : Bool) (x m1 m2 : Ex) (evenLow : Bool) : Bool :=
  match rm with
  | 0 | 4 =>
    let twice : Ex := match x with | .fin n m e => .fin n m (e + 1) | y => y
    let c := exCmp twice (exAdd 0 m1 m2).1
    if c < 0 then false else if 0 < c then true else if rm = 4 then true else !evenLow
  | 1 => false
  | 2 => neg
  | _ => !neg

/-- Round into LNS6 under sigma (R80, R82, R83). The magnitudes below L = -15 and above L = 15 of the unbounded grid
decide tininess and overflow. -/
def roundLns (sigma rm pol : Nat) (x : Ex) : Rounded :=
  if sigma % 256 = 0x80 then ⟨0x30, 0, 1⟩
  else
    let sg := sInt 8 sigma
    match x with
    | .nan => ⟨0x30, 0, 1⟩
    | .inf neg =>
      if pol = 2 then ⟨0x30, flNV, 1⟩ else ⟨(if neg then 0x2F else 0x0F), flNX, 2⟩
    | .fin neg m e =>
      let s := if neg then 0x20 else 0
      if m = 0 then ⟨0x10, 0, 0⟩
      else
        let a : Ex := .fin false m e
        let smallest := lnsMag sg (-15)
        let largest := lnsMag sg 15
        let next := lnsMag sg 16
        if exCmp largest a ≤ 0 then
          let beyond := exCmp next a ≤ 0 ∨ (exCmp largest a < 0 ∧ lnsUp rm neg a largest next false)
          if beyond then
            (if pol = 2 then ⟨0x30, flOF + flNX + flNV, 1⟩ else ⟨s + 0x0F, flOF + flNX, 2⟩)
          else ⟨s + 0x0F, if exCmp largest a = 0 then 0 else flNX, 0⟩
        else if exCmp a smallest < 0 then
          let below := lnsMag sg (-16)
          let tiny := !(exCmp below a ≤ 0 && lnsUp rm neg a below smallest true)
          let up := lnsUp rm neg a (.fin false 0 0) smallest true
          let fl := if tiny then flNX + flUF else flNX
          if up then ⟨s + 0x11, fl, 0⟩ else ⟨0x10, fl, 3⟩
        else
          let l := lnsFloor sg a (-15) 31
          let lowM := lnsMag sg l
          if exCmp lowM a = 0 then ⟨s + wrapN 5 l, 0, 0⟩
          else
            let up := lnsUp rm neg a lowM (lnsMag sg (l + 1)) (l % 2 == 0)
            ⟨s + wrapN 5 (if up then l + 1 else l), flNX, 0⟩

/-! ## Integers (R84) -/

/-- The least and greatest value of an integer type of width w. -/
def intLo (signed : Bool) (w : Nat) : Int := if signed then -(2 ^ (w - 1) : Nat) else 0
def intHi (signed : Bool) (w : Nat) : Int := if signed then (2 ^ (w - 1) : Nat) - 1 else (2 ^ w : Nat) - 1

/-- Round to an integral value: the integer and whether it is exact. -/
def roundInt (rm : Nat) (neg : Bool) (m : Nat) (e : Int) : Int × Bool :=
  let (n, exact) := roundAt rm neg m e 0
  (if neg then -(n : Int) else n, exact)

/-- A floating value into an integer type (R84). -/
def exToInt (signed : Bool) (w rm : Nat) (x : Ex) : Rounded :=
  match x with
  | .nan => ⟨0, flNV, 0⟩
  | .inf neg => ⟨wrapN w (if neg then intLo signed w else intHi signed w), flNV, 0⟩
  | .fin neg m e =>
    let (n, exact) := roundInt rm neg m e
    if n < intLo signed w then ⟨wrapN w (intLo signed w), flNV, 0⟩
    else if intHi signed w < n then ⟨wrapN w (intHi signed w), flNV, 0⟩
    else ⟨wrapN w n, if exact then 0 else flNX, 0⟩

/-! ## Transcendental functions (R105, R108): correctly rounded from the exact value. A value that no format holds is
given to rounding as a truncation with a bit below it that says more follows. -/

/-- m * 2^e with something more below the last bit. -/
def sticky (neg : Bool) (m : Nat) (e : Int) (more : Bool) : Ex := .fin neg (2 * m + b2n more) (e - 1)

/-- Fraction bits of the fixed-point work below (log 14). -/
def fixP : Nat := 256

/-- The sum of 2^p / (k 2^k) for k from k, n terms: ln 2 in fixed point. -/
def ln2Sum (n k : Nat) : Nat :=
  match n with
  | 0 => 0
  | n + 1 => 2 ^ fixP / (k * 2 ^ k) + ln2Sum n (k + 1)

/-- ln 2 in fixed point. -/
def ln2Fix : Nat := ln2Sum 260 1

/-- The exponential series from term t of index k, n terms. -/
def expSum (n k y t : Nat) : Nat :=
  match n with
  | 0 => t
  | n + 1 => t + expSum n (k + 1) y (t * y / 2 ^ fixP / k)

/-- 2^f in fixed point for f in [0, 1) given in fixed point. -/
def exp2Fix (f : Nat) : Nat := expSum 90 1 (f * ln2Fix / 2 ^ fixP) (2 ^ fixP)

/-- The series of atanh from the power z of z0 with index k, n terms. -/
def atanhSum (n k z z2 : Nat) : Nat :=
  match n with
  | 0 => 0
  | n + 1 => z / k + atanhSum n (k + 2) (z * z2 / 2 ^ fixP) z2

/-- The natural logarithm in fixed point of x in [1, 2) given in fixed point. -/
def lnFix (x : Nat) : Nat :=
  let z := (x - 2 ^ fixP) * 2 ^ fixP / (x + 2 ^ fixP)
  2 * atanhSum 90 1 z (z * z / 2 ^ fixP)

/-- 1 / a (R108): the exact value to round, and the flags that the operand sets. -/
def exRcp (a : Ex) : Ex × Nat :=
  match a with
  | .nan => (.nan, 0)
  | .inf n => (.fin n 0 0, 0)
  | .fin n m e =>
    if m = 0 then (.inf n, flDZ)
    else
      let k := bitLen m + 60
      (sticky n (2 ^ k / m) (-e - k) (2 ^ k % m != 0), 0)

/-- The square root (R108). -/
def exSqrt (a : Ex) : Ex × Nat :=
  match a with
  | .nan => (.nan, 0)
  | .inf n => if n then (.nan, flNV) else (.inf false, 0)
  | .fin n m e =>
    if m = 0 then (.fin n 0 0, 0)
    else if n then (.nan, flNV)
    else
      let m1 := if e % 2 = 0 then m else 2 * m
      let e1 := if e % 2 = 0 then e else e - 1
      let v := m1 * 2 ^ 80
      let r := isqrt v
      (sticky false r (e1 / 2 - 40) (r * r != v), 0)

/-- The reciprocal square root (R108). -/
def exRsqrt (a : Ex) : Ex × Nat :=
  match a with
  | .nan => (.nan, 0)
  | .inf n => if n then (.nan, flNV) else (.fin false 0 0, 0)
  | .fin n m e =>
    if m = 0 then (.inf n, 0)
    else if n then (.nan, flNV)
    else
      let m1 := if e % 2 = 0 then m else 2 * m
      let e1 := if e % 2 = 0 then e else e - 1
      let k := bitLen m1 + 60
      let r := isqrt (2 ^ (2 * k) / m1)
      (sticky false r (-(e1 / 2) - k) (r * r * m1 != 2 ^ (2 * k)), 0)

/-- 2^a (R108). A finite operand beyond the exponent range is cut to one that overflows or vanishes alike. -/
def exExp2 (a : Ex) : Ex × Nat :=
  match a with
  | .nan => (.nan, 0)
  | .inf n => (if n then .fin false 0 0 else .inf false, 0)
  | .fin n m e =>
    if 0 ≤ e then
      let v := min (m * 2 ^ (min e 12).toNat) 4096
      (.fin false 1 (if n then -(v : Int) else v), 0)
    else
      let d := 2 ^ (-e).toNat
      let whole : Int := if n then -((m / d : Nat) : Int) else (m / d : Nat)
      let r := m % d
      if r = 0 then (.fin false 1 (max (-4096) (min whole 4096)), 0)
      else
        let ip : Int := if n then whole - 1 else whole
        let num := if n then d - r else r
        let f := num * 2 ^ fixP / d
        (sticky false (exp2Fix f) (max (-4096) (min ip 4096) - fixP) true, 0)

/-- log2 a (R108). -/
def exLog2 (a : Ex) : Ex × Nat :=
  match a with
  | .nan => (.nan, 0)
  | .inf n => if n then (.nan, flNV) else (.inf false, 0)
  | .fin n m e =>
    if m = 0 then (.inf true, flDZ)
    else if n then (.nan, flNV)
    else
      let l := bitLen m
      let ip : Int := e + l - 1
      if m = 2 ^ (l - 1) then (Ex.ofInt ip 0, 0)
      else
        let x := m * 2 ^ fixP / 2 ^ (l - 1)
        let fr := lnFix x * 2 ^ fixP / ln2Fix
        let t : Int := ip * (2 ^ fixP : Nat) + fr
        if 0 ≤ t then (sticky false t.natAbs (-(fixP : Int)) true, 0)
        else (sticky true (t.natAbs - 1) (-(fixP : Int)) true, 0)

end Sys2Proof.Machine
end

