-- ==== Sys2Proof/Config.lean ====
section
/-! DEFINITION. What is fixed for one part and what the manual leaves open: fused values, keys and measurements, and the
free values that no rule states. None of them has a body that a proof could see. -/

namespace Sys2Proof.Config

/-- The fused read-only fields of PWRCTL (R452): trip and throttle temperatures, current cap, leave maximum (log 10). -/
opaque fuseTtrip : BitVec 8
opaque fuseTthr : BitVec 8
opaque fuseIcap : BitVec 13
opaque fuseLmax : BitVec 16

/-- The fused base of Uzoip's 64 MiB firmware area (R455, log 10). -/
opaque fwArea : BitVec 52

/-- The part serial number in the attestation report (R458, log 10). -/
opaque serial : DWord

/-- This device's own peer id on the Lenoth fabric, which no register of the manual holds (R436, log 10). -/
opaque peerId : BitVec 16

/-- Word i of the public identity key (R458, log 10). -/
opaque idKey : Nat → DWord

/-- The private exponent that belongs to the identity key (R458, log 9). -/
opaque idExponent : Nat

/-- The firmware image that the package holds (R457, log 9). -/
opaque fwImage : List Byte

/-- The fuse map, with the repair maps that the repairs made so far have written into it (R450, R458, log 9). -/
opaque fuseMap : List Nat → List Byte

/-- The n-th value that the manual leaves open (log 12): a value of its own for each n, and nothing known of it. -/
opaque freeValue : Nat → DWord

end Sys2Proof.Config
end

