-- ==== Sys2Proof/Syntax.lean ====
section
/-! DEFINITION. The syntax of the Kryulaven KV40: the fields of each instruction format (R46 to R56), the data that an
event of the machine brings, and Instr, with one constructor for each row of the table of operations and events. -/

namespace Sys2Proof

/-- W1A, the one-word format (R46, R47): every field of word 0 but OP and LEN. -/
structure W1Ops where
  f : BitVec 3
  a : BitVec 7
  d : BitVec 7
  g : BitVec 4
  u : BitVec 1
  deriving DecidableEq, Repr

/-- W1I, the one-word immediate format (R48). -/
structure IOps where
  imm : BitVec 10
  d : BitVec 7
  g : BitVec 4
  u : BitVec 1
  deriving DecidableEq, Repr

/-- W1B, the one-word branch (R49). -/
structure BOps where
  off : BitVec 17
  g : BitVec 4
  u : BitVec 1
  deriving DecidableEq, Repr

/-- W3I over W1B (R56): the branch with two 32-bit word offsets. -/
structure BWOps where
  off : BitVec 17
  g : BitVec 4
  u : BitVec 1
  offA : BitVec 32
  offB : BitVec 32
  deriving DecidableEq, Repr

/-- W2A (R50), and W3I over W2A when imm is present (R56). -/
structure AOps where
  f : BitVec 3
  a : BitVec 7
  d : BitVec 7
  g : BitVec 4
  u : BitVec 1
  mod : BitVec 7
  rm : BitVec 3
  ty : BitVec 4
  fe : BitVec 2
  js : BitVec 2
  c : BitVec 7
  b : BitVec 7
  imm : Option (BitVec 32)
  deriving DecidableEq, Repr

/-- W2M (R51), and W3I over W2M when imm is present (R56). -/
structure MOps where
  f : BitVec 3
  a : BitVec 7
  d : BitVec 7
  g : BitVec 4
  u : BitVec 1
  disp : BitVec 10
  ty : BitVec 4
  fe : BitVec 2
  js : BitVec 2
  kind : BitVec 2
  scope : BitVec 2
  sc : BitVec 2
  ix : BitVec 1
  i : BitVec 7
  imm : Option (BitVec 32)
  deriving DecidableEq, Repr

/-- W2K (R52), and W3I over W2K when imm is present (R56). -/
structure KOps where
  f : BitVec 3
  a : BitVec 7
  d : BitVec 7
  g : BitVec 4
  u : BitVec 1
  mod : BitVec 7
  pd : BitVec 3
  z : BitVec 1
  qb : BitVec 1
  qa : BitVec 1
  qd : BitVec 1
  fe : BitVec 2
  js : BitVec 2
  c : BitVec 7
  b : BitVec 7
  imm : Option (BitVec 32)
  deriving DecidableEq, Repr

/-- W2Y (R53), and W3I over W2Y when imm is present (R56). -/
structure YOps where
  f : BitVec 3
  a : BitVec 7
  d : BitVec 7
  g : BitVec 4
  u : BitVec 1
  mod : BitVec 4
  ck : BitVec 1
  af : BitVec 4
  acc : BitVec 9
  ab : BitVec 7
  b : BitVec 7
  imm : Option (BitVec 32)
  deriving DecidableEq, Repr

/-- W2X (R54), and W3I over W2X when imm is present (R56). -/
structure XOps where
  f : BitVec 3
  a : BitVec 7
  d : BitVec 7
  g : BitVec 4
  u : BitVec 1
  xmod : BitVec 4
  spb : BitVec 6
  sv : BitVec 6
  sigo : BitVec 16
  imm : Option (BitVec 32)
  deriving DecidableEq, Repr

/-- W2S (R55), and W3I over W2S when imm is present (R56). -/
structure SOps where
  f : BitVec 3
  a : BitVec 7
  d : BitVec 7
  g : BitVec 4
  u : BitVec 1
  imm16 : BitVec 16
  z : BitVec 2
  scope : BitVec 2
  sel : BitVec 12
  imm : Option (BitVec 32)
  deriving DecidableEq, Repr

/-- Who makes a privileged register access (R32, R433, R455): a strand of a system region, the host through the
management window of one die, or a die's Uzoip firmware. -/
inductive Writer where
  | strand (sid : Nat)
  | host (die : Nat)
  | uzoip (die : Nat)
  deriving DecidableEq, Repr

/-- A Lenoth flit as it arrives at a port (R436), with the CRC that it carries; payload is its 224 bytes, of
which the sender gives the ones it uses. -/
structure Flit where
  port : Nat
  crc : Nat
  tstamp : Nat
  seq : Nat
  ack : Nat
  kind : Nat
  dest : Nat
  src : Nat
  gen : Nat
  addr : Nat
  payload : List Byte
  deriving DecidableEq, Repr

/-- Whose failed access a triage answer concerns (R199, R319, R470): some threads of a log entry of a strand, or a copy command
of a core. -/
inductive FaultOf where
  | entry (sid slot : Nat) (threads : BitVec 64)
  | copy (core ident : Nat)
  deriving DecidableEq, Repr

/-- What the heap-growth function grants (R225): a number of block indices, none for a refusal, and the table entries that it has
written to map their pages. -/
structure HeapGrant where
  blocks : Nat
  writes : List (Nat × DWord)
  deriving DecidableEq, Repr

/-- An access of Uzoip firmware: its physical address, and what a store puts there (R455). -/
structure FwAccess where
  addr : Nat
  write : Option DWord
  deriving DecidableEq, Repr

/-- The instructions of the KV40 and the events of the machine: one constructor for each row of
spec/opcode_table.json. A constructor of an instruction carries the fields of its format; a constructor of an event
carries which strand, core, line or table entry it concerns, and the data that arrives with it. -/
inductive Instr where
  /-- NOP (R121): Changes nothing but the PC, advancing to the next instruction. -/
  | nop (o : W1Ops)
  /-- BRA_W1B (R122): Branches by a 17-bit word offset when the guard holds in every active thread, and traps on divergent guards. -/
  | braW1b (o : BOps)
  /-- BRA (R122): Three-word branch with a 32-bit word offset in OFF32A. -/
  | bra (o : BWOps)
  /-- BRC (R124): Divergent branch that splits the active mask, pushes a divergence entry and runs the guarded threads from the body. -/
  | brc (o : BWOps)
  /-- BRX (R122): Branches to the address held in a uniform register. -/
  | brx (o : W1Ops)
  /-- CALL_W1B (R122): Branches by a 17-bit word offset and writes the return address into s62. -/
  | callW1b (o : BOps)
  /-- CALL (R122): Three-word call with a 32-bit word offset, linking into s62. -/
  | call (o : BWOps)
  /-- CALLX (R122): Calls the address in a uniform register and writes the link into another uniform register. -/
  | callx (o : W1Ops)
  /-- RET (R122): Returns to the address in a uniform register, unwinding loop entries it leaves. -/
  | ret (o : W1Ops)
  /-- LOOP (R126): Pushes a zero-overhead loop entry with the count from s63, or goes to the exit when the count is zero. -/
  | loop (o : BWOps)
  /-- EXIT (R140): Ends every active thread and applies the rejoin or end of the strand. -/
  | exit (o : W1Ops)
  /-- YIELD (R141): Makes the strand not ready until its same-priority peers have issued once or 64 cycles pass. -/
  | yield (o : W1Ops)
  /-- SPAWN (R146): Enters each active thread's argument record into the spawn bin chosen from the entry address, with per-thread status. -/
  | spawn (o : AOps)
  /-- LAUNCH (R150): Reads a child RCB, checks budgets, releases earlier writes and queues the child region. -/
  | launch (o : AOps)
  /-- JOIN (R151): Waits until every child in the join set has ended, or a timeout runs out, and writes status and counts. -/
  | join (o : AOps)
  /-- TRAP (R206): Raises the user-trap class of kind A with the 10-bit code in FADDR. -/
  | trap (o : IOps)
  /-- RETT (R207): Leaves handler mode, reloads state from the frame, replays or completes the delivered log entry and resumes at RPC. -/
  | rett (o : W1Ops)
  /-- DBG (R206): Raises the breakpoint class when the region is debug-enabled, otherwise acts as NOP. -/
  | dbg (o : IOps)
  /-- ADD_W1A (R94): One-word integer add with D as destination and source A. -/
  | addW1a (o : W1Ops)
  /-- ADD (R94): Integer add, optionally saturating, in two or three words. -/
  | add (o : AOps)
  /-- SUB_W1A (R94): One-word integer subtract. -/
  | subW1a (o : W1Ops)
  /-- SUB (R94): Integer subtract, optionally saturating, in two or three words. -/
  | sub (o : AOps)
  /-- MUL_W1A (R94): One-word integer multiply, low bits. -/
  | mulW1a (o : W1Ops)
  /-- MUL (R94): Integer multiply keeping the low w bits. -/
  | mul (o : AOps)
  /-- MULH_W1A (R94): One-word high-half multiply. -/
  | mulhW1a (o : W1Ops)
  /-- MULH (R94): Integer multiply keeping the high w bits. -/
  | mulh (o : AOps)
  /-- MAD_W1A (R94): One-word multiply-add with D as destination, source A and source C. -/
  | madW1a (o : W1Ops)
  /-- MAD (R94): Integer multiply-add keeping the low w bits. -/
  | mad (o : AOps)
  /-- DIV_W1A (R96): One-word integer divide that marks its destination empty until the quotient arrives. -/
  | divW1a (o : W1Ops)
  /-- DIV (R96): Integer divide truncating toward zero, with defined results for division by zero. -/
  | divOp (o : AOps)
  /-- REM_W1A (R96): One-word integer remainder. -/
  | remW1a (o : W1Ops)
  /-- REM (R96): Integer remainder with the sign of the dividend. -/
  | remOp (o : AOps)
  /-- MIN_W1A (R94): One-word integer minimum. -/
  | minW1a (o : W1Ops)
  /-- MIN (R94): Integer minimum per element. -/
  | minOp (o : AOps)
  /-- MAX_W1A (R94): One-word integer maximum. -/
  | maxW1a (o : W1Ops)
  /-- MAX (R94): Integer maximum per element. -/
  | maxOp (o : AOps)
  /-- ABS_W1A (R94): One-word integer absolute value. -/
  | absW1a (o : W1Ops)
  /-- ABS (R94): Integer absolute value, optionally saturating, in two words. -/
  | absOp (o : AOps)
  /-- AND_W1A (R94): One-word bitwise AND. -/
  | andW1a (o : W1Ops)
  /-- AND (R94): Bitwise AND. -/
  | andOp (o : AOps)
  /-- OR_W1A (R94): One-word bitwise OR. -/
  | orW1a (o : W1Ops)
  /-- OR (R94): Bitwise OR. -/
  | orOp (o : AOps)
  /-- XOR_W1A (R94): One-word bitwise XOR. -/
  | xorW1a (o : W1Ops)
  /-- XOR (R94): Bitwise XOR. -/
  | xorOp (o : AOps)
  /-- ANDN_W1A (R94): One-word AND with complement. -/
  | andnW1a (o : W1Ops)
  /-- ANDN (R94): Bitwise AND with the complement of source B. -/
  | andn (o : AOps)
  /-- SHL_W1A (R94): One-word shift left. -/
  | shlW1a (o : W1Ops)
  /-- SHL (R94): Shift left by the count modulo the element width. -/
  | shl (o : AOps)
  /-- SHR_W1A (R94): One-word logical shift right. -/
  | shrW1a (o : W1Ops)
  /-- SHR (R94): Logical shift right by the count modulo the element width. -/
  | shr (o : AOps)
  /-- SAR_W1A (R94): One-word arithmetic shift right. -/
  | sarW1a (o : W1Ops)
  /-- SAR (R94): Arithmetic shift right. -/
  | sar (o : AOps)
  /-- ROL_W1A (R94): One-word rotate left. -/
  | rolW1a (o : W1Ops)
  /-- ROL (R94): Rotate left by the count modulo the element width. -/
  | rol (o : AOps)
  /-- POPC_W1A (R94): One-word population count. -/
  | popcW1a (o : W1Ops)
  /-- POPC (R94): Counts the one bits of source A. -/
  | popc (o : AOps)
  /-- CLZ_W1A (R94): One-word count of leading zeros. -/
  | clzW1a (o : W1Ops)
  /-- CLZ (R94): Counts leading zero bits, w for zero. -/
  | clz (o : AOps)
  /-- BREV_W1A (R94): One-word bit reversal. -/
  | brevW1a (o : W1Ops)
  /-- BREV (R94): Reverses the bit order of source A. -/
  | brev (o : AOps)
  /-- BFX_W1A (R97): One-word bit-field extract. -/
  | bfxW1a (o : W1Ops)
  /-- BFX (R97): Extracts a bit field given by position and length in source B. -/
  | bfx (o : AOps)
  /-- BFI_W1A (R97): One-word bit-field insert. -/
  | bfiW1a (o : W1Ops)
  /-- BFI (R97): Replaces a bit field of source A with bits of source B. -/
  | bfi (o : AOps)
  /-- PERM_W1A (R97): One-word byte permute. -/
  | permW1a (o : W1Ops)
  /-- PERM (R97): Selects result bytes from eight source bytes by nibbles of source C. -/
  | perm (o : AOps)
  /-- LEA (R99): Computes a memory operand's effective address without accessing memory. -/
  | lea (o : MOps)
  /-- CMP (R100): Compares two integers by the condition in F and writes a predicate. -/
  | cmp (o : AOps)
  /-- SEL (R101): Writes source A where the guard holds and source B where it does not. -/
  | sel (o : AOps)
  /-- MOV_W1A (R102): One-word register move. -/
  | movW1a (o : W1Ops)
  /-- MOV (R102): Two-word register move with type and index fields. -/
  | mov (o : AOps)
  /-- MOVI_W1I (R102): Moves a 10-bit immediate, extended by type, into D. -/
  | moviW1i (o : IOps)
  /-- MOVI (R102): Moves a 32-bit immediate, extended by type, into D. -/
  | movi (o : AOps)
  /-- MOVS_W1A (R102): One-word broadcast of a uniform register into a vector register. -/
  | movsW1a (o : W1Ops)
  /-- MOVS (R102): Broadcasts a uniform register into a vector register or pair. -/
  | movs (o : AOps)
  /-- CSRR (R103): Reads a CSR into a uniform register, waiting where the CSR rules require. -/
  | csrr (o : SOps)
  /-- CSRW (R103): Writes a uniform register into a CSR under its field rules, for every later instruction. -/
  | csrw (o : SOps)
  /-- FADD_W1A (R104): One-word floating add. -/
  | faddW1a (o : W1Ops)
  /-- FADD (R104): Floating add, rounded once by RM. -/
  | fadd (o : AOps)
  /-- FSUB_W1A (R104): One-word floating subtract. -/
  | fsubW1a (o : W1Ops)
  /-- FSUB (R104): Floating subtract, rounded once. -/
  | fsub (o : AOps)
  /-- FMUL_W1A (R104): One-word floating multiply. -/
  | fmulW1a (o : W1Ops)
  /-- FMUL (R104): Floating multiply, rounded once. -/
  | fmul (o : AOps)
  /-- FFMA_W1A (R104): One-word fused multiply-add. -/
  | ffmaW1a (o : W1Ops)
  /-- FFMA (R104): Fused multiply-add with one rounding. -/
  | ffma (o : AOps)
  /-- FMIN_W1A (R106): One-word floating minimum. -/
  | fminW1a (o : W1Ops)
  /-- FMIN (R106): Floating minimum ordering -0 below +0 and ignoring a single NaN. -/
  | fmin (o : AOps)
  /-- FMAX_W1A (R106): One-word floating maximum. -/
  | fmaxW1a (o : W1Ops)
  /-- FMAX (R106): Floating maximum. -/
  | fmax (o : AOps)
  /-- FCMP_W1A (R107): One-word floating compare writing a predicate. -/
  | fcmpW1a (o : W1Ops)
  /-- FCMP (R107): Floating compare, including unordered, writing a predicate. -/
  | fcmp (o : AOps)
  /-- FCLASS_W1A (R107): One-word floating classification. -/
  | fclassW1a (o : W1Ops)
  /-- FCLASS (R107): Writes a one-hot class mask of an FP32 value. -/
  | fclass (o : AOps)
  /-- FRCP_W1A (R108): One-word correctly rounded reciprocal. -/
  | frcpW1a (o : W1Ops)
  /-- FRCP (R108): Correctly rounded reciprocal, destination empty until it arrives. -/
  | frcp (o : AOps)
  /-- FRSQ_W1A (R108): One-word reciprocal square root. -/
  | frsqW1a (o : W1Ops)
  /-- FRSQ (R108): Correctly rounded reciprocal square root. -/
  | frsq (o : AOps)
  /-- FSQRT_W1A (R108): One-word square root. -/
  | fsqrtW1a (o : W1Ops)
  /-- FSQRT (R108): Correctly rounded square root. -/
  | fsqrt (o : AOps)
  /-- FEXP2_W1A (R108): One-word base-2 exponential. -/
  | fexp2W1a (o : W1Ops)
  /-- FEXP2 (R108): Correctly rounded base-2 exponential. -/
  | fexp2 (o : AOps)
  /-- FLOG2_W1A (R108): One-word base-2 logarithm. -/
  | flog2W1a (o : W1Ops)
  /-- FLOG2 (R108): Correctly rounded base-2 logarithm. -/
  | flog2 (o : AOps)
  /-- FRND_W1A (R109): One-word round to integral value. -/
  | frndW1a (o : W1Ops)
  /-- FRND (R109): Rounds each element to an integral value by RM. -/
  | frnd (o : AOps)
  /-- CVT_W1A (R112): One-word conversion from i32 to f32. -/
  | cvtW1a (o : W1Ops)
  /-- CVT (R112): Converts runs of units between types under RM and overflow policy, counting conversion events. -/
  | cvt (o : AOps)
  /-- SHFL (R116): Reads source A of another thread within a segment by index, up, down or xor mode. -/
  | shfl (o : AOps)
  /-- VOTE (R117): Writes ALL, ANY or UNI of a predicate over active threads. -/
  | vote (o : AOps)
  /-- BALLOT (R117): Writes a 64-bit mask of active threads whose predicate holds. -/
  | ballot (o : AOps)
  /-- REDX (R118): Reduces source A over active threads into a uniform register. -/
  | redx (o : AOps)
  /-- SCAN (R118): Writes each thread's inclusive or exclusive prefix combination. -/
  | scan (o : AOps)
  /-- MATCH (R119): Writes each thread the mask of active threads with an equal source A. -/
  | matchOp (o : AOps)
  /-- LD (R158): Loads from global memory into D, marking it empty until data arrives. -/
  | ld (o : MOps)
  /-- ST (R158): Stores D to global memory for threads whose guard holds. -/
  | st (o : MOps)
  /-- LDL (R158): Loads from the cohort's scratchpad into D. -/
  | ldl (o : MOps)
  /-- STL (R158): Stores D to the cohort's scratchpad. -/
  | stl (o : MOps)
  /-- PREF_L1 (R161): Brings each addressed line into L1 or the uniform data cache if a slot is free. -/
  | prefL1 (o : MOps)
  /-- PREF_LLC (R161): Brings each addressed line into its home LLC slice. -/
  | prefLlc (o : MOps)
  /-- CLEAN_L1 (R161): Writes L1 dirty bytes of each line to the home slice, keeping the copy clean. -/
  | cleanL1 (o : MOps)
  /-- CLEAN_MEM (R161): Cleans each line from L1 and then writes the LLC line to memory. -/
  | cleanMem (o : MOps)
  /-- DROP_L1 (R161): Cleans and then invalidates the L1 copy of each line. -/
  | dropL1 (o : MOps)
  /-- DROP_LLC (R161): Drops the L1 copy, then writes back and evicts the unpinned LLC line. -/
  | dropLlc (o : MOps)
  /-- LOCK (R162): Pins each named LLC line to the context against its lock quota, with a status per thread. -/
  | lock (o : MOps)
  /-- UNLOCK (R162): Unpins each named line pinned by this context. -/
  | unlock (o : MOps)
  /-- ATOM (R164): Issues an atomic operation on global memory, returning the old value into D. -/
  | atom (o : MOps)
  /-- ATOML (R164): Issues an atomic operation on scratchpad, returning the old value into D. -/
  | atoml (o : MOps)
  /-- LEASE (R166): Requests an exclusive L1 holding of one line, marking the status empty. -/
  | lease (o : MOps)
  /-- UNLEASE (R166): Ends a lease the strand holds, writing its dirty bytes home as one step. -/
  | unlease (o : MOps)
  /-- WAIT (R168): Reads each word strongly and, for unsatisfied threads, registers monitors until a write satisfies them. -/
  | wait (o : MOps)
  /-- BAR_ARRIVE (R171): Counts the strand's arrival at a cohort barrier and records the phase. -/
  | barArrive (o : MOps)
  /-- BAR_WAIT (R171): Waits until the barrier's phase differs from the recorded one and writes status 0 or 5. -/
  | barWait (o : MOps)
  /-- BAR_SYNC (R171): Arrives at and then waits on a cohort barrier. -/
  | barSync (o : MOps)
  /-- BAR_EXPECT (R171): Adds a byte count to the barrier's PENDING. -/
  | barExpect (o : MOps)
  /-- FENCE_ACQ (R173): Holds later loads until earlier strong loads, atomics and WAITs complete and advances logical time. -/
  | fenceAcq (o : MOps)
  /-- FENCE_REL (R173): Performs earlier accesses and side-log entries at the scope before later stores and strong accesses. -/
  | fenceRel (o : MOps)
  /-- FENCE_AR (R173): Acts as both acquire and release fences. -/
  | fenceAr (o : MOps)
  /-- GBIND (R175): Binds up to three address ranges to a free guard object. -/
  | gbind (o : MOps)
  /-- ACQ_X (R176): Requests an exclusive hold of a guard and waits for the grant. -/
  | acqX (o : MOps)
  /-- ACQ_SH (R176): Requests a shared hold of a guard and waits for the grant. -/
  | acqSh (o : MOps)
  /-- REL (R176): Performs earlier writes in the guard's ranges, sets RELTIME and drops the hold. -/
  | rel (o : MOps)
  /-- KOPEN (R235): Opens a cursor, or with .APP an append cursor, on a fibre of a level. -/
  | kopen (o : KOps)
  /-- KNEXT (R237): Steps a cursor to its next valid position. -/
  | knext (o : KOps)
  /-- KSEEK (R237): Moves a cursor to the least position whose coordinate reaches the target, or looks it up in a hashed table. -/
  | kseek (o : KOps)
  /-- KSETP (R237): Moves a cursor forward to a requested position. -/
  | ksetp (o : KOps)
  /-- KDESC (R236): Opens the child fibre below a cursor's position. -/
  | kdesc (o : KOps)
  /-- KCOIT (R240): Co-iterates two cursors by intersection or union and writes the coordinate and match predicates. -/
  | kcoit (o : KOps)
  /-- KSPLIT (R238): Divides a cursor's remaining range in two halves. -/
  | ksplit (o : KOps)
  /-- KCRD (R241): Reads the coordinate at a cursor's position. -/
  | kcrd (o : KOps)
  /-- KPOS (R241): Reads a cursor's position. -/
  | kpos (o : KOps)
  /-- KVAL (R241): Reads the raw value at a cursor's position. -/
  | kval (o : KOps)
  /-- KAPP (R244): Appends a coordinate and value behind a BLOCK append cursor, taking heap blocks as needed. -/
  | kapp (o : KOps)
  /-- KAPM (R248): Merges a coordinate and value into a hashed level at its merge home. -/
  | kapm (o : KOps)
  /-- KCLOSE (R246): Releases at the scope, seals BLOCK head entries and returns heap allowances of closed append cursors. -/
  | kclose (o : KOps)
  /-- KMOV (R242): Copies a cursor, moving ownership of an append tail. -/
  | kmov (o : KOps)
  /-- CTINIT_Q (R264): Requests initialisation of a quantity counter home block. -/
  | ctinitQ (o : MOps)
  /-- CTINIT_R (R264): Requests initialisation of a range counter home block with an optional park area. -/
  | ctinitR (o : MOps)
  /-- CTINIT_EXT (R264): Requests the privileged extension of RESERVE or END. -/
  | ctinitExt (o : MOps)
  /-- CTTAKE_Q (R265): Takes a quantity locally or from the home, writing status 0 or 3. -/
  | cttakeQ (o : MOps)
  /-- CTTAKE_R (R265): Takes indices from the core's piece or the home, writing base and count. -/
  | cttakeR (o : MOps)
  /-- CTGIVE (R266): Adds to the core's amount and flushes any excess above CAP to the home. -/
  | ctgive (o : MOps)
  /-- CTREAD (R267): Requests an exact read of the counter. -/
  | ctread (o : MOps)
  /-- CTPEEK (R268): Returns the core's local amount or remainder without a request. -/
  | ctpeek (o : MOps)
  /-- CTDROP (R269): Returns the core's allowance entry to its home. -/
  | ctdrop (o : MOps)
  /-- MFILL (R286): Queues a copy of bytes from global, weight store or scratchpad into the B-slices. -/
  | mfill (o : YOps)
  /-- MLDW (R287): Queues a load of the shadow plane from B-slice images, with metadata, map and checksum row sums. -/
  | mldw (o : YOps)
  /-- MSWAP (R288): Queues the exchange of active and shadow planes. -/
  | mswap (o : YOps)
  /-- MMUL (R289): Checks operands, takes leave and queues the streaming of A rows through the active plane into accumulator rows. -/
  | mmul (o : YOps)
  /-- MZERO (R290): Queues the zeroing of accumulator rows. -/
  | mzero (o : YOps)
  /-- MRD (R290): Queues a read of accumulator rows into vector registers. -/
  | mrd (o : YOps)
  /-- MWR (R290): Reads vector registers and queues their write into accumulator rows. -/
  | mwr (o : YOps)
  /-- MEPI (R298): Queues scaling, bias, activation and conversion of rows into scratchpad. -/
  | mepi (o : YOps)
  /-- MEPI_ROUTE (R299): Queues the writing of route records from top-k rows. -/
  | mepiRoute (o : YOps)
  /-- MTOPK_ACC (R302): Feeds row elements as candidates into the top-k rows. -/
  | mtopkAcc (o : YOps)
  /-- MTOPK_CLR (R302): Empties top-k rows. -/
  | mtopkClr (o : YOps)
  /-- MTOPK_OUT (R302): Writes the first k entries of top-k rows to scratchpad. -/
  | mtopkOut (o : YOps)
  /-- MCHK (R308): Checks rows and columns against checksums and writes a result block. -/
  | mchk (o : YOps)
  /-- MCHK_CLR (R308): Checks and then clears the checksums. -/
  | mchkClr (o : YOps)
  /-- MCHK_RST (R308): Resets row and column checksums to +0. -/
  | mchkRst (o : YOps)
  /-- MLDT (R329): Loads scratchpad rows of halfwords transposed into vector registers. -/
  | mldt (o : MOps)
  /-- XCOPY (R321): Queues a copy from global memory or the weight store into scratchpad. -/
  | xcopy (o : XOps)
  /-- XSTORE (R321): Queues a copy from scratchpad to global memory or the weight store. -/
  | xstore (o : XOps)
  /-- XGATHER (R325): Queues gathering of indexed global rows into scratchpad. -/
  | xgather (o : XOps)
  /-- XSCAT (R325): Queues scattering of scratchpad rows to indexed global rows, optionally adding. -/
  | xscat (o : XOps)
  /-- XMCAST (R327): Queues a copy of one global source into the scratchpad of up to eight cohorts of the cluster. -/
  | xmcast (o : XOps)
  /-- XDISP (R343): Hands route records to the owner dispatch engines, with .STEP setting compatibility capacity first. -/
  | xdisp (o : XOps)
  /-- XDISP_B (R346): Adds batch gradient rows into the input-gradient rows. -/
  | xdispB (o : XOps)
  /-- XCOMB (R344): Fills combine slots from expert output rows and completes tokens. -/
  | xcomb (o : XOps)
  /-- XCOMB_B (R346): Writes score-weighted output gradients into scratchpad rows. -/
  | xcombB (o : XOps)
  /-- TLBINV_RANGE (R384): Drops translations and cached lines of an ASID's pages in a range. -/
  | tlbinvRange (o : SOps)
  /-- TLBINV_ASID (R384): Drops every translation of one ASID. -/
  | tlbinvAsid (o : SOps)
  /-- TLBINV_ALL (R384): Drops every translation of every ASID. -/
  | tlbinvAll (o : SOps)
  /-- ICINV (R385): Invalidates instruction-cache lines and fetched-ahead instructions in a range. -/
  | icinv (o : SOps)
  /-- MARK (R462): Writes a program marker into the negative of a debug region. -/
  | mark (o : SOps)
  /-- YIELD_TIMEOUT (R141): After 64 cycles a yielded strand becomes ready again. -/
  | yieldTimeout (sid : Nat)
  /-- SPAWN_BIN_TIMER (R143): The bin's spawn-interval timer expires and the bin closes its pending list into a formed strand. -/
  | spawnBinTimer (core : Nat) (bin : Nat)
  /-- SPAWN_RESIDENCY (R144): A formed strand becomes a resident spawn cohort of one strand once a core has room. -/
  | spawnResidency (core : Nat) (bin : Nat)
  /-- JOIN_TIMEOUT (R151): The JOIN timeout elapses first and status 1 is written with the join set unchanged. -/
  | joinTimeout (sid : Nat)
  /-- DIVISION_COMPLETE (R96): A DIV or REM result arrives and its destination is marked full. -/
  | divisionComplete (sid : Nat) (seq : Nat)
  /-- TRANSCENDENTAL_COMPLETE (R108): A transcendental result arrives, fills its destination and merges its flags. -/
  | transcendentalComplete (sid : Nat) (seq : Nat)
  /-- LOAD_DATA_ARRIVAL (R158): Data of an outstanding load arrives for every active thread and the destination is marked full. -/
  | loadDataArrival (sid : Nat) (slot : Nat)
  /-- ATOMIC_AT_HOME (R165): The atomic's operation and write are applied as one indivisible step at the home slice or bank. -/
  | atomicAtHome (sid : Nat) (slot : Nat)
  /-- LEASE_GRANT (R166): The home grants or refuses a lease and fills the status register. -/
  | leaseGrant (sid : Nat) (slot : Nat)
  /-- LEASE_EXPIRY (R167): A lease ends 4,096 cycles after its grant and its dirty bytes go home together. -/
  | leaseExpiry (core : Nat) (line : Nat)
  /-- SWAP_OUT (R40): A strand waiting 16 µs in WAIT, ACQ or JOIN, or whose slot is needed, is swapped out to its spill record. -/
  | swapOut (sid : Nat)
  /-- STRAND_RESTORE (R40): A swapped-out strand is made resident again and its state restored bit for bit. -/
  | strandRestore (sid : Nat)
  /-- GUARD_GRANT (R176): The guard's home grants a queued request in arrival order and fills the status, advancing logical time. -/
  | guardGrant (guard : Nat)
  /-- WRITE_PERFORMED (R181): A write is applied at its home, stamped in logical time and placed in the byte's coherence order. -/
  | writePerformed (sid : Nat) (slot : Nat)
  /-- STRONG_READ_AT_HOME (R181): A strong load or WAIT read is performed at the home, returning the last write and its wts. -/
  | strongReadAtHome (sid : Nat) (slot : Nat)
  /-- L1_WRITE_BACK (R412): Dirty L1 bytes of a line are written back to the home as one write, at the latest after 8,192 cycles. -/
  | l1WriteBack (core : Nat) (line : Nat)
  /-- TRAP_ENTRY (R202): After the strand drains, the frame and log image are written, s60 and s61 set, and the handler entered. -/
  | trapEntry (sid : Nat)
  /-- TRIAGE_RETURN (R199): Triage returns a fault, the entry becomes failed and the class awaits delivery or goes to the host. -/
  | triageReturn (who : FaultOf)
  /-- HOME_CTINIT (R264): The home discards every holder's entry and writes the block, or applies an extension. -/
  | homeCtinit (sid : Nat) (slot : Nat) (thread : Nat)
  /-- HOME_QUANTITY_TAKE (R256): The home serves a quantity take, recalling if needed, and grants in grain units or fails. -/
  | homeQuantityTake (sid : Nat) (slot : Nat) (thread : Nat)
  /-- HOME_RANGE_TAKE (R257): The home grants a parked piece, a fresh piece, a recalled half, or none. -/
  | homeRangeTake (sid : Nat) (slot : Nat) (thread : Nat)
  /-- COUNTER_RECALL (R258): A holder receives a recall, freezes its entry and reports its amount or remainder. -/
  | counterRecall (core : Nat) (block : Nat)
  /-- GIVE_FLUSH (R266): The home adds a flushed amount to RESERVE, saturating at the limit. -/
  | giveFlush (sid : Nat) (slot : Nat) (thread : Nat)
  /-- EXACT_READ (R261): The home freezes holders and returns V or the unissued count, as one request. -/
  | exactRead (sid : Nat) (slot : Nat) (thread : Nat)
  /-- COUNTER_RETURN (R259): The home applies a returned amount or piece to RESERVE, NEXT, the park or LOST. -/
  | counterReturn (core : Nat) (block : Nat) (init : Nat) (piece : Bool)
  /-- MATRIX_ENTRY_START (R279): A matrix queue entry starts once every earlier conflicting entry has completed. -/
  | matrixEntryStart (core : Nat) (ident : Nat)
  /-- MATRIX_COMPLETION (R280): A matrix entry finishes its writes, flips tiles back, returns leave and writes its status. -/
  | matrixCompletion (core : Nat) (ident : Nat)
  /-- POWER_LEAVE_RETRY (R282): A failed leave take is repeated after 1,024 cycles. -/
  | powerLeaveRetry (core : Nat) (ident : Nat)
  /-- COPY_COMMAND_START (R313): The copy engine starts a queued command in its strand's issue order. -/
  | copyCommandStart (core : Nat) (ident : Nat)
  /-- COPY_TILE_RETURN (R315): A covered tile flips back to the threads after the command's last access, subtracting barrier bytes. -/
  | copyTileReturn (core : Nat) (ident : Nat) (tile : Nat)
  /-- DISPATCH_RECORD (R340): The owner engine places, queues late, drops or marks one route record. -/
  | dispatchRecord (die : Nat) (engine : Nat)
  /-- DISPATCH_INSTANT (R338): At each multiple of TPER the engine closes batches, refills capacity and drains late queues. -/
  | dispatchInstant (die : Nat) (engine : Nat)
  /-- BATCH_CLOSE_WINDOW (R338): With close policy 1 the open batch closes at OPENT + CLOSEW. -/
  | batchCloseWindow (lcb : Nat) (expert : Nat)
  /-- PRODUCT_SPAWN_RETRY (R341): The engine retries entering product-work threads into a busy bin every 1,024 cycles. -/
  | productSpawnRetry (lcb : Nat) (expert : Nat)
  /-- COHORT_PLACEMENT (R360): When a core's room changes, the placement engine places the next fitting tile by queue and hash. -/
  | cohortPlacement (die : Nat)
  /-- PREEMPT_DRAIN_COMPLETE (R361): When the last cohort of a draining region ends, allowances return and STATE becomes 4. -/
  | preemptDrainComplete (rid : Nat)
  /-- SHUTTER_EXPIRY (R364): The shutter timer expires before the drain completes and the region is terminated with state 8. -/
  | shutterExpiry (rid : Nat)
  /-- AGEING_STEP (R362): A region waiting AGE µs without placement moves one queue up, possibly becoming the blocker. -/
  | ageingStep (rid : Nat)
  /-- PAGE_WALK (R376): A die-TLB miss is walked through the page tables, entering the leaf or raising the translation fault. -/
  | pageWalk (die : Nat) (asid : Nat) (vpage : Nat)
  /-- LLC_PROBE (R405): A CSRR of LLCPRB probes the tag of the selected line at its home slice. -/
  | llcProbe (sid : Nat) (dst : Nat)
  /-- LLC_COUNTER_READ (R406): A CSRR of an LLC counter reads it as a strong load performed at its slices. -/
  | llcCounterRead (sid : Nat) (csr : Nat) (dst : Nat)
  /-- LT_TICK (R408): A core's logical time advances by one every 16 cycles. -/
  | ltTick (core : Nat)
  /-- HOLDING_END_MESSAGE (R417): A holder's end message with its dirty bytes reaches the home and is performed or cancelled by VER. -/
  | holdingEndMessage (core : Nat) (line : Nat) (ver : Nat) (bytes : List (Nat × Byte))
  /-- WS_REFRESH_WINDOW (R36): A weight-store bank's refresh window opens or closes on the fixed schedule, releasing stalled accesses. -/
  | wsRefreshWindow (bank : Nat) (opens : Bool)
  /-- FLIT_DELIVERY (R442): A combined line is written to member HBM and CSIG is incremented. -/
  | flitDelivery (flit : Flit)
  /-- PORT_RETRAIN (R437): A port that sends 16 NAKs in 10 µs without progress retrains. -/
  | portRetrain (port : Nat)
  /-- POWER_TOPUP (R451): Every 100,000 ns the top-up function reads each die's leave and brings it to the target. -/
  | powerTopup (target0 : Nat) (target1 : Nat)
  /-- CONTACT_SHEET_WRITE (R460): After the drain the sheet is written, CSHHEAD advanced and placement resumed. -/
  | contactSheetWrite (rid : Nat)
  /-- PTP_MESSAGE_TIMER (R445): The boundary clock's message intervals and receipt timeouts expire, sending Sync, Pdelay or Announce messages or changing port state. -/
  | ptpMessageTimer (port : Nat) (kind : Nat)
  /-- REBUILD_SPACING_END (R443): A group rebuild that was deferred by the 64 µs spacing starts when the spacing ends. -/
  | rebuildSpacingEnd (group : Nat)
  /-- TRIAGE_REPAIR (R199): The fault-triage function repairs a mapping and the held or deferred entry is re-issued or replayed. -/
  | triageRepair (who : FaultOf) (writes : List (Nat × DWord))
  /-- HEAP_GROWTH (R225): The heap-growth function maps pool pages, extends END and re-issues the held append, or delivers class 12. -/
  | heapGrowth (sid : Nat) (slot : Nat) (grant : HeapGrant)
  /-- HOST_TLBINV (R384): The host performs a TLB invalidation through the management window. -/
  | hostTlbinv (sel : Nat) (asid : Nat) (base : Nat) (len : Nat)
  /-- WINDOW_LAUNCH (R358): A window LAUNCH reads the RCB and queues the region with no parent, or gives a code. -/
  | windowLaunch (asid : Nat) (rcb : Nat) (priv : Bool)
  /-- WINDOW_PREEMPT (R361): A window PREEMPT starts draining the region and its shutter. -/
  | windowPreempt (asid : Nat) (rcb : Nat) (priv : Bool)
  /-- WINDOW_KILL (R363): A window KILL terminates the region with state 7. -/
  | windowKill (asid : Nat) (rcb : Nat) (priv : Bool)
  /-- WINDOW_RESUME (R358): A window RESUME resumes every host-held strand of the region from its frame. -/
  | windowResume (asid : Nat) (rcb : Nat) (priv : Bool)
  /-- WINDOW_FAULT (R363): A window FAULT terminates the region with state 6. -/
  | windowFault (asid : Nat) (rcb : Nat) (priv : Bool)
  /-- CTXKILL_WRITE (R370): Writing an ASID to CTXKILL destroys the context, terminating its regions and flushing its state. -/
  | ctxkillWrite (asid : Nat)
  /-- HOST_TRANSLATION_ANSWER (R377): In host-assisted mode the host's leaf or none answers a translation request. -/
  | hostTranslationAnswer (die : Nat) (asid : Nat) (vpage : Nat) (leaf : Option (DWord × Nat))
  /-- LLC_FILL (R398): A line is allocated and encoded at its home slice, evicting unpinned lines as needed. -/
  | llcFill (line : Nat)
  /-- COPY_RENEWAL (R410): The home renews or fills a core's timed copy, extending rts by the lease. -/
  | copyRenewal (core : Nat) (cache : Nat) (asid : Nat) (vline : Nat)
  /-- EPOCH_FLIP (R415): When a stamp would reach 2^31 both dies write back dirty bytes, reset stamps and advance the epoch. -/
  | epochFlip
  /-- SAFELIGHT_ENTRY (R416): A gated core's caches enter retention, keeping FLIPS as SNAP. -/
  | safelightEntry (core : Nat)
  /-- SAFELIGHT_WAKE (R416): A waking core discards its cache lines if two or more flips have passed. -/
  | safelightWake (core : Nat)
  /-- HOST_SNOOP (R418): A host snoop invalidates a device copy of a host line, taking dirty bytes first. -/
  | hostSnoop (line : Nat)
  /-- HOST_MEM_READ (R418): A host CXL.mem read of HBM is performed at the home slice. -/
  | hostMemRead (addr : Nat) (len : Nat)
  /-- HOST_MEM_WRITE (R434): A host CXL.mem write is performed at its home slice before Cmp is sent. -/
  | hostMemWrite (addr : Nat) (bytes : List Byte)
  /-- HOST_GO_RECEIPT (R434): A device write to host memory is performed when its global-observation message arrives. -/
  | hostGoReceipt
  /-- HOST_SHARED_FILL (R418): A host-memory line arrives as a CXL.cache shared copy into a core cache. -/
  | hostSharedFill (core : Nat) (cache : Nat) (asid : Nat) (vline : Nat)
  /-- MGMT_WINDOW_ACCESS (R433): A host access to the management window acts as a CSR read or write on that die. -/
  | mgmtWindowAccess (die : Nat) (csr : Nat) (write : Option DWord)
  /-- REGISTER_WRITE (R433): A write to a register with no row of its own stores its fields under their access rules. -/
  | registerWrite (who : Writer) (csr : Nat) (value : DWord)
  /-- MINJ_WRITE (R309): A write of MINJ arms or disarms the error injector bound to the writer's cohort. -/
  | minjWrite (who : Writer) (value : DWord)
  /-- MODESEL_WRITE (R454): A write of MODESEL changes function modes, Uzoip being able only to set bits. -/
  | modeselWrite (who : Writer) (value : DWord)
  /-- PWRCTL_WRITE (R452): A write of BUDGET stores it, or 1,600 when out of range. -/
  | pwrctlWrite (who : Writer) (value : DWord)
  /-- VSET_WRITE (R452): A write of the core-rail setpoint is clamped to 360-520 mV. -/
  | vsetWrite (who : Writer) (value : DWord)
  /-- LEASELEN_WRITE (R414): A write of LEASE stores it, or 256 when out of range, for later renewals. -/
  | leaselenWrite (who : Writer) (value : DWord)
  /-- DTSET_WRITE (R445): Sets device time once before the first launch, later writes being discarded. -/
  | dtsetWrite (who : Writer) (value : DWord)
  /-- HBMERR_READ (R423): A read of HBMERR returns the stack's error state and clears its counts. -/
  | hbmerrRead (stack : Nat)
  /-- ATNONCE_WRITE (R458): Writing the nonce starts an attestation report. -/
  | atnonceWrite (word : Nat) (value : DWord)
  /-- ATTESTATION_REPORT (R458): The signed attestation report is completed and ATBUSY reads 0. -/
  | attestationReport
  /-- HBM_PATROL_SCRUB (R421): Each stack reads and corrects every line once in 24 hours. -/
  | hbmPatrolScrub (stack : Nat) (bad : List (Nat × Bool))
  /-- FLIT_READ (R438): A read flit from a peer is performed at this device's home slice. -/
  | flitRead (flit : Flit)
  /-- FLIT_WRITE (R438): A write flit from a peer is performed at this device's home slice. -/
  | flitWrite (flit : Flit)
  /-- FLIT_COMPLETION (R436): A completion flit answers an earlier peer-window access. -/
  | flitCompletion (flit : Flit)
  /-- FLIT_CONTRIBUTION (R440): A multicast-reduce contribution of the current generation is recorded for its line. -/
  | flitContribution (flit : Flit)
  /-- FLIT_PTP (R445): A PTP message flit is processed by the boundary clock and servo. -/
  | flitPtp (flit : Flit)
  /-- FLIT_ACK (R437): An ACK releases acknowledged flits from the replay buffer. -/
  | flitAck (flit : Flit)
  /-- FLIT_NAK (R437): A NAK makes the sender replay from its oldest unacknowledged flit. -/
  | flitNak (flit : Flit)
  /-- MEMBER_FAILURE (R443): A member lost by a 1 ms link down or reset causes the group to be rebuilt under a new generation. -/
  | memberFailure (peer : Nat)
  /-- CURRENT_CAP (R453): While core-rail current exceeds ICAP each quadrant issues at most once in two cycles. -/
  | currentCap (hot : Bool)
  /-- THERMAL_THROTTLE (R453): At TTHR the array accepts a new MMUL only every 256 cycles. -/
  | thermalThrottle (hot : Bool)
  /-- THERMAL_TRIP (R453): At TTRIP the core rail drops and the package enters device reset. -/
  | thermalTrip
  /-- DEVICE_RESET (R457): Reset runs built-in test and repair, zeroes the weight store, measures and verifies firmware. -/
  | deviceReset (imageOk : Bool) (retire : List (Nat × Nat))
  /-- UZOIP_DISCARDED_ACCESS (R455): A Uzoip access outside its area and inspection grants is discarded and logged. -/
  | uzoipDiscardedAccess (die : Nat) (access : FwAccess)
  /-- LIFETIME_RECORD (R459): Once each hour the cumulative lifetime record is written to the alternate copy. -/
  | lifetimeRecord
  /-- CONTACT_SHEET (R460): At each CSHINT multiple placement stops and a debug region is drained. -/
  | contactSheet
  /-- CRC_FAILED_FLIT (R437): A received flit that fails its CRC or arrives out of SEQ order is answered with a NAK instead of being passed upward. -/
  | crcFailedFlit (port : Nat)
  /-- LOSS_OF_POWER (R459): Power is lost, possibly interrupting a lifetime-record write, which leaves the other copy whole. -/
  | lossOfPower
  /-- BISNP_REPLY (R418): The host's reply to a back-invalidate snoop arrives with any dirty data, letting the slice perform the waiting device write. -/
  | bisnpReply (line : Nat) (bytes : List (Nat × Byte))
  deriving DecidableEq, Repr

end Sys2Proof
end

