-- ==== Sys2Proof/Decode.lean ====
section
/-! DEFINITION. Fetch words to instruction: the fields of each format (R46 to R56), what each opcode permits
(R57 to R66 and the entries), the decode checks in the order of R67, the decoder and the encoder. -/

namespace Sys2Proof

open Sys2Proof.Machine

/-- An instruction as its words: word 0 field by field (R46), and words 1 and 2, zero where it has none. -/
structure Raw where
  f : BitVec 3
  a : BitVec 7
  d : BitVec 7
  g : BitVec 4
  op : BitVec 8
  u : BitVec 1
  len : BitVec 2
  w1 : BitVec 32
  w2 : BitVec 32
  deriving DecidableEq, Repr

/-- The fields of word 0 (R46), with the words that LEN says follow. -/
def rawOfWords (w0 w1 w2 : BitVec 32) : Raw :=
  let len := w0.extractLsb' 0 2
  { f := w0.extractLsb' 29 3, a := w0.extractLsb' 22 7, d := w0.extractLsb' 15 7, g := w0.extractLsb' 11 4,
    op := w0.extractLsb' 3 8, u := w0.extractLsb' 2 1, len := len,
    w1 := if len = 1#2 ∨ len = 2#2 then w1 else 0#32,
    w2 := if len = 2#2 then w2 else 0#32 }

/-- Word 0 from its fields (R46). -/
def Raw.word0 (r : Raw) : BitVec 32 := r.f ++ r.a ++ r.d ++ r.g ++ r.op ++ r.u ++ r.len

/-- The instruction's length in bytes (R41); 0 for LEN = 11. -/
def Raw.bytes (r : Raw) : Nat :=
  if r.len = 0#2 then 4 else if r.len = 1#2 then 8 else if r.len = 2#2 then 12 else 0

/-! The fields of words 1 and 2 as natural numbers. -/

def Raw.mod (r : Raw) : Nat := bits r.w1.toNat 31 25
def Raw.fe (r : Raw) : Nat := bits r.w1.toNat 17 16
def Raw.js (r : Raw) : Nat := bits r.w1.toNat 15 14
def Raw.c (r : Raw) : Nat := bits r.w1.toNat 13 7
def Raw.b (r : Raw) : Nat := bits r.w1.toNat 6 0
def Raw.disp10 (r : Raw) : Nat := bits r.w1.toNat 31 22
def Raw.kind (r : Raw) : Nat := bits r.w1.toNat 13 12
def Raw.scopeM (r : Raw) : Nat := bits r.w1.toNat 11 10
def Raw.sc (r : Raw) : Nat := bits r.w1.toNat 9 8
def Raw.ix (r : Raw) : Bool := bit r.w1.toNat 7
def Raw.i (r : Raw) : Nat := bits r.w1.toNat 6 0
def Raw.pd (r : Raw) : Nat := bits r.w1.toNat 24 22
def Raw.qb (r : Raw) : Bool := bit r.w1.toNat 20
def Raw.qa (r : Raw) : Bool := bit r.w1.toNat 19
def Raw.qd (r : Raw) : Bool := bit r.w1.toNat 18
def Raw.ymod (r : Raw) : Nat := bits r.w1.toNat 31 28
def Raw.ck (r : Raw) : Bool := bit r.w1.toNat 27
def Raw.af (r : Raw) : Nat := bits r.w1.toNat 26 23
def Raw.acc (r : Raw) : Nat := bits r.w1.toNat 22 14
def Raw.ab (r : Raw) : Nat := bits r.w1.toNat 13 7
def Raw.spb (r : Raw) : Nat := bits r.w1.toNat 27 22
def Raw.sv (r : Raw) : Nat := bits r.w1.toNat 21 16
def Raw.sigo (r : Raw) : Nat := bits r.w1.toNat 15 0
def Raw.imm16 (r : Raw) : Nat := bits r.w1.toNat 31 16
def Raw.scopeS (r : Raw) : Nat := bits r.w1.toNat 13 12
def Raw.sel (r : Raw) : Nat := bits r.w1.toNat 11 0
def Raw.barp (r : Raw) : Bool := bit r.w2.toNat 31
def Raw.baro (r : Raw) : Nat := bits r.w2.toNat 30 19
def Raw.spd (r : Raw) : Nat := bits r.w2.toNat 18 0
def Raw.imm32 (r : Raw) : Nat := r.w2.toNat
def Raw.imm10 (r : Raw) : Nat := r.f.toNat * 128 + r.a.toNat
def Raw.off17 (r : Raw) : Nat := r.imm10 * 128 + r.d.toNat

/-- The second base format of an opcode: the layout of its word 1 (R50 to R55). -/
inductive Base where
  | none | a | m | k | y | x | s
  deriving DecidableEq, Repr

/-- What a register field names (R59); none is a field the instruction does not use. -/
inductive Cls where
  | none | v | s | p | k
  deriving DecidableEq, Repr

/-- What one opcode permits: its one-word format (0 none, 1 W1A, 2 W1I, 3 W1B), the layout of its second word, whether
two and three words are permitted (R65), guard (R57), U (R58), types as a mask over TY codes (R61) and the default type
(R93), whether it rounds (R62), the classes of D, A, B and C, and the masks of F values and modifier bits it uses. -/
structure OpInfo where
  one : Nat
  base : Base
  two : Bool
  three : Bool
  guard : Bool
  either : Bool
  tys : Nat
  dty : Nat
  rounds : Bool
  cd : Cls
  ca : Cls
  cb : Cls
  cc : Cls
  fs : Nat
  mods : Nat
  deriving DecidableEq, Repr

/-- The opcode takes no second word. -/
def infoW1 (one : Nat) (guard : Bool) (cd ca : Cls) : OpInfo :=
  ⟨one, .none, false, false, guard, false, 0xFFFF, 0, false, cd, ca, .none, .none, if one = 1 then 1 else 255, 0⟩

/-- A branch in W3I over W1B, with or without W1B. -/
def infoBr (one : Nat) (guard : Bool) : OpInfo :=
  ⟨one, .none, false, true, guard, false, 0xFFFF, 0, false, .none, .none, .none, .none, 255, 0⟩

/-- An integer or floating instruction with W1A, W2A and, given a source B, W3I over W2A. -/
def infoAlu (tys dty : Nat) (rounds : Bool) (cd cb cc : Cls) (mods : Nat) : OpInfo :=
  ⟨1, .a, true, cb != .none, false, true, tys, dty, rounds, cd, .v, cb, cc, 1, mods⟩

/-- A cross-lane or strand-level instruction in W2A. -/
def infoA (three guard either : Bool) (tys dty : Nat) (rounds : Bool) (cd ca cb cc : Cls) (fs mods : Nat) : OpInfo :=
  ⟨0, .a, true, three, guard, either, tys, dty, rounds, cd, ca, cb, cc, fs, mods⟩

/-- A memory or counter instruction in W2M. -/
def infoM (guard either : Bool) (tys dty : Nat) (cd ca : Cls) (fs : Nat) : OpInfo :=
  ⟨0, .m, true, true, guard, either, tys, dty, false, cd, ca, .none, .none, fs, 0⟩

/-- A cursor instruction in W2K. -/
def infoK (three : Bool) (cd ca cb cc : Cls) (fs mods : Nat) : OpInfo :=
  ⟨0, .k, true, three, false, false, 0xFFFF, 0, false, cd, ca, cb, cc, fs, mods⟩

/-- A matrix instruction in W2Y; tys is the mask of AF codes it permits. -/
def infoY (tys : Nat) (rounds : Bool) (cd ca cb : Cls) (fs mods : Nat) : OpInfo :=
  ⟨0, .y, true, true, false, false, tys, 0, rounds, cd, ca, cb, .none, fs, mods⟩

/-- An engine command in W2X. -/
def infoX (fs mods : Nat) : OpInfo :=
  ⟨0, .x, true, true, false, false, 0xFFFF, 0, false, .s, .s, .none, .none, fs, mods⟩

/-- A system instruction in W2S. -/
def infoS (three : Bool) (cd ca : Cls) : OpInfo :=
  ⟨0, .s, true, three, false, false, 0xFFFF, 0, false, cd, ca, .none, .none, 1, 0⟩

/-! Masks of TY codes (R8): the eight integer types, the wide ones, every code below fa40, the narrow floats. -/

def tyAll : Nat := 0x00FF
def tyWide : Nat := 0x000F
def tyMove : Nat := 0x3FFF
def tyNarrow : Nat := 0x0700
def tyF32 : Nat := 0x0100
def tyWideF : Nat := 0x010F

/-- The opcode map (R64) with what each entry permits; none for an unassigned value (R66). -/
def opInfo (op : Nat) : Option OpInfo :=
  match op with
  | 0x00 => some (infoW1 1 false .none .none)
  | 0x01 => some (infoBr 3 true)
  | 0x02 => some (infoBr 0 true)
  | 0x03 => some (infoW1 1 true .none .s)
  | 0x04 => some (infoBr 3 true)
  | 0x05 => some (infoW1 1 true .s .s)
  | 0x06 => some (infoW1 1 false .none .s)
  | 0x07 => some (infoBr 0 false)
  | 0x08 => some (infoW1 1 false .none .none)
  | 0x09 => some (infoW1 1 false .none .none)
  | 0x0A => some (infoA true false false 1 0 false .v .v .s .s 1 0x1F)
  | 0x0B => some (infoA true false false 1 0 false .s .s .none .none 1 0)
  | 0x0C => some (infoA true false false 1 0 false .s .none .none .none 1 0)
  | 0x0D => some (infoW1 2 false .none .none)
  | 0x0E => some (infoW1 1 false .none .none)
  | 0x0F => some (infoW1 2 false .none .none)
  | 0x20 => some (infoAlu tyAll 0 false .v .v .none 1)
  | 0x21 => some (infoAlu tyAll 0 false .v .v .none 1)
  | 0x22 => some (infoAlu tyAll 0 false .v .v .none 0)
  | 0x23 => some (infoAlu tyWide 0 false .v .v .none 0)
  | 0x24 => some (infoAlu 0x003F 0 false .v .v .v 0)
  | 0x25 => some (infoAlu tyWide 0 false .v .v .none 0)
  | 0x26 => some (infoAlu tyWide 0 false .v .v .none 0)
  | 0x27 => some (infoAlu tyAll 0 false .v .v .none 0)
  | 0x28 => some (infoAlu tyAll 0 false .v .v .none 0)
  | 0x29 => some (infoAlu 0x0055 0 false .v .none .none 1)
  | 0x2A => some (infoAlu tyAll 0 false .v .v .none 0)
  | 0x2B => some (infoAlu tyAll 0 false .v .v .none 0)
  | 0x2C => some (infoAlu tyAll 0 false .v .v .none 0)
  | 0x2D => some (infoAlu tyAll 0 false .v .v .none 0)
  | 0x2E => some (infoAlu tyAll 0 false .v .v .none 0)
  | 0x2F => some (infoAlu tyAll 0 false .v .v .none 0)
  | 0x30 => some (infoAlu tyAll 0 false .v .v .none 0)
  | 0x31 => some (infoAlu tyAll 0 false .v .v .none 0)
  | 0x32 => some (infoAlu tyWide 0 false .v .none .none 0)
  | 0x33 => some (infoAlu tyWide 0 false .v .none .none 0)
  | 0x34 => some (infoAlu tyWide 0 false .v .none .none 0)
  | 0x35 => some (infoAlu tyWide 0 false .v .v .none 0)
  | 0x36 => some (infoAlu tyWide 0 false .v .v .v 0)
  | 0x37 => some (infoAlu 2 1 false .v .v .v 0)
  | 0x38 => some (infoM false true 0x000A 3 .v .s 1)
  | 0x39 => some (infoA true false true tyWide 0 false .p .v .v .none 0x3F 0)
  | 0x3A => some (infoA true true true tyMove 0 false .v .v .v .none 1 0)
  | 0x3B => some ⟨1, .a, true, false, false, true, tyMove, 0, false, .v, .v, .none, .none, 1, 0⟩
  | 0x3C => some ⟨2, .a, false, true, false, true, tyMove, 0, false, .v, .none, .none, .none, 1, 0⟩
  | 0x3D => some ⟨1, .a, true, false, false, true, tyWide, 0, false, .v, .s, .none, .none, 1, 0⟩
  | 0x3E => some (infoS false .s .none)
  | 0x3F => some (infoS false .none .s)
  | 0x60 => some (infoAlu tyNarrow 8 true .v .v .none 0)
  | 0x61 => some (infoAlu tyNarrow 8 true .v .v .none 0)
  | 0x62 => some (infoAlu tyNarrow 8 true .v .v .none 0)
  | 0x63 => some (infoAlu tyNarrow 8 true .v .v .v 0)
  | 0x64 => some (infoAlu tyNarrow 8 true .v .v .none 0)
  | 0x65 => some (infoAlu tyNarrow 8 true .v .v .none 0)
  | 0x66 => some { infoAlu tyF32 8 false .p .v .none 0 with fs := 0x7F }
  | 0x67 => some (infoAlu tyF32 8 false .v .none .none 0)
  | 0x68 => some (infoAlu tyF32 8 true .v .none .none 0)
  | 0x69 => some (infoAlu tyF32 8 true .v .none .none 0)
  | 0x6A => some (infoAlu tyF32 8 true .v .none .none 0)
  | 0x6B => some (infoAlu tyF32 8 true .v .none .none 0)
  | 0x6C => some (infoAlu tyF32 8 true .v .none .none 0)
  | 0x6D => some (infoAlu tyNarrow 8 true .v .none .none 0)
  | 0x6E => some ⟨1, .a, true, true, false, true, tyMove, 8, true, .v, .v, .v, .none, 1, 0x3F⟩
  | 0x80 => some (infoA true false false 0x000A 1 false .v .v .v .none 0x0F 7)
  | 0x81 => some (infoA false false false 2 1 false .p .p .none .none 0x07 0)
  | 0x82 => some (infoA false false false 8 3 false .s .p .none .none 1 0)
  | 0x83 => some (infoA false false false tyWideF 0 true .s .v .none .none 0x3F 0)
  | 0x84 => some (infoA false false false tyWideF 0 true .v .v .none .none 0x3F 1)
  | 0x85 => some (infoA false false false 0x000A 1 false .v .v .none .none 1 0)
  | 0x90 => some (infoM false true tyMove 1 .v .s 0x07)
  | 0x91 => some (infoM true true tyMove 1 .v .s 0x07)
  | 0x92 => some (infoM false true tyMove 1 .v .s 0x07)
  | 0x93 => some (infoM true true tyMove 1 .v .s 0x07)
  | 0x94 => some (infoM false true 1 0 .none .s 0x03)
  | 0x95 => some (infoM false false 1 0 .none .s 0x03)
  | 0x96 => some (infoM false false 1 0 .none .s 0x03)
  | 0x97 => some (infoM false false 1 0 .v .s 1)
  | 0x98 => some (infoM false false 1 0 .v .s 1)
  | 0x99 => some (infoM true true tyWideF 1 .v .s 0xFF)
  | 0x9A => some (infoM true true tyWideF 1 .v .s 0xFF)
  | 0x9B => some (infoM false false 1 0 .s .s 1)
  | 0x9C => some (infoM false false 1 0 .s .s 1)
  | 0x9D => some (infoM false true tyWide 1 .v .s 0xFF)
  | 0x9E => some (infoM false false 1 0 .s .s 0x0F)
  | 0x9F => some (infoM false false 1 0 .none .none 0x0E)
  | 0xA0 => some (infoM false false 1 0 .s .s 0x03)
  | 0xA1 => some (infoM false false 1 0 .s .s 1)
  | 0xA2 => some (infoM false false 1 0 .s .s 1)
  | 0xB0 => some (infoM false true 8 3 .v .s 0x37)
  | 0xB1 => some (infoM false true 8 3 .v .s 0x03)
  | 0xB2 => some (infoM false true 8 3 .v .s 1)
  | 0xB3 => some (infoM false true 8 3 .v .s 1)
  | 0xB4 => some (infoM false true 8 3 .v .s 1)
  | 0xB5 => some (infoM false true 8 3 .v .s 1)
  | 0xB8 => some (infoK true .k .none .s .v 1 0x07)
  | 0xB9 => some (infoK false .k .k .none .none 1 0)
  | 0xBA => some (infoK true .k .k .v .none 1 0x04)
  | 0xBB => some (infoK true .k .k .v .none 1 0x04)
  | 0xBC => some (infoK true .k .k .s .none 1 0x01)
  | 0xBD => some (infoK false .v .k .k .p 0x03 0x05)
  | 0xBE => some (infoK false .k .k .none .none 1 0)
  | 0xBF => some (infoK false .v .k .none .none 1 0x04)
  | 0xC0 => some (infoK false .v .k .none .none 1 0x04)
  | 0xC1 => some (infoK false .v .k .none .none 1 0x08)
  | 0xC2 => some (infoK true .k .k .v .v 1 0x0E)
  | 0xC3 => some (infoK true .v .k .v .v 1 0x0C)
  | 0xC4 => some (infoK false .k .k .none .none 1 0x03)
  | 0xC5 => some (infoK false .k .k .none .none 1 0)
  | 0xD0 => some (infoY 1 false .s .s .s 0x07 0)
  | 0xD1 => some (infoY 0x3E00 false .s .s .none 1 0x13)
  | 0xD2 => some (infoY 1 false .s .none .none 1 0)
  | 0xD3 => some (infoY 0x3E00 false .s .s .s 1 0x10)
  | 0xD4 => some (infoY 1 false .s .none .s 1 0)
  | 0xD5 => some (infoY 0x4100 true .v .none .s 1 0x0F)
  | 0xD6 => some (infoY 0x4100 false .v .none .s 1 0)
  | 0xD7 => some (infoY 0x3F08 true .s .s .s 0xFF 0x0F)
  | 0xD8 => some (infoY 1 false .s .s .s 0x07 0x07)
  | 0xD9 => some (infoY 1 false .s .s .s 0x07 0)
  | 0xDA => some (infoM false false 0x0020 5 .v .s 0xFF)
  | 0xE0 => some (infoX 0x03 0x0F)
  | 0xE1 => some (infoX 0x03 0x0F)
  | 0xE2 => some (infoX 1 0)
  | 0xE3 => some (infoX 1 0x01)
  | 0xE4 => some (infoX 1 0)
  | 0xE5 => some (infoX 1 0x03)
  | 0xE6 => some (infoX 1 0x01)
  | 0xF0 => some (infoS true .s .s)
  | 0xF1 => some (infoS true .s .s)
  | 0xF2 => some (infoS true .none .s)
  | _ => none

/-- The type code in force: the default in one word (R47), TY otherwise. -/
def Raw.ty (r : Raw) : Nat :=
  if r.len = 0#2 then (match opInfo r.op.toNat with | some oi => oi.dty | none => 0) else bits r.w1.toNat 21 18

/-- The rounding field: RM of W2A, MOD[30:28] of MRD (R285), F of MEPI (R296), 0 elsewhere. -/
def Raw.rm (r : Raw) : Nat :=
  if r.op = 0xD5#8 then r.ymod % 8
  else if r.op = 0xD7#8 then r.f.toNat
  else match opInfo r.op.toNat with
    | some oi => if oi.base = .a then bits r.w1.toNat 24 22 else 0
    | none => 0

/-- IMM32 stands for source B (R56). -/
def Raw.bImm (r : Raw) : Bool :=
  r.len == 2#2 && (match opInfo r.op.toNat with
    | some oi => oi.base == .a || oi.base == .k || oi.base == .y
    | none => false)

/-- The class of D: BAR.ARRIVE has no destination (R155). -/
def Raw.clsD (r : Raw) (oi : OpInfo) : Cls := if r.op = 0x9E#8 ∧ r.f = 0#3 then .none else oi.cd

/-- The class of A: none for TLBINV.ASID, TLBINV.ALL (R383), MTOPK.CLR, MCHK.RST (R296) and MLDW without a map (R285). -/
def Raw.clsA (r : Raw) (oi : OpInfo) : Cls :=
  if r.op = 0xF0#8 ∧ r.sel ≠ 0 then .none
  else if r.op = 0xD8#8 ∧ r.f = 1#3 then .none
  else if r.op = 0xD9#8 ∧ r.f = 2#3 then .none
  else if r.op = 0xD1#8 ∧ bit r.ymod 1 = false then .none
  else oi.ca

/-- The class of B: none where IMM32 replaces it, and for CVT without an LNS6 side (R110). -/
def Raw.clsB (r : Raw) (oi : OpInfo) : Cls :=
  if r.bImm then .none
  else if r.op = 0x6E#8 ∧ r.ty ≠ 13 ∧ r.mod % 16 ≠ 13 then .none
  else oi.cb

/-- The class of C: KOPEN reads it only with .P (R234). -/
def Raw.clsC (r : Raw) (oi : OpInfo) : Cls := if r.op = 0xB8#8 ∧ bit r.mod 1 = false then .none else oi.cc

/-- The instruction executes once for the strand: U = 1 (R91), or a cursor instruction that runs uniform (R230). -/
def Raw.uniform (r : Raw) (oi : OpInfo) : Bool :=
  r.u == 1#1 || (oi.base == .k && (if oi.cd == .k then r.qd else r.qa))

/-- The number of registers a value of class v has in a role (R19, R72): two for a pair. Role 0 is D, 1 A, 2 B, 3 C. Source B of
SHFL.n64, its lane or offset, is one register, odd numbers included: the model's choice (DESIGN CHOICE, log 13). -/
def Raw.pair (r : Raw) (oi : OpInfo) (role : Nat) : Bool :=
  if oi.base = .k then
    let m := r.mod
    if r.op = 0xC2#8 ∨ r.op = 0xC3#8 then (role == 2 && bit m 2) || (role == 3 && bit m 3)
    else if r.op = 0xC1#8 then role == 0 && bit m 3
    else if r.op = 0xB8#8 then role == 3 && bit m 2
    else if r.op = 0xBA#8 ∨ r.op = 0xBB#8 then role == 2 && bit m 2
    else role == 0 && bit m 2
  else if r.op = 0x85#8 then role == 0 || (role == 1 && r.ty == 3)
  else if r.op = 0x80#8 then role < 2 && r.ty == 3
  else if r.op = 0x6E#8 then (role == 0 && (r.ty == 2 || r.ty == 3)) || (role == 1 && (r.mod % 16 == 2 || r.mod % 16 == 3))
  else if oi.base = .a ∨ (oi.base = .m ∧ role = 0) then r.ty == 2 || r.ty == 3
  else if r.op = 0xD5#8 ∨ r.op = 0xD6#8 then role == 0 && r.af == 14
  else false

/-- Elements of one unit of a type (R72, R111). -/
def tyElems (ty : Nat) : Nat :=
  match ty with
  | 4 | 5 | 9 | 10 => 2
  | 6 | 7 | 11 | 12 | 13 => 4
  | _ => 1

/-- The number of units CVT reads for its source and writes for its destination (R111). -/
def Raw.cvtUnits (r : Raw) : Nat × Nat :=
  let st := if r.len = 0#2 then 0 else r.mod % 16
  let n := max (tyElems st) (tyElems r.ty)
  (n / tyElems st, n / tyElems r.ty)

/-- The run of uniform registers a field names (R151, R175, R262, R320, R325, R383); 1 for a plain field. -/
def Raw.uniRunD (r : Raw) : Nat :=
  let op := r.op.toNat
  if op = 0x0C then 2
  else if op = 0xA2 then 6
  else if op = 0xB0 then 4
  else if op = 0xB1 ∧ r.f = 1#3 then 2
  else if op = 0x6E then r.cvtUnits.2
  else 1

/-- The run of uniform registers that field A names. -/
def Raw.uniRunA (r : Raw) : Nat :=
  let op := r.op.toNat
  if (op = 0xE0 ∨ op = 0xE1) ∧ bit r.ymod 0 then 5
  else if op = 0xE2 ∨ op = 0xE3 then 2
  else if (op = 0xF0 ∧ r.sel = 0) ∨ op = 0xF1 then 2
  else if op = 0x6E then r.cvtUnits.1
  else 1

/-- A register field lies in its class (R20, R59). -/
def clsFits (c : Cls) (v run : Nat) (uni q : Bool) : Bool :=
  match c with
  | .none => true
  | .v => if uni then v + run ≤ 64 else v ≤ 127
  | .s => v + run ≤ 64
  | .p => v ≤ 7
  | .k => if q then v ≤ 3 else v ≤ 7

/-- The opcodes of the memory format that take no index register (R166, R171, R172, R175, R329). -/
def noIndex (op : Nat) : Bool := op == 0x9B || op == 0x9C || op == 0x9E || op == 0x9F || (decide (0xA0 ≤ op) && decide (op ≤ 0xA2)) || op == 0xDA

/-- The instruction reads an index register: IX where it is permitted (R55). -/
def Raw.indexed (r : Raw) : Bool := r.ix && !noIndex r.op.toNat

/-! The decode checks of R67 step 5, one definition each, in its order. -/

/-- Info code 3: LEN not permitted for the opcode (R65). -/
def chkLen (r : Raw) (oi : OpInfo) : Bool :=
  if r.len = 0#2 then oi.one != 0 else if r.len = 1#2 then oi.two else oi.three

/-- Info code 4: a guard on an instruction that takes none (R57). -/
def chkGuard (r : Raw) (oi : OpInfo) : Bool := oi.guard || r.g == 7#4

/-- Info code 5: U not permitted (R58). -/
def chkU (r : Raw) (oi : OpInfo) : Bool := oi.either || r.u == 0#1

/-- Info code 6: TY or AF not permitted (R61), AND, OR or XOR with f32 (R118, R164), a narrow access of a type it does
not take (R157), and a CVT source type outside 0000 to 1101 (R113). -/
def chkTy (r : Raw) (oi : OpInfo) : Bool :=
  let op := r.op.toNat
  (if oi.base = .y then bit oi.tys r.af else if oi.base = .a ∨ oi.base = .m then bit oi.tys r.ty else true)
  && !((op == 0x83 || op == 0x84 || op == 0x99 || op == 0x9A) && r.ty == 8 && 3 ≤ r.f.toNat && r.f.toNat ≤ 5)
  && !(0x90 ≤ op && op ≤ 0x93 && (r.f == 1#3 || r.f == 2#3) && 2 ≤ r.ty)
  && !(op == 0x6E && 14 ≤ r.mod % 16)

/-- Info code 7: RM not permitted (R62); FMIN and FMAX deliver through Round and take any RM, an fa40 MRD is exact (R290)
and takes none. -/
def chkRm (r : Raw) (oi : OpInfo) : Bool :=
  let rounds := oi.rounds && !((r.op == 0x83#8 || r.op == 0x84#8) && r.ty != 8) && !(r.op == 0xD5#8 && r.af == 14)
  r.rm != 5 && r.rm != 6 && (rounds || r.rm == 0)

/-- Info code 8: a register field outside its class, a run past s63, and the mixed cursor classes of R230. A KSPLIT with k D and
q A passes, and every thread writes q A; a KCOIT that mixes k and q does not: the model's choices (DESIGN CHOICE, log 13). -/
def chkReg (r : Raw) (oi : OpInfo) : Bool :=
  let uni := r.uniform oi
  let op := r.op.toNat
  let d := r.d.toNat
  let a := r.a.toNat
  let three := r.len != 0#2
  clsFits (r.clsD oi) d r.uniRunD uni r.qd
  && clsFits (r.clsA oi) a r.uniRunA uni r.qa
  && (!three || oi.base == .none || oi.base == .m || oi.base == .x || oi.base == .s
      || clsFits (r.clsB oi) r.b 1 uni r.qb)
  && (!three || !(oi.base == .a || oi.base == .k) || clsFits (r.clsC oi) r.c 1 uni false)
  && (oi.base != .m || !r.indexed || r.u == 0#1 || r.i ≤ 63)
  && (oi.base != .y || op == 0xD2 || r.ab ≤ 63)
  && !(op == 0x0C && (d == 0 || d == 63))
  && !(op == 0xA2 && (d == 0 || 58 < d))
  && !(oi.base == .k && oi.cd == .k && r.qd && ((oi.ca == .k && !r.qa) || (oi.cb == .k && !r.qb)))
  && !(op == 0xBD && r.qa != r.qb)

/-- Info code 9: JS not permitted (R58, R60). -/
def chkJs (r : Raw) (oi : OpInfo) : Bool :=
  let vec := r.clsD oi == .v || r.clsA oi == .v || r.clsB oi == .v || r.clsC oi == .v || (oi.base == .m && r.indexed)
  r.len == 0#2 || !(oi.base == .a || oi.base == .m || oi.base == .k) || r.js == 0
    || (vec && !(r.uniform oi))

/-- Info code 10: FE on a source that is not a register or is not read (R60), and FE bit 16 of SPAWN (R147). -/
def chkFe (r : Raw) (oi : OpInfo) : Bool :=
  let reg (c : Cls) : Bool := c == .v || c == .s || c == .k
  r.len == 0#2 || !(oi.base == .a || oi.base == .m || oi.base == .k) ||
    ((!bit r.fe 0 || (reg (r.clsA oi) && r.op != 0x0A#8)) &&
     (!bit r.fe 1 || (if oi.base = .m then r.indexed else reg (r.clsB oi))))

/-- The modifier bits an instruction uses, where F, AF or SEL narrows them (R234, R285, R296, R314, R342). -/
def modMask (r : Raw) (oi : OpInfo) : Nat :=
  let op := r.op.toNat
  if op = 0xD7 then (if r.af = 3 then 0x07 else 0x0F)
  else if op = 0xD8 then (if r.f = 2#3 then 0x07 else 0)
  else if op = 0xB8 then (if bit r.mod 1 then 0x07 else 0x03)
  else oi.mods

/-- The zero fields of word 1 that a base format has (R52, R55), and fields the instruction does not use (R63). -/
def chkUnused (r : Raw) (oi : OpInfo) : Bool :=
  (r.clsD oi != .none || oi.one == 3 || oi.base == .none && oi.three || r.d == 0#7 )
  && (r.clsA oi != .none || oi.one == 2 && r.len == 0#2 || oi.one == 3 || oi.base == .none && oi.three || r.a == 0#7)
  && (r.len == 0#2 || (match oi.base with
      | .none => true
      | .a => (r.clsB oi != .none || r.b == 0) && (r.clsC oi != .none || r.c == 0)
          && r.mod ||| oi.mods == oi.mods
      | .k => (r.clsB oi != .none || r.b == 0 && !r.qb) && (r.clsC oi != .none || r.c == 0)
          && (oi.cb == .k || !r.qb) && (r.clsA oi == .k || !r.qa) && (r.clsD oi == .k || !r.qd)
          && r.mod ||| modMask r oi == modMask r oi && !bit r.w1.toNat 21
      | .m => (r.ix || r.i == 0) && (r.len != 2#2 || r.disp10 == 0)
      | .y => (oi.cb != .none || r.b == 0 && r.w2 == 0#32) && (r.len != 2#2 || r.b == 0)
          && r.ymod ||| modMask r oi % 16 == modMask r oi % 16
          && (!r.ck || 16 ≤ modMask r oi && r.op != 0xD7#8)
      | .x => r.ymod ||| oi.mods == oi.mods && (r.len != 2#2 || r.barp || r.baro == 0)
      | .s => bits r.w1.toNat 15 14 == 0 && (r.len != 2#2 || r.imm16 == 0)))

/-- Info code 11, what each entry adds: fields its misuse table names. -/
def chkEntry (r : Raw) (oi : OpInfo) : Bool :=
  let op := r.op.toNat
  let two := r.len != 0#2
  let fOk := oi.base == .none && (oi.one == 2 || oi.one == 3 || oi.three) || (oi.one == 2 && !two) || bit oi.fs r.f.toNat
  fOk
  && !(oi.base == .none && oi.three && two && r.off17 != 0)
  && !((op == 0x01 || op == 0x04) && two && r.w2 != 0#32)
  && !(op == 0x0A && r.mod % 16 == 0)
  && !(op == 0x0A && r.len == 2#2 && r.b != 0)
  && !(op == 0x6E && two && ((bit r.mod 4 && bit r.mod 5) || (bit r.mod 5 && r.ty != 11 && r.ty != 13)))
  && !(op == 0x6E && r.len == 2#2 && (256 ≤ r.imm32 || (r.ty != 13 && r.mod % 16 != 13 && r.imm32 != 0)))
  && !(op == 0x80 && r.mod % 8 == 7)
  && !((op == 0x3E || op == 0x3F) && (r.scopeS != 0 || r.imm16 != 0))
  && !(oi.base == .m && (2 ≤ r.kind || (r.kind == 1 && !(0x90 ≤ op && op ≤ 0x93))))
  && !(oi.base == .m && r.scopeM != 0 && op != 0x9F)
  && !(0x90 ≤ op && op ≤ 0x93 && r.kind == 1 && r.ty == 13)
  && !(noIndex op && (r.ix || r.sc != 0))
  && !(op == 0x9F && (r.disp10 != 0 || r.w2 != 0#32))
  && !(oi.base == .k && !(op == 0xB8 || op == 0xB9 || op == 0xBA || op == 0xBB || op == 0xBC || op == 0xBD || op == 0xBE
        || op == 0xBF || op == 0xC0 || op == 0xC1 || op == 0xC2) && r.pd != 0)
  && !((op == 0xC2 || op == 0xC4) && (r.a != r.d || r.qa != r.qd))
  && !(op == 0xBE && r.a == r.d && r.qa == r.qd)
  && !((op == 0xB8 || op == 0xBA || op == 0xBB) && r.len == 2#2 && bit r.mod 2)
  && !((op == 0xC2 || op == 0xC3) && r.len == 2#2 && bit r.mod 2)
  && !(oi.base == .y && (op == 0xD2) && (r.acc != 0 || r.ab != 0))
  && !(op == 0xD1 && bit r.ymod 1 && ((if r.af = 9 ∨ r.af = 10 then 128 else if r.af = 13 then 512 else 256)
        * (if bit r.ymod 0 then 2 else 1) > 512))
  && !(op == 0xD5 && r.af == 14 && bit r.ymod 3)
  && !(op == 0xD7 && r.af != 3 && (r.ymod % 4 == 3 || (bit r.ymod 2 && bit r.ymod 3)
        || (bit r.ymod 3 && r.af != 11 && r.af != 13)))
  && !((op == 0xE0 || op == 0xE1) && ((bit r.ymod 1 || bit r.ymod 2) && !bit r.ymod 0
        || bit r.ymod 3 && (bit r.ymod 0 || r.f == 1#3)))
  && !(op == 0xE5 && bit r.ymod 0 && bit r.ymod 1)
  && !((op == 0xF0 || op == 0xF1) && (r.scopeS == 0 || r.scopeS == 3 || 65536 ≤ r.imm32))
  && !(op == 0xF0 && 3 ≤ r.sel)
  && !(op == 0xF0 && r.sel == 2 && (r.imm16 != 0 || r.imm32 != 0))
  && !(op == 0xF1 && (r.sel != 0 || r.imm16 != 0 || r.imm32 != 0))
  && !(op == 0xF2 && (r.sel != 0 || r.scopeS != 0))

/-- Info code 12: an odd plain pair field (R19), CAS and counter runs that break their rules (R164, R262). -/
def chkPair (r : Raw) (oi : OpInfo) : Bool :=
  let uni := r.uniform oi
  let plain := r.len == 0#2 || !(oi.base == .a || oi.base == .m || oi.base == .k) || r.js == 0
  let d := r.d.toNat
  let op := r.op.toNat
  let odd (c : Cls) (role v : Nat) : Bool := c == .v && !uni && plain && r.pair oi role && v % 2 == 1
  let one := r.len == 0#2
  !odd (r.clsD oi) 0 d && !odd (r.clsA oi) 1 r.a.toNat
  && (one || !odd (r.clsB oi) 2 r.b) && (one || !odd (r.clsC oi) 3 r.c)
  && !((op == 0x99 || op == 0x9A) && r.f == 7#3
        && (if uni then d % 2 == 1 else if r.ty = 2 ∨ r.ty = 3 then d % 4 != 0 else d % 2 == 1))
  && !(op == 0xB1 && r.f == 1#3 && !uni && d % 4 != 0)

/-- The first decode check that fails, as its info code (R67): LEN = 11, an unassigned opcode, then step 5 in order. -/
def rawCheck (r : Raw) : Option Nat :=
  if r.len = 3#2 then some 1
  else match opInfo r.op.toNat with
    | none => some 2
    | some oi =>
      if !chkLen r oi then some 3
      else if !chkGuard r oi then some 4
      else if !chkU r oi then some 5
      else if !chkTy r oi then some 6
      else if !chkRm r oi then some 7
      else if !chkReg r oi then some 8
      else if !chkJs r oi then some 9
      else if !chkFe r oi then some 10
      else if !(chkUnused r oi && chkEntry r oi) then some 11
      else if !chkPair r oi then some 12
      else none

/-! From the words to the operand fields of each format, and back. -/

def w1Of (r : Raw) : W1Ops := ⟨r.f, r.a, r.d, r.g, r.u⟩
def iOf (r : Raw) : IOps := ⟨r.f ++ r.a, r.d, r.g, r.u⟩
def bOf (r : Raw) : BOps := ⟨r.f ++ r.a ++ r.d, r.g, r.u⟩
def bwOf (r : Raw) : BWOps := ⟨r.f ++ r.a ++ r.d, r.g, r.u, r.w1, r.w2⟩

/-- The third word, present when LEN = 10. -/
def immOf (r : Raw) : Option (BitVec 32) := if r.len = 2#2 then some r.w2 else none

def aOf (r : Raw) : AOps :=
  ⟨r.f, r.a, r.d, r.g, r.u, r.w1.extractLsb' 25 7, r.w1.extractLsb' 22 3, r.w1.extractLsb' 18 4, r.w1.extractLsb' 16 2,
   r.w1.extractLsb' 14 2, r.w1.extractLsb' 7 7, r.w1.extractLsb' 0 7, immOf r⟩

def mOf (r : Raw) : MOps :=
  ⟨r.f, r.a, r.d, r.g, r.u, r.w1.extractLsb' 22 10, r.w1.extractLsb' 18 4, r.w1.extractLsb' 16 2, r.w1.extractLsb' 14 2,
   r.w1.extractLsb' 12 2, r.w1.extractLsb' 10 2, r.w1.extractLsb' 8 2, r.w1.extractLsb' 7 1, r.w1.extractLsb' 0 7,
   immOf r⟩

def kOf (r : Raw) : KOps :=
  ⟨r.f, r.a, r.d, r.g, r.u, r.w1.extractLsb' 25 7, r.w1.extractLsb' 22 3, r.w1.extractLsb' 21 1, r.w1.extractLsb' 20 1,
   r.w1.extractLsb' 19 1, r.w1.extractLsb' 18 1, r.w1.extractLsb' 16 2, r.w1.extractLsb' 14 2, r.w1.extractLsb' 7 7,
   r.w1.extractLsb' 0 7, immOf r⟩

def yOf (r : Raw) : YOps :=
  ⟨r.f, r.a, r.d, r.g, r.u, r.w1.extractLsb' 28 4, r.w1.extractLsb' 27 1, r.w1.extractLsb' 23 4, r.w1.extractLsb' 14 9,
   r.w1.extractLsb' 7 7, r.w1.extractLsb' 0 7, immOf r⟩

def xOf (r : Raw) : XOps :=
  ⟨r.f, r.a, r.d, r.g, r.u, r.w1.extractLsb' 28 4, r.w1.extractLsb' 22 6, r.w1.extractLsb' 16 6, r.w1.extractLsb' 0 16,
   immOf r⟩

def sOf (r : Raw) : SOps :=
  ⟨r.f, r.a, r.d, r.g, r.u, r.w1.extractLsb' 16 16, r.w1.extractLsb' 14 2, r.w1.extractLsb' 12 2,
   r.w1.extractLsb' 0 12, immOf r⟩

/-- LEN of a base format with or without a third word. -/
def lenOf (imm : Option (BitVec 32)) : BitVec 2 := if imm.isSome then 2#2 else 1#2

/-- The third word, or zero. -/
def immWord (imm : Option (BitVec 32)) : BitVec 32 := imm.getD 0#32

def rawW1 (op : Nat) (o : W1Ops) : Raw := ⟨o.f, o.a, o.d, o.g, BitVec.ofNat 8 op, o.u, 0#2, 0#32, 0#32⟩
def rawI (op : Nat) (o : IOps) : Raw :=
  ⟨o.imm.extractLsb' 7 3, o.imm.extractLsb' 0 7, o.d, o.g, BitVec.ofNat 8 op, o.u, 0#2, 0#32, 0#32⟩
def rawB (op : Nat) (o : BOps) : Raw :=
  ⟨o.off.extractLsb' 14 3, o.off.extractLsb' 7 7, o.off.extractLsb' 0 7, o.g, BitVec.ofNat 8 op, o.u, 0#2, 0#32, 0#32⟩
def rawBW (op : Nat) (o : BWOps) : Raw :=
  ⟨o.off.extractLsb' 14 3, o.off.extractLsb' 7 7, o.off.extractLsb' 0 7, o.g, BitVec.ofNat 8 op, o.u, 2#2, o.offA, o.offB⟩
def rawA (op : Nat) (o : AOps) : Raw :=
  ⟨o.f, o.a, o.d, o.g, BitVec.ofNat 8 op, o.u, lenOf o.imm,
   o.mod ++ o.rm ++ o.ty ++ o.fe ++ o.js ++ o.c ++ o.b, immWord o.imm⟩
def rawM (op : Nat) (o : MOps) : Raw :=
  ⟨o.f, o.a, o.d, o.g, BitVec.ofNat 8 op, o.u, lenOf o.imm,
   o.disp ++ o.ty ++ o.fe ++ o.js ++ o.kind ++ o.scope ++ o.sc ++ o.ix ++ o.i, immWord o.imm⟩
def rawK (op : Nat) (o : KOps) : Raw :=
  ⟨o.f, o.a, o.d, o.g, BitVec.ofNat 8 op, o.u, lenOf o.imm,
   o.mod ++ o.pd ++ o.z ++ o.qb ++ o.qa ++ o.qd ++ o.fe ++ o.js ++ o.c ++ o.b, immWord o.imm⟩
def rawY (op : Nat) (o : YOps) : Raw :=
  ⟨o.f, o.a, o.d, o.g, BitVec.ofNat 8 op, o.u, lenOf o.imm,
   o.mod ++ o.ck ++ o.af ++ o.acc ++ o.ab ++ o.b, immWord o.imm⟩
def rawX (op : Nat) (o : XOps) : Raw :=
  ⟨o.f, o.a, o.d, o.g, BitVec.ofNat 8 op, o.u, lenOf o.imm, o.xmod ++ o.spb ++ o.sv ++ o.sigo, immWord o.imm⟩
def rawS (op : Nat) (o : SOps) : Raw :=
  ⟨o.f, o.a, o.d, o.g, BitVec.ofNat 8 op, o.u, lenOf o.imm, o.imm16 ++ o.z ++ o.scope ++ o.sel, immWord o.imm⟩

/-- The words of an instruction, with its opcode from R64; none for an event of the machine. -/
def toRaw (i : Instr) : Option Raw :=
  match i with
  | .nop o => some (rawW1 0x00 o)
  | .braW1b o => some (rawB 0x01 o)
  | .bra o => some (rawBW 0x01 o)
  | .brc o => some (rawBW 0x02 o)
  | .brx o => some (rawW1 0x03 o)
  | .callW1b o => some (rawB 0x04 o)
  | .call o => some (rawBW 0x04 o)
  | .callx o => some (rawW1 0x05 o)
  | .ret o => some (rawW1 0x06 o)
  | .loop o => some (rawBW 0x07 o)
  | .exit o => some (rawW1 0x08 o)
  | .yield o => some (rawW1 0x09 o)
  | .yieldTimeout _ => none
  | .spawn o => some (rawA 0x0A o)
  | .spawnBinTimer _ _ => none
  | .spawnResidency _ _ => none
  | .launch o => some (rawA 0x0B o)
  | .join o => some (rawA 0x0C o)
  | .joinTimeout _ => none
  | .trap o => some (rawI 0x0D o)
  | .rett o => some (rawW1 0x0E o)
  | .dbg o => some (rawI 0x0F o)
  | .addW1a o => some (rawW1 0x20 o)
  | .add o => some (rawA 0x20 o)
  | .subW1a o => some (rawW1 0x21 o)
  | .sub o => some (rawA 0x21 o)
  | .mulW1a o => some (rawW1 0x22 o)
  | .mul o => some (rawA 0x22 o)
  | .mulhW1a o => some (rawW1 0x23 o)
  | .mulh o => some (rawA 0x23 o)
  | .madW1a o => some (rawW1 0x24 o)
  | .mad o => some (rawA 0x24 o)
  | .divW1a o => some (rawW1 0x25 o)
  | .divOp o => some (rawA 0x25 o)
  | .remW1a o => some (rawW1 0x26 o)
  | .remOp o => some (rawA 0x26 o)
  | .divisionComplete _ _ => none
  | .minW1a o => some (rawW1 0x27 o)
  | .minOp o => some (rawA 0x27 o)
  | .maxW1a o => some (rawW1 0x28 o)
  | .maxOp o => some (rawA 0x28 o)
  | .absW1a o => some (rawW1 0x29 o)
  | .absOp o => some (rawA 0x29 o)
  | .andW1a o => some (rawW1 0x2A o)
  | .andOp o => some (rawA 0x2A o)
  | .orW1a o => some (rawW1 0x2B o)
  | .orOp o => some (rawA 0x2B o)
  | .xorW1a o => some (rawW1 0x2C o)
  | .xorOp o => some (rawA 0x2C o)
  | .andnW1a o => some (rawW1 0x2D o)
  | .andn o => some (rawA 0x2D o)
  | .shlW1a o => some (rawW1 0x2E o)
  | .shl o => some (rawA 0x2E o)
  | .shrW1a o => some (rawW1 0x2F o)
  | .shr o => some (rawA 0x2F o)
  | .sarW1a o => some (rawW1 0x30 o)
  | .sar o => some (rawA 0x30 o)
  | .rolW1a o => some (rawW1 0x31 o)
  | .rol o => some (rawA 0x31 o)
  | .popcW1a o => some (rawW1 0x32 o)
  | .popc o => some (rawA 0x32 o)
  | .clzW1a o => some (rawW1 0x33 o)
  | .clz o => some (rawA 0x33 o)
  | .brevW1a o => some (rawW1 0x34 o)
  | .brev o => some (rawA 0x34 o)
  | .bfxW1a o => some (rawW1 0x35 o)
  | .bfx o => some (rawA 0x35 o)
  | .bfiW1a o => some (rawW1 0x36 o)
  | .bfi o => some (rawA 0x36 o)
  | .permW1a o => some (rawW1 0x37 o)
  | .perm o => some (rawA 0x37 o)
  | .lea o => some (rawM 0x38 o)
  | .cmp o => some (rawA 0x39 o)
  | .sel o => some (rawA 0x3A o)
  | .movW1a o => some (rawW1 0x3B o)
  | .mov o => some (rawA 0x3B o)
  | .moviW1i o => some (rawI 0x3C o)
  | .movi o => some (rawA 0x3C o)
  | .movsW1a o => some (rawW1 0x3D o)
  | .movs o => some (rawA 0x3D o)
  | .csrr o => some (rawS 0x3E o)
  | .csrw o => some (rawS 0x3F o)
  | .faddW1a o => some (rawW1 0x60 o)
  | .fadd o => some (rawA 0x60 o)
  | .fsubW1a o => some (rawW1 0x61 o)
  | .fsub o => some (rawA 0x61 o)
  | .fmulW1a o => some (rawW1 0x62 o)
  | .fmul o => some (rawA 0x62 o)
  | .ffmaW1a o => some (rawW1 0x63 o)
  | .ffma o => some (rawA 0x63 o)
  | .fminW1a o => some (rawW1 0x64 o)
  | .fmin o => some (rawA 0x64 o)
  | .fmaxW1a o => some (rawW1 0x65 o)
  | .fmax o => some (rawA 0x65 o)
  | .fcmpW1a o => some (rawW1 0x66 o)
  | .fcmp o => some (rawA 0x66 o)
  | .fclassW1a o => some (rawW1 0x67 o)
  | .fclass o => some (rawA 0x67 o)
  | .frcpW1a o => some (rawW1 0x68 o)
  | .frcp o => some (rawA 0x68 o)
  | .frsqW1a o => some (rawW1 0x69 o)
  | .frsq o => some (rawA 0x69 o)
  | .fsqrtW1a o => some (rawW1 0x6A o)
  | .fsqrt o => some (rawA 0x6A o)
  | .fexp2W1a o => some (rawW1 0x6B o)
  | .fexp2 o => some (rawA 0x6B o)
  | .flog2W1a o => some (rawW1 0x6C o)
  | .flog2 o => some (rawA 0x6C o)
  | .transcendentalComplete _ _ => none
  | .frndW1a o => some (rawW1 0x6D o)
  | .frnd o => some (rawA 0x6D o)
  | .cvtW1a o => some (rawW1 0x6E o)
  | .cvt o => some (rawA 0x6E o)
  | .shfl o => some (rawA 0x80 o)
  | .vote o => some (rawA 0x81 o)
  | .ballot o => some (rawA 0x82 o)
  | .redx o => some (rawA 0x83 o)
  | .scan o => some (rawA 0x84 o)
  | .matchOp o => some (rawA 0x85 o)
  | .ld o => some (rawM 0x90 o)
  | .st o => some (rawM 0x91 o)
  | .ldl o => some (rawM 0x92 o)
  | .stl o => some (rawM 0x93 o)
  | .loadDataArrival _ _ => none
  | .prefL1 o => some (rawM 0x94 o)
  | .prefLlc o => some (rawM 0x94 o)
  | .cleanL1 o => some (rawM 0x95 o)
  | .cleanMem o => some (rawM 0x95 o)
  | .dropL1 o => some (rawM 0x96 o)
  | .dropLlc o => some (rawM 0x96 o)
  | .lock o => some (rawM 0x97 o)
  | .unlock o => some (rawM 0x98 o)
  | .atom o => some (rawM 0x99 o)
  | .atoml o => some (rawM 0x9A o)
  | .atomicAtHome _ _ => none
  | .lease o => some (rawM 0x9B o)
  | .leaseGrant _ _ => none
  | .unlease o => some (rawM 0x9C o)
  | .leaseExpiry _ _ => none
  | .wait o => some (rawM 0x9D o)
  | .swapOut _ => none
  | .strandRestore _ => none
  | .barArrive o => some (rawM 0x9E o)
  | .barWait o => some (rawM 0x9E o)
  | .barSync o => some (rawM 0x9E o)
  | .barExpect o => some (rawM 0x9E o)
  | .fenceAcq o => some (rawM 0x9F o)
  | .fenceRel o => some (rawM 0x9F o)
  | .fenceAr o => some (rawM 0x9F o)
  | .gbind o => some (rawM 0xA2 o)
  | .acqX o => some (rawM 0xA0 o)
  | .acqSh o => some (rawM 0xA0 o)
  | .guardGrant _ => none
  | .rel o => some (rawM 0xA1 o)
  | .writePerformed _ _ => none
  | .strongReadAtHome _ _ => none
  | .l1WriteBack _ _ => none
  | .trapEntry _ => none
  | .triageRepair _ _ => none
  | .triageReturn _ => none
  | .heapGrowth _ _ _ => none
  | .kopen o => some (rawK 0xB8 o)
  | .knext o => some (rawK 0xB9 o)
  | .kseek o => some (rawK 0xBA o)
  | .ksetp o => some (rawK 0xBB o)
  | .kdesc o => some (rawK 0xBC o)
  | .kcoit o => some (rawK 0xBD o)
  | .ksplit o => some (rawK 0xBE o)
  | .kcrd o => some (rawK 0xBF o)
  | .kpos o => some (rawK 0xC0 o)
  | .kval o => some (rawK 0xC1 o)
  | .kapp o => some (rawK 0xC2 o)
  | .kapm o => some (rawK 0xC3 o)
  | .kclose o => some (rawK 0xC4 o)
  | .kmov o => some (rawK 0xC5 o)
  | .ctinitQ o => some (rawM 0xB0 o)
  | .ctinitR o => some (rawM 0xB0 o)
  | .ctinitExt o => some (rawM 0xB0 o)
  | .homeCtinit _ _ _ => none
  | .cttakeQ o => some (rawM 0xB1 o)
  | .cttakeR o => some (rawM 0xB1 o)
  | .homeQuantityTake _ _ _ => none
  | .homeRangeTake _ _ _ => none
  | .counterRecall _ _ => none
  | .ctgive o => some (rawM 0xB2 o)
  | .giveFlush _ _ _ => none
  | .ctread o => some (rawM 0xB3 o)
  | .exactRead _ _ _ => none
  | .ctpeek o => some (rawM 0xB4 o)
  | .ctdrop o => some (rawM 0xB5 o)
  | .counterReturn _ _ _ _ => none
  | .mfill o => some (rawY 0xD0 o)
  | .mldw o => some (rawY 0xD1 o)
  | .mswap o => some (rawY 0xD2 o)
  | .mmul o => some (rawY 0xD3 o)
  | .mzero o => some (rawY 0xD4 o)
  | .mrd o => some (rawY 0xD5 o)
  | .mwr o => some (rawY 0xD6 o)
  | .mepi o => some (rawY 0xD7 o)
  | .mepiRoute o => some (rawY 0xD7 o)
  | .mtopkAcc o => some (rawY 0xD8 o)
  | .mtopkClr o => some (rawY 0xD8 o)
  | .mtopkOut o => some (rawY 0xD8 o)
  | .mchk o => some (rawY 0xD9 o)
  | .mchkClr o => some (rawY 0xD9 o)
  | .mchkRst o => some (rawY 0xD9 o)
  | .matrixEntryStart _ _ => none
  | .matrixCompletion _ _ => none
  | .powerLeaveRetry _ _ => none
  | .mldt o => some (rawM 0xDA o)
  | .xcopy o => some (rawX 0xE0 o)
  | .xstore o => some (rawX 0xE1 o)
  | .xgather o => some (rawX 0xE2 o)
  | .xscat o => some (rawX 0xE3 o)
  | .xmcast o => some (rawX 0xE4 o)
  | .copyCommandStart _ _ => none
  | .copyTileReturn _ _ _ => none
  | .xdisp o => some (rawX 0xE5 o)
  | .xdispB o => some (rawX 0xE5 o)
  | .xcomb o => some (rawX 0xE6 o)
  | .xcombB o => some (rawX 0xE6 o)
  | .dispatchRecord _ _ => none
  | .dispatchInstant _ _ => none
  | .batchCloseWindow _ _ => none
  | .productSpawnRetry _ _ => none
  | .tlbinvRange o => some (rawS 0xF0 o)
  | .tlbinvAsid o => some (rawS 0xF0 o)
  | .tlbinvAll o => some (rawS 0xF0 o)
  | .hostTlbinv _ _ _ _ => none
  | .icinv o => some (rawS 0xF1 o)
  | .mark o => some (rawS 0xF2 o)
  | .cohortPlacement _ => none
  | .windowLaunch _ _ _ => none
  | .windowPreempt _ _ _ => none
  | .windowKill _ _ _ => none
  | .windowResume _ _ _ => none
  | .windowFault _ _ _ => none
  | .preemptDrainComplete _ => none
  | .shutterExpiry _ => none
  | .ageingStep _ => none
  | .ctxkillWrite _ => none
  | .pageWalk _ _ _ => none
  | .hostTranslationAnswer _ _ _ _ => none
  | .llcFill _ => none
  | .llcProbe _ _ => none
  | .llcCounterRead _ _ _ => none
  | .copyRenewal _ _ _ _ => none
  | .ltTick _ => none
  | .epochFlip => none
  | .safelightEntry _ => none
  | .safelightWake _ => none
  | .holdingEndMessage _ _ _ _ => none
  | .hostSnoop _ => none
  | .hostMemRead _ _ => none
  | .hostMemWrite _ _ => none
  | .hostGoReceipt => none
  | .hostSharedFill _ _ _ _ => none
  | .mgmtWindowAccess _ _ _ => none
  | .registerWrite _ _ _ => none
  | .minjWrite _ _ => none
  | .modeselWrite _ _ => none
  | .pwrctlWrite _ _ => none
  | .vsetWrite _ _ => none
  | .leaselenWrite _ _ => none
  | .dtsetWrite _ _ => none
  | .hbmerrRead _ => none
  | .atnonceWrite _ _ => none
  | .attestationReport => none
  | .wsRefreshWindow _ _ => none
  | .hbmPatrolScrub _ _ => none
  | .flitRead _ => none
  | .flitWrite _ => none
  | .flitCompletion _ => none
  | .flitContribution _ => none
  | .flitDelivery _ => none
  | .flitPtp _ => none
  | .flitAck _ => none
  | .flitNak _ => none
  | .portRetrain _ => none
  | .memberFailure _ => none
  | .powerTopup _ _ => none
  | .currentCap _ => none
  | .thermalThrottle _ => none
  | .thermalTrip => none
  | .deviceReset _ _ => none
  | .uzoipDiscardedAccess _ _ => none
  | .lifetimeRecord => none
  | .contactSheet => none
  | .contactSheetWrite _ => none
  | .crcFailedFlit _ => none
  | .lossOfPower => none
  | .bisnpReply _ _ => none
  | .ptpMessageTimer _ _ => none
  | .rebuildSpacingEnd _ => none

/-- The instruction that accepted words stand for: by opcode, then by the field that tells its rows apart. -/
def build (r : Raw) : Option Instr :=
  match r.op.toNat with
  | 0x00 => some (.nop (w1Of r))
  | 0x01 => if r.len = 0#2 then some (.braW1b (bOf r)) else some (.bra (bwOf r))
  | 0x02 => some (.brc (bwOf r))
  | 0x03 => some (.brx (w1Of r))
  | 0x04 => if r.len = 0#2 then some (.callW1b (bOf r)) else some (.call (bwOf r))
  | 0x05 => some (.callx (w1Of r))
  | 0x06 => some (.ret (w1Of r))
  | 0x07 => some (.loop (bwOf r))
  | 0x08 => some (.exit (w1Of r))
  | 0x09 => some (.yield (w1Of r))
  | 0x0A => some (.spawn (aOf r))
  | 0x0B => some (.launch (aOf r))
  | 0x0C => some (.join (aOf r))
  | 0x0D => some (.trap (iOf r))
  | 0x0E => some (.rett (w1Of r))
  | 0x0F => some (.dbg (iOf r))
  | 0x20 => if r.len = 0#2 then some (.addW1a (w1Of r)) else some (.add (aOf r))
  | 0x21 => if r.len = 0#2 then some (.subW1a (w1Of r)) else some (.sub (aOf r))
  | 0x22 => if r.len = 0#2 then some (.mulW1a (w1Of r)) else some (.mul (aOf r))
  | 0x23 => if r.len = 0#2 then some (.mulhW1a (w1Of r)) else some (.mulh (aOf r))
  | 0x24 => if r.len = 0#2 then some (.madW1a (w1Of r)) else some (.mad (aOf r))
  | 0x25 => if r.len = 0#2 then some (.divW1a (w1Of r)) else some (.divOp (aOf r))
  | 0x26 => if r.len = 0#2 then some (.remW1a (w1Of r)) else some (.remOp (aOf r))
  | 0x27 => if r.len = 0#2 then some (.minW1a (w1Of r)) else some (.minOp (aOf r))
  | 0x28 => if r.len = 0#2 then some (.maxW1a (w1Of r)) else some (.maxOp (aOf r))
  | 0x29 => if r.len = 0#2 then some (.absW1a (w1Of r)) else some (.absOp (aOf r))
  | 0x2A => if r.len = 0#2 then some (.andW1a (w1Of r)) else some (.andOp (aOf r))
  | 0x2B => if r.len = 0#2 then some (.orW1a (w1Of r)) else some (.orOp (aOf r))
  | 0x2C => if r.len = 0#2 then some (.xorW1a (w1Of r)) else some (.xorOp (aOf r))
  | 0x2D => if r.len = 0#2 then some (.andnW1a (w1Of r)) else some (.andn (aOf r))
  | 0x2E => if r.len = 0#2 then some (.shlW1a (w1Of r)) else some (.shl (aOf r))
  | 0x2F => if r.len = 0#2 then some (.shrW1a (w1Of r)) else some (.shr (aOf r))
  | 0x30 => if r.len = 0#2 then some (.sarW1a (w1Of r)) else some (.sar (aOf r))
  | 0x31 => if r.len = 0#2 then some (.rolW1a (w1Of r)) else some (.rol (aOf r))
  | 0x32 => if r.len = 0#2 then some (.popcW1a (w1Of r)) else some (.popc (aOf r))
  | 0x33 => if r.len = 0#2 then some (.clzW1a (w1Of r)) else some (.clz (aOf r))
  | 0x34 => if r.len = 0#2 then some (.brevW1a (w1Of r)) else some (.brev (aOf r))
  | 0x35 => if r.len = 0#2 then some (.bfxW1a (w1Of r)) else some (.bfx (aOf r))
  | 0x36 => if r.len = 0#2 then some (.bfiW1a (w1Of r)) else some (.bfi (aOf r))
  | 0x37 => if r.len = 0#2 then some (.permW1a (w1Of r)) else some (.perm (aOf r))
  | 0x38 => some (.lea (mOf r))
  | 0x39 => some (.cmp (aOf r))
  | 0x3A => some (.sel (aOf r))
  | 0x3B => if r.len = 0#2 then some (.movW1a (w1Of r)) else some (.mov (aOf r))
  | 0x3C => if r.len = 0#2 then some (.moviW1i (iOf r)) else some (.movi (aOf r))
  | 0x3D => if r.len = 0#2 then some (.movsW1a (w1Of r)) else some (.movs (aOf r))
  | 0x3E => some (.csrr (sOf r))
  | 0x3F => some (.csrw (sOf r))
  | 0x60 => if r.len = 0#2 then some (.faddW1a (w1Of r)) else some (.fadd (aOf r))
  | 0x61 => if r.len = 0#2 then some (.fsubW1a (w1Of r)) else some (.fsub (aOf r))
  | 0x62 => if r.len = 0#2 then some (.fmulW1a (w1Of r)) else some (.fmul (aOf r))
  | 0x63 => if r.len = 0#2 then some (.ffmaW1a (w1Of r)) else some (.ffma (aOf r))
  | 0x64 => if r.len = 0#2 then some (.fminW1a (w1Of r)) else some (.fmin (aOf r))
  | 0x65 => if r.len = 0#2 then some (.fmaxW1a (w1Of r)) else some (.fmax (aOf r))
  | 0x66 => if r.len = 0#2 then some (.fcmpW1a (w1Of r)) else some (.fcmp (aOf r))
  | 0x67 => if r.len = 0#2 then some (.fclassW1a (w1Of r)) else some (.fclass (aOf r))
  | 0x68 => if r.len = 0#2 then some (.frcpW1a (w1Of r)) else some (.frcp (aOf r))
  | 0x69 => if r.len = 0#2 then some (.frsqW1a (w1Of r)) else some (.frsq (aOf r))
  | 0x6A => if r.len = 0#2 then some (.fsqrtW1a (w1Of r)) else some (.fsqrt (aOf r))
  | 0x6B => if r.len = 0#2 then some (.fexp2W1a (w1Of r)) else some (.fexp2 (aOf r))
  | 0x6C => if r.len = 0#2 then some (.flog2W1a (w1Of r)) else some (.flog2 (aOf r))
  | 0x6D => if r.len = 0#2 then some (.frndW1a (w1Of r)) else some (.frnd (aOf r))
  | 0x6E => if r.len = 0#2 then some (.cvtW1a (w1Of r)) else some (.cvt (aOf r))
  | 0x80 => some (.shfl (aOf r))
  | 0x81 => some (.vote (aOf r))
  | 0x82 => some (.ballot (aOf r))
  | 0x83 => some (.redx (aOf r))
  | 0x84 => some (.scan (aOf r))
  | 0x85 => some (.matchOp (aOf r))
  | 0x90 => some (.ld (mOf r))
  | 0x91 => some (.st (mOf r))
  | 0x92 => some (.ldl (mOf r))
  | 0x93 => some (.stl (mOf r))
  | 0x94 => if r.f = 0#3 then some (.prefL1 (mOf r)) else if r.f = 1#3 then some (.prefLlc (mOf r)) else none
  | 0x95 => if r.f = 0#3 then some (.cleanL1 (mOf r)) else if r.f = 1#3 then some (.cleanMem (mOf r)) else none
  | 0x96 => if r.f = 0#3 then some (.dropL1 (mOf r)) else if r.f = 1#3 then some (.dropLlc (mOf r)) else none
  | 0x97 => some (.lock (mOf r))
  | 0x98 => some (.unlock (mOf r))
  | 0x99 => some (.atom (mOf r))
  | 0x9A => some (.atoml (mOf r))
  | 0x9B => some (.lease (mOf r))
  | 0x9C => some (.unlease (mOf r))
  | 0x9D => some (.wait (mOf r))
  | 0x9E => if r.f = 0#3 then some (.barArrive (mOf r)) else if r.f = 1#3 then some (.barWait (mOf r)) else if r.f = 2#3 then some (.barSync (mOf r)) else if r.f = 3#3 then some (.barExpect (mOf r)) else none
  | 0x9F => if r.f = 1#3 then some (.fenceAcq (mOf r)) else if r.f = 2#3 then some (.fenceRel (mOf r)) else if r.f = 3#3 then some (.fenceAr (mOf r)) else none
  | 0xA0 => if r.f = 0#3 then some (.acqX (mOf r)) else if r.f = 1#3 then some (.acqSh (mOf r)) else none
  | 0xA1 => some (.rel (mOf r))
  | 0xA2 => some (.gbind (mOf r))
  | 0xB0 => if r.f = 0#3 ∨ r.f = 4#3 then some (.ctinitQ (mOf r)) else if r.f = 1#3 ∨ r.f = 5#3 then some (.ctinitR (mOf r)) else if r.f = 2#3 then some (.ctinitExt (mOf r)) else none
  | 0xB1 => if r.f = 0#3 then some (.cttakeQ (mOf r)) else if r.f = 1#3 then some (.cttakeR (mOf r)) else none
  | 0xB2 => some (.ctgive (mOf r))
  | 0xB3 => some (.ctread (mOf r))
  | 0xB4 => some (.ctpeek (mOf r))
  | 0xB5 => some (.ctdrop (mOf r))
  | 0xB8 => some (.kopen (kOf r))
  | 0xB9 => some (.knext (kOf r))
  | 0xBA => some (.kseek (kOf r))
  | 0xBB => some (.ksetp (kOf r))
  | 0xBC => some (.kdesc (kOf r))
  | 0xBD => some (.kcoit (kOf r))
  | 0xBE => some (.ksplit (kOf r))
  | 0xBF => some (.kcrd (kOf r))
  | 0xC0 => some (.kpos (kOf r))
  | 0xC1 => some (.kval (kOf r))
  | 0xC2 => some (.kapp (kOf r))
  | 0xC3 => some (.kapm (kOf r))
  | 0xC4 => some (.kclose (kOf r))
  | 0xC5 => some (.kmov (kOf r))
  | 0xD0 => some (.mfill (yOf r))
  | 0xD1 => some (.mldw (yOf r))
  | 0xD2 => some (.mswap (yOf r))
  | 0xD3 => some (.mmul (yOf r))
  | 0xD4 => some (.mzero (yOf r))
  | 0xD5 => some (.mrd (yOf r))
  | 0xD6 => some (.mwr (yOf r))
  | 0xD7 => if (yOf r).af = 3#4 then some (.mepiRoute (yOf r)) else if (yOf r).af ≠ 3#4 then some (.mepi (yOf r)) else none
  | 0xD8 => if r.f = 0#3 then some (.mtopkAcc (yOf r)) else if r.f = 1#3 then some (.mtopkClr (yOf r)) else if r.f = 2#3 then some (.mtopkOut (yOf r)) else none
  | 0xD9 => if r.f = 0#3 then some (.mchk (yOf r)) else if r.f = 1#3 then some (.mchkClr (yOf r)) else if r.f = 2#3 then some (.mchkRst (yOf r)) else none
  | 0xDA => some (.mldt (mOf r))
  | 0xE0 => some (.xcopy (xOf r))
  | 0xE1 => some (.xstore (xOf r))
  | 0xE2 => some (.xgather (xOf r))
  | 0xE3 => some (.xscat (xOf r))
  | 0xE4 => some (.xmcast (xOf r))
  | 0xE5 => if (xOf r).xmod.getLsbD 0 = false then some (.xdisp (xOf r)) else if (xOf r).xmod.getLsbD 0 = true then some (.xdispB (xOf r)) else none
  | 0xE6 => if (xOf r).xmod.getLsbD 0 = false then some (.xcomb (xOf r)) else if (xOf r).xmod.getLsbD 0 = true then some (.xcombB (xOf r)) else none
  | 0xF0 => if (sOf r).sel = 0#12 then some (.tlbinvRange (sOf r)) else if (sOf r).sel = 1#12 then some (.tlbinvAsid (sOf r)) else if (sOf r).sel = 2#12 then some (.tlbinvAll (sOf r)) else none
  | 0xF1 => some (.icinv (sOf r))
  | 0xF2 => some (.mark (sOf r))
  | _ => none

/-- Why words are not an instruction. -/
inductive DecodeError where
  /-- the words break a decode rule: the info code of R67 -/
  | illegal (info : Nat)
  /-- the bytes end before the instruction does -/
  | short
  deriving DecidableEq, Repr

/-- Decode three words, those past the length ignored. -/
def decodeWords (w0 w1 w2 : BitVec 32) : Except DecodeError Instr :=
  let r := rawOfWords w0 w1 w2
  match rawCheck r with
  | some c => .error (.illegal c)
  | none => match build r with
    | some i => .ok i
    | none => .error (.illegal 11)

/-- The word at the front of a byte list, little-endian. -/
def wordAt (bs : List Byte) : BitVec 32 := BitVec.ofNat 32 (ofLe (bs.take 4))

/-- The length in bytes that word 0 states (R41); 4 where it states none. -/
def lenBytes (w0 : BitVec 32) : Nat :=
  let l := w0.extractLsb' 0 2
  if l = 1#2 then 8 else if l = 2#2 then 12 else 4

/-- Decode the instruction at the front of a byte list, with the bytes that follow it. -/
def decode (bs : List Byte) : Except DecodeError (Instr × List Byte) :=
  if bs.length < 4 then .error .short
  else
    let w0 := wordAt bs
    let n := lenBytes w0
    if bs.length < n then .error .short
    else match decodeWords w0 (wordAt (bs.drop 4)) (wordAt (bs.drop 8)) with
      | .ok i => .ok (i, bs.drop n)
      | .error e => .error e

/-- The words of an instruction; none for an event. -/
def encode (i : Instr) : List (BitVec 32) :=
  match toRaw i with
  | none => []
  | some r => if r.len = 0#2 then [r.word0] else if r.len = 1#2 then [r.word0, r.w1] else [r.word0, r.w1, r.w2]

/-- The bytes of words as memory holds them. -/
def wordBytes (ws : List (BitVec 32)) : List Byte :=
  match ws with
  | [] => []
  | w :: t => leBytes 4 w.toNat ++ wordBytes t

/-- The words of an instruction whose bits are w, numbered with bit 0 the least significant bit of the first word; bits
at and above nbits are 0. Always three words, the longest instruction. -/
def tableWords (nbits w : Nat) : List (BitVec 32) :=
  let v := w % 2 ^ nbits
  [BitVec.ofNat 32 v, BitVec.ofNat 32 (v >>> 32), BitVec.ofNat 32 (v >>> 64)]

/-- The instruction that the decoder reads from the bytes of those words. -/
def decodeTableWord (nbits w : Nat) : Option Instr :=
  match decode (wordBytes (tableWords nbits w)) with
  | .ok (i, _) => some i
  | .error _ => none

end Sys2Proof
end

