-- ==== Sys2Proof/Machine/State.lean ====
section
/-! DEFINITION. The state of the KV40: strands, cohorts, cores, regions, the LLC and memory, translation, the engines,
the host link, the fabric and the package registers, as plain data; the reasons a step can stop; the state after reset.

Keys of the sparse maps: a strand, cohort, region or engine command by its own number; a core by die * 96 + core;
a vector register lane by register * 64 + thread; a cursor lane by k * 64 + thread, a uniform cursor by 512 + q;
an accumulator element by row * 128 + column; a B-slice byte by column * 16384 + offset; a physical line by
address / 128. Registers are numbered together in lists of empty registers: v n is n, s n is 128 + n, k n is 192 + n,
q n is 200 + n (R28). -/

namespace Sys2Proof.Machine

/-- Why the machine stops with a fault. Every instruction and event of the table answers with a next state. -/
inductive Fault where
  /-- raised by step, for every move but a device reset, while the package has not left reset because too few cores or
  columns passed built-in test (R450), has lost its power (R459) or tripped on temperature (R453): safe, the hardware takes no step either -/
  | packageDown
  deriving DecidableEq, Repr

/-- Why a step has no meaning. -/
inductive Refusal where
  /-- raised by exec for a row of the table that the model gives no meaning: safe, no step is taken -/
  | notModelled (mnemonic : String)
  deriving DecidableEq, Repr

/-- Physical memory as a sparse map in canonical form: an address that is not listed reads as 0 (log 4). -/
abbrev Memory := List Host.Cell

/-- What a byte of memory that nothing has written reads as (log 4). -/
def Memory.unlisted : Byte := 0#8

/-- The canonical form of memory. -/
def Memory.wf (m : Memory) : Bool := kvWf Memory.unlisted m

/-! ## The state a strand carries (R16) -/

/-- Where a cursor stands in its level's tables beyond POS (R219): a bit of a BITMAP map; a run with its start, base and length;
a BLOCK chain's block number, the position of its first entry, its CNT, the next block, and the fibre's COUNT; or nowhere that has been looked up. -/
inductive Place where
  | none
  | start (i y count : Nat)
  | bit (b y : Nat)
  | run (i start base len : Nat)
  | block (i first cnt next count : Nat)
  deriving DecidableEq, Repr

/-- A cursor register (R24) with its hidden fields FTAG and TTAG (R227), the physical address of HEAPC that an open
append cursor recorded (R243), the descriptor's word that it latched when it opened, and its place in the level's tables. -/
structure Cursor where
  boundhi : BitVec 40
  pos : BitVec 40
  valid : Bool
  append : Bool
  done : Bool
  kind : BitVec 3
  handle : BitVec 16
  ftag : BitVec 40
  ttag : BitVec 64
  heapPa : Nat
  lev : Nat
  place : Place
  deriving DecidableEq, Repr

/-- A cursor at creation (R39): every field 0. -/
def Cursor.zero : Cursor := ⟨0#40, 0#40, false, false, false, 0#3, 0#16, 0#40, 0#64, 0, 0, .none⟩

/-- An entry of the loop stack (R23). -/
structure LoopEnt where
  start : BitVec 56
  last : BitVec 56
  count : BitVec 32
  deriving DecidableEq, Repr

/-- An entry of the divergence stack (R22). -/
structure DivEnt where
  rmask : BitVec 64
  joinpc : BitVec 56
  deriving DecidableEq, Repr

/-- One thread's access of a logged instruction: what it addresses, its data, and where it stands: 0 not performed,
1 performed with its value in got, 2 faulted and with triage or heap growth, 3 its fault returned, 4 waiting on a
monitor, 5 with a peer or with a counter's home, 6 failed with a class that goes to no function. -/
structure Acc where
  thread : Nat
  va : Nat
  size : Nat
  data : Nat
  data2 : Nat
  got : Nat
  got2 : Nat
  status : Nat
  cls : Nat
  write : Bool
  byHost : Bool
  deriving DecidableEq, Repr

/-- An entry of the operand log (R198, R205): its state (1 issued, 2 deferred, 3 held, 4 failed), the instruction's
words and PC, its position in program order, the accesses of its threads, the class and address of its failure, the
effective number of D, how far a collective instruction has come, and the registers as they stood at issue. -/
structure LogEnt where
  state : Nat
  raw : Raw
  pc : Nat
  seq : Nat
  amask : Nat
  accs : List Acc
  cls : Nat
  addr : Nat
  thread : Nat
  dnum : Nat
  progress : Nat
  vregs : KV Word
  sregs : KV DWord
  curs : KV Cursor
  deriving DecidableEq, Repr

/-- A class of kind A that waits for the next instruction boundary (R89, R201, R206). -/
structure After where
  cls : Nat
  fpc : Nat
  faddr : Nat
  seq : Nat
  words : List (BitVec 32)
  deriving DecidableEq, Repr

/-- A trap to be taken: its class and info, the resume PC, the trapping instruction and address (R204). -/
structure TrapInfo where
  cls : Nat
  info : Nat
  rpc : Nat
  fpc : Nat
  faddr : Nat
  tvalid : Bool
  thread : Nat
  fmask : Nat
  oplog : Option Nat
  words : List (BitVec 32)
  deriving DecidableEq, Repr

/-- A read of an LLC counter on its way (R403, R406): how many slices it has read, and over them the valid lines, their sectors and the
counter itself. -/
structure LlcSum where
  slices : Nat
  lines : Nat
  sect : Nat
  sum : Nat
  deriving DecidableEq, Repr

/-- No slice has been read. -/
def LlcSum.start : LlcSum := ⟨0, 0, 0, 0⟩

/-- What a strand waits in (R132). -/
inductive Waiting where
  | nothing
  /-- YIELD: until the cycle, or until every strand of the list has issued (R141); none while the turn in which it issued
  has not yet said which strands were ready -/
  | yield (deadline : Nat) (peers : Option (List Nat))
  /-- WAIT, with its log slot (R168) -/
  | wait (slot : Nat)
  /-- BAR: barrier offset, phase to leave, status register (R171) -/
  | bar (off : Nat) (phase : Bool) (dst : Nat)
  /-- JOIN: status register and the device time at which it gives up, in 1/47 ns (R151) -/
  | join (dst : Nat) (deadline : Option Nat)
  /-- ACQ: guard's physical and virtual address, status register (R176) -/
  | acq (guard : Nat) (va : Nat) (dst : Nat)
  /-- an instruction that holds back everything younger until its log entry is done (R150, R263) -/
  | entry (slot : Nat)
  /-- a CSRR of an LLC register, with its destination and what the slices read so far hold (R406) -/
  | llc (dst : Nat) (seen : LlcSum)
  /-- an instruction that has marked its uniform destination empty and waits with nothing done yet: it stands at the strand's PC
  and is tried again; a class that awaits delivery finds it not issued (R28, R201) -/
  | again (dst : Nat)
  /-- a trap waits for the strand to drain (R202) -/
  | trap
  deriving DecidableEq, Repr

/-- What a result on its way comes from: a division (R96), a transcendental function (R108), the rows of MLDT (R329). -/
inductive FillKind where
  | division
  | transc
  | rows
  deriving DecidableEq, Repr

/-- A result on its way to the registers that it fills (R28). -/
structure Fill where
  seq : Nat
  regs : List Nat
  lanes : List (Nat × Word)
  uregs : List (Nat × DWord)
  flags : BitVec 5
  kind : FillKind
  deriving DecidableEq, Repr

/-- Where a strand stands in its life (R40, R138). -/
inductive Life where
  | resident
  | swapped
  | ended
  deriving DecidableEq, Repr

/-- A strand (R16), with what the hardware keeps for it. bad holds the 32-bit words of its registers that an uncorrectable
error struck (R448): register * 64 + thread for a vector lane, 8192 + 2 * register + half for a uniform register. A strand
that an instruction held is looked at again at stallUntil (log 2); readySince is the cycle from which it has been ready
without issuing (R133), none while it is not ready. openApps counts by heap
the append cursors that the strand has opened and not closed (R243). In handler mode stayed holds the program positions of the classes that
awaited delivery when the handler was entered (R201). While around is set the schedule has the strand's weak loads served by
the LLC and not by its core's copies (R182, log 18). -/
structure Strand where
  life : Life
  rid : Nat
  cid : Nat
  spawned : Bool
  cidx : Nat
  core : Nat
  quad : Nat
  slot : Nat
  spill : Nat
  allot : Nat
  pc : BitVec 56
  amask : BitVec 64
  vregs : KV Word
  sregs : KV DWord
  preds : KV DWord
  curs : KV Cursor
  jidx : KV (BitVec 16)
  empties : List Nat
  emptyPreds : List Nat
  frm : BitVec 3
  fstat : BitVec 5
  llcslsel : BitVec 7
  llcprba : BitVec 52
  loops : List LoopEnt
  divs : List DivEnt
  hmode : Bool
  trapDepth : Nat
  frameLog : Option Nat
  hostHeld : Bool
  waiting : Waiting
  waitSince : Nat
  trap : Option TrapInfo
  afters : List After
  log : KV LogEnt
  fills : List Fill
  barRec : Option (Nat × Bool)
  joins : List Nat
  openApps : KV Nat
  leases : List Nat
  guards : List Nat
  readySince : Option Nat
  stallUntil : Nat
  stayed : List Nat
  around : Bool
  bad : List Nat
  deriving DecidableEq, Repr

/-! ## Cohorts (R135) -/

/-- Who owns a scratchpad tile (R187): absent means the threads. -/
abbrev Owner := Nat

/-- A cohort: its shape, its scratchpad with tile owners, its accumulator rows with their parity state, row checksums
(R304) and those whose parity fails and top-k rows (R300), and whether it still lives. -/
structure Cohort where
  alive : Bool
  rid : Nat
  spawned : Bool
  tile : Nat
  core : Nat
  strands : List Nat
  age : Nat
  bytes : Nat
  swz : Bool
  spad : KV Byte
  owners : KV Owner
  rows : Nat
  acc : KV Fa40
  accBad : List Nat
  spadBad : List Nat
  rowck : KV Word
  rowckBad : List Nat
  topk : KV DWord
  topkLost : List Nat
  topkSaved : Bool
  deriving DecidableEq, Repr

/-! ## What a core holds -/

/-- Who stored bytes that stand dirty in an L1 copy: the strand, the instruction with its PC and place in program order, the
thread, the first byte's virtual address, and the bytes' offset in the line, their number and their value. A write that the home
then refuses is deferred for it (R174, R199). -/
structure Author where
  sid : Nat
  pc : Nat
  seq : Nat
  raw : Raw
  amask : Nat
  thread : Nat
  va : Nat
  off : Nat
  size : Nat
  data : Nat
  deriving DecidableEq, Repr

/-- A line in a core cache (R380, R381, R409): cache 0 is L1, 1 to 4 the uniform data caches of the quadrants, 5 and 7 the
metadata cache, whose lines of 64 bytes are the lower and the upper halves (R2). vline and pline are line numbers; perms holds
bits [6:2] of the leaf it was filled through; hostMem marks a CXL.cache copy, which has no stamps; poison has bit h for a half that
was poisoned when a lease brought the line (R422); authors says who wrote the
dirty bytes, the latest first. A core's list stands in order of use, the most recent first (log 18). -/
structure Copy where
  cache : Nat
  asid : Nat
  vline : Nat
  pline : Nat
  perms : Nat
  data : List Byte
  dirty : Nat
  dirtySince : Nat
  wts : Nat
  rts : Nat
  epoch : Nat
  hostMem : Bool
  poison : Nat
  authors : List Author
  deriving DecidableEq, Repr

/-- An instruction-cache line (R45, R380). -/
structure ICopy where
  asid : Nat
  vline : Nat
  pline : Nat
  perms : Nat
  data : List Byte
  deriving DecidableEq, Repr

/-- An entry of the allowance table (R253): an amount in lo, or a piece [lo, hi); init numbers the initialisation of
the counter it came from (R259), pool the pool owner it counts against (R354); frozen while a request of the home holds it (R258);
returning while its return is on its way to the home, where it counts until the home has served it (R254, R259). -/
structure Allow where
  block : Nat
  range : Bool
  lo : Nat
  hi : Nat
  asid : Nat
  init : Nat
  pool : Nat
  frozen : Bool
  returning : Bool
  deriving DecidableEq, Repr

/-- The key of a spawn bin (R142). -/
structure BinKey where
  rid : Nat
  entry : Nat
  allot : Nat
  tiles : Nat
  swz : Bool
  deriving DecidableEq, Repr

/-- A thread pending in a bin: its argument record, the strand that spawned it and that strand's program position. -/
structure BinThread where
  args : List Word
  parent : Nat
  seq : Nat
  deriving DecidableEq, Repr

/-- A spawn bin (R142, R143): key, pending list, the device time its timer expires, the formed strand with its place in the
order of arrival (R137). -/
structure Bin where
  key : Option BinKey
  pending : List BinThread
  timer : Option Nat
  formed : Option (BinKey × List BinThread)
  formedSeq : Nat
  deriving DecidableEq, Repr

/-- A plane of the array (R274): format, sparsity, depth, stored elements at column * 1024 + e, scales at column * 32 +
b, metadata nibbles at column * 256 + g, channel map, row sums, CKV and VALID. -/
structure Plane where
  af : Nat
  s24 : Bool
  depth : Nat
  elems : KV (BitVec 16)
  scales : KV Byte
  nibbles : KV (BitVec 4)
  chan : List Nat
  rowSums : KV Word
  ckv : Bool
  valid : Bool
  deriving DecidableEq, Repr

/-- A plane that holds nothing. -/
def Plane.empty : Plane := ⟨0, false, 0, [], [], [], [], [], false, false⟩

/-- The weight state of a core (R274, R304) with the injector MINJ (R309). -/
structure Weight where
  bslice : KV Byte
  bsliceBad : List Nat
  active : Plane
  shadow : Plane
  asid : Option Nat
  colck : KV Word
  colckBad : List Nat
  colckAsid : Option Nat
  topkOwner : Option Nat
  minj : DWord
  minjCohort : Option Nat
  deriving DecidableEq, Repr

/-- A matrix queue entry (R279): who issued what, the register values it read, its tiles and rows, where it stands
(0 queued, 1 started, 2 waiting on triage), its status, the leave it holds, its results and conversion events, what a peer has
answered, and the region's grant as it read it at its start (R425). -/
structure MEnt where
  ident : Nat
  sid : Nat
  cid : Nat
  rid : Nat
  raw : Raw
  pc : Nat
  seq : Nat
  stage : Nat
  aval : Nat
  bval : Nat
  abval : Nat
  vals : KV Word
  rm : Nat
  tiles : List Nat
  row0 : Nat
  rows : Nat
  leave : Nat
  status : Nat
  progress : Nat
  inject : Bool
  flags : BitVec 5
  events : Nat × Nat × Nat
  logSlot : Option Nat
  inbox : Option (List Byte)
  grant : Option (Nat × Nat × Nat)
  retryAt : Nat
  deriving DecidableEq, Repr

/-- A copy-engine or expert command (R313, R342): who issued what, the register values it read, its map or list, its
covered tiles with the bytes that a barrier still expects from each, its barrier and signal word, where it stands
(0 queued, 1 started, 2 waiting on triage, 3 its data done), how far it has come, the class and address that triage has,
the bytes it has read of a row or of a packed buffer, what a peer has answered, how it ends, the region's grant as it read it at its
start (R425), the latest wts of the lines that it has written (R411), and whether the host serves its fault (R454). -/
structure CCmd where
  ident : Nat
  sid : Nat
  cid : Nat
  rid : Nat
  asid : Nat
  raw : Raw
  pc : Nat
  seq : Nat
  stage : Nat
  dval : Nat
  regs : List DWord
  spadBase : Nat
  sigVal : DWord
  rm : Nat
  row : Nat
  list : List Nat
  tiles : List (Nat × Nat)
  bar : Option Nat
  members : List (Nat × Bool)
  leave : Nat
  progress : Nat
  left : Nat
  code : Nat
  mask : Nat
  faddr : Nat
  stash : List Byte
  inbox : Option (List Byte)
  failed : Bool
  events : Nat × Nat × Nat
  grant : Option (Nat × Nat × Nat)
  wts : Nat
  retryAt : Nat
  byHost : Bool
  deriving DecidableEq, Repr

/-- What one core holds. tickAt is the cycle of its last tick (R408); acqLines are the lines that strong reads of its strands
have read since the last acquiring fence (R173, R182); gives is leave that ended commands have still to give back, each with its
context and pool (R282); lastSlots names the slot that each quadrant issued from
last (R133); a throttled array takes its next product from the cycle mmulAt (R453). -/
structure Core where
  lt : Nat
  tickAt : Nat
  acqts : Nat
  acqLines : List Nat
  copies : List Copy
  icache : List ICopy
  snap : Option Nat
  allow : List Allow
  gives : List (Nat × Nat × Nat)
  bins : KV Bin
  openApp : KV Nat
  weight : Weight
  mq : List MEnt
  cq : List CCmd
  lastSlots : KV Nat
  mmulAt : Nat
  deriving DecidableEq, Repr

/-- An empty spawn bin. -/
def Bin.empty : Bin := ⟨none, [], none, none, 0⟩

/-- The weight state at reset (R274). -/
def Weight.empty : Weight := ⟨[], [], Plane.empty, Plane.empty, none, [], [], none, none, 0#64, none⟩

/-- A core at reset. -/
def Core.empty : Core := ⟨0, 0, 0, [], [], [], none, [], [], [], [], Weight.empty, [], [], [], 0⟩

/-! ## Regions (R349) -/

/-- The fields of an RCB in effect after inheritance (R349, R351), with the barrier list (R472). -/
structure Rcb where
  salt : Nat
  allot : Nat
  nstr : Nat
  swz : Bool
  ww : Bool
  dbg : Bool
  die : Nat
  both : Bool
  prio : Nat
  entry : Nat
  datab : Nat
  gx : Nat
  gy : Nat
  gz : Nat
  rows : Nat
  tiles : Nat
  ltbase : Nat
  ltlen : Nat
  handler : Nat
  dmask : Nat
  fdom : Nat
  fdbase : Nat
  cvrec : Nat
  shut : Nat
  spint : Nat
  age : Nat
  rowb : Nat
  tileb : Nat
  slotb : Nat
  heapb : Nat
  leaveb : Nat
  atsb : Nat
  spill : Nat
  savea : Nat
  wsg : Nat
  bars : List (Nat × Nat)
  deriving DecidableEq, Repr

/-- A region: its context and the virtual address of its RCB, its parent and pool owner, the status fields of R349, its place in the launch queues,
with the order in which regions entered them (R360, R362), its shutter (R364) and its contact sheets with the time at
which the drain for one was complete (R460); ending is the final state it will reach, with the class,
FPC and FADDR of its fault record, while earlier writes are still to be performed (R366). -/
structure Region where
  asid : Nat
  rcbVa : Nat
  rcb : Rcb
  cvrecPa : Nat
  parent : Option Nat
  pool : Nat
  owner : Bool
  state : Nat
  nextt : Nat
  cdone : Nat
  heapused : Nat
  qtime : Nat
  etime : Nat
  queue : Option Nat
  queueSeq : Nat
  waitSince : Nat
  aged : Bool
  shutAt : Option Nat
  sheets : Nat
  sheeting : Bool
  drainAt : Option Nat
  leaveHeld : Nat
  ending : Option (Nat × Nat × Nat × Nat)
  deriving DecidableEq, Repr

/-! ## Memory homes -/

/-- An LLC tag (R393): the line number, its encoding, the value of a REP8 line and its sectors, dirty with the bytes that HBM
still holds, the context that pins it, its rank, epoch and sector map, and which of its two copies fail their parity check
(R449). -/
structure Tag where
  line : Nat
  inline : Nat
  epoch : Nat
  enc : Nat
  scnt : Nat
  smap : List Nat
  dirty : Bool
  stale : List Byte
  pin : Option Nat
  rank : Nat
  bad1 : Bool
  bad2 : Bool
  deriving DecidableEq, Repr

/-- The stamps and version of a line at its home (R408, R417). -/
structure Stamp where
  wts : Nat
  rts : Nat
  epoch : Nat
  ver : Nat
  deriving DecidableEq, Repr

/-- A line never stamped. -/
def Stamp.zero : Stamp := ⟨0, 0, 0, 0⟩

/-- A LEASE holding in the directory of a home (R417). -/
structure Holding where
  core : Nat
  sid : Nat
  since : Nat
  ver : Nat
  deriving DecidableEq, Repr

/-- An operation on a counter by the host or by Uzoip firmware (R264): an initialisation with its four units, PARK as a physical
address, the extension, a give. -/
inductive CtrOp where
  | init (range priv : Bool) (u0 u1 u2 u3 : Nat)
  | ext (x : Nat)
  | give (n : Nat)
  | take (n : Nat)
  deriving DecidableEq, Repr

/-- An entry of the negative that has still to reach its ring (R461, R462): the strand and the operation's place in program order,
whether it is a MARK, and its bytes. -/
structure NegEnt where
  sid : Nat
  seq : Nat
  mark : Bool
  bytes : List Byte
  deriving DecidableEq, Repr

/-- A write of the device itself that stands before a home until it can be performed (R418, R415, R167): bytes at an address; a count
of a weight-store grant up or down, of its writers or of its readers (R425); a status word of a region's RCB, whose page the host has
still to translate (R349). -/
inductive DevW where
  | put (pa : Nat) (bytes : List Byte)
  | grant (pa : Nat) (writers up : Bool)
  | rcb (rid off v : Nat)
  deriving DecidableEq, Repr

/-- A request at a counter's home (R255): of a strand's thread, by its log slot; the return of a core's entry (R259); the growth of
a heap for a held append (R225); the top-up of a power counter (R451); an operation of the host or of Uzoip firmware (R264), by its
number; the device's own takes and gives (R271): of a thread of an append, of power leave for the instruction that a strand is to
issue, and of a core's engines (0 power leave given back, 1 and 2 a dispatch engine). -/
inductive CtrReq where
  | thread (sid slot t : Nat)
  | back (core : Nat)
  | growth (sid slot : Nat)
  | topup
  | act (ident : Nat) (op : CtrOp)
  | append (sid slot t : Nat)
  | leave (sid pc : Nat)
  | engine (core key : Nat)
  deriving DecidableEq, Repr

/-- What the home keeps of a counter beside its block (R252, R255, R258, R259): the number of its initialisation, the
strand, log slot and thread whose request runs a recall round or an exact read. -/
structure CtrHome where
  init : Nat
  recalling : Option (Nat × Nat × Nat)
  deriving DecidableEq, Repr

/-- Memory homes (R391 to R418). By home: the LLC's tags and its event counts; by line: stamps and LEASE holdings; the bound
guard objects, with what waits for each, and what is kept of each counter, by physical address; the poisoned half-lines; the
snoop filter of each slice and the lines being back-invalidated; device writes on their way to the host; the negative's
sequence number of each home; the addresses and sizes of device writes at whose monitors this step has still to look (R168);
the authors of bytes that a home has refused in this step (R174); the writes of the device itself that wait, in order; the entries of
the negative that wait, in order (R461, R462); the conversion records that slices hold, by physical address (R356); the requests
that have arrived at the home of a counter, in order (R255); and the half-lines that HBM cannot correct while the LLC still holds a good
copy (R422). -/
structure Homes where
  tags : KV (Option Tag)
  stamps : KV Stamp
  fillsN : KV Nat
  expandN : KV Nat
  expevN : KV Nat
  holdings : KV (Option Holding)
  guards : List Nat
  guardQ : KV (List (Nat × Nat × Bool))
  ctrs : KV (Option CtrHome)
  poison : List Nat
  filter : KV (List Nat)
  snooped : List Nat
  goQueue : List (Nat × List (Nat × Byte))
  seqs : KV Nat
  unseen : List (Nat × Nat)
  refused : List Author
  dev : List DevW
  negQ : List NegEnt
  cvrecs : KV (Option Nat)
  ctrqs : KV (List CtrReq)
  hbmBad : List Nat
  deriving DecidableEq, Repr

/-! ## Translation (R371 to R378) -/

/-- A translation in a TLB (R378): vpage is the page's first virtual address, size its bytes. -/
structure Tlb where
  asid : Nat
  vpage : Nat
  size : Nat
  pte : Nat
  deriving DecidableEq, Repr

/-- A walk-cache entry (R376): a non-leaf entry of a level, tagged by the virtual bits above what it maps. -/
structure WalkEnt where
  asid : Nat
  level : Nat
  vbits : Nat
  pte : Nat
  deriving DecidableEq, Repr

/-- A party that waits for the host to translate a page of a context for it, or whose page the host has answered with none
(R377): the die, the context, the 64 KiB page's address, the core, and the strand (none for an engine). -/
structure XAsk where
  die : Nat
  asid : Nat
  page : Nat
  core : Nat
  sid : Option Nat
  deriving DecidableEq, Repr

/-- The operands of an invalidation (R384): kind 0 the pages of a context in a range, 1 those of a context, 2 all. -/
structure Inval where
  kind : Nat
  asid : Nat
  lo : Nat
  len : Nat
  deriving DecidableEq, Repr

/-- An invalidation of a range that asks the host for the current leaves of its pages (R377, R384): the strand that makes it (none
for the host), its operands, the address to be asked for next, and the leaves that have come. -/
structure InvalRun where
  sid : Option Nat
  op : Inval
  next : Nat
  leaves : List Tlb
  deriving DecidableEq, Repr

/-- The translation structures, most recently used first: cluster TLBs by die * 12 + cluster, die TLBs, walk caches,
the parties that wait for the host, and those that it has answered with none (R377), each with the span of 64 cycles in which the
answer came: it is for the miss that asked, and answers nothing once that span and the next have passed; and the invalidations
that ask the host. -/
structure Xlate where
  cluster : KV (List Tlb)
  dieTlb : KV (List Tlb)
  walk : KV (List WalkEnt)
  requests : List XAsk
  nones : List (XAsk × Nat)
  runs : List InvalRun
  deriving DecidableEq, Repr

/-! ## Expert path, fabric and package -/

/-- Work that reaches a dispatch engine (R334): a record (R340), the step of an XDISP.STEP with the capacity that it sets (R339),
instants of a layer, so many in a row (R338), or the window of an expert's open batch that has run out (R338). -/
inductive DWork where
  | record (r : DWord)
  | step (capacity : Nat)
  | instants (n : Nat)
  | window (expert : Nat)
  deriving DecidableEq, Repr

/-- A place in a dispatch engine's queue (R334): the core that its takes are charged to, the command that carries it (none for
what time brings), its context and region, its LCB, and how far it has come: the part of a step or an instant, and the stage
of the record in hand (0 to take its capacity, 1 to be placed, 2 its batch to be closed if full). -/
structure DRec where
  core : Nat
  ident : Option Nat
  asid : Nat
  rid : Nat
  lcb : Nat
  work : DWork
  part : Nat
  stage : Nat
  deriving DecidableEq, Repr

/-- A layer known to the engines (R334): its die and region, its context, the core of its first XDISP, its LCB by virtual and
physical address, the block as the latest command read it, and for each engine the last instant that has reached it. -/
structure Layer where
  die : Nat
  rid : Nat
  asid : Nat
  core : Nat
  lcb : Nat
  pa : Nat
  block : BitVec 1024
  inst0 : Nat
  inst1 : Nat
  deriving DecidableEq, Repr

/-- Product work waiting to enter a bin (R341). -/
structure Product where
  die : Nat
  core : Nat
  key : BinKey
  args : List Word
  lcb : Nat
  expert : Nat
  retryAt : Nat
  deriving DecidableEq, Repr

/-- The expert path: work queued by engine (die * 2 + engine), layers by physical LCB address, product work, and for each late
record (LCB * 2^15 + expert * 2^6 + slot) the core that issued the XDISP carrying it (R340) with the strand and its place in
program order, and what peers have answered to the unit of work that an engine is about, by the asker (R438). -/
structure Experts where
  queues : KV (List DRec)
  late : KV (Nat × Nat × Nat)
  layers : List Layer
  products : List Product
  remote : KV (List (Option (List Byte)))
  deriving DecidableEq, Repr

/-- A Lenoth port (R437, R445): next sequence to send and to receive, replay buffer, the times in ns of the NAKs sent since the
last progress, latest first, and its PTP state (0 listening, 1 master, 2 slave, 3 passive), its measured link delay in ns,
when it last asked for the delay, the data set of the best master it has heard of, and the peer it has last heard. -/
structure Port where
  txSeq : Nat
  rxSeq : Nat
  replay : List Flit
  naks : List Nat
  ptp : Nat
  ptpDelay : Nat
  ptpAsked : Option Nat
  ptpBest : Option Nat
  heard : Nat
  deriving DecidableEq, Repr

/-- A port at reset (log 3). -/
def Port.empty : Port := ⟨0, 0, [], [], 0, 0, none, none, 0⟩

/-- An access to a peer window that awaits its completion (R438): the strand, log slot and thread it serves, or with
slot 8 + c the engine command or matrix entry sid of core c, or with slot 200 + k a dispatch engine; and the bytes of its answer. -/
structure PeerReq where
  ident : Nat
  sid : Nat
  slot : Nat
  thread : Nat
  write : Bool
  size : Nat
  deriving DecidableEq, Repr

/-- A flit that waits for room in the replay buffer of its port (R437). -/
structure OutFlit where
  port : Nat
  kind : Nat
  peer : Nat
  gen : Nat
  addr : Nat
  payload : List Byte
  deriving DecidableEq, Repr

/-- Contributions to a line of a multicast-reduce window (R440): by member rank, the bytes contributed, and whether the line is
complete, its delivery on the way, so that it takes no more. -/
structure McrLine where
  group : Nat
  window : Nat
  line : Nat
  parts : List (Nat × List (Nat × Byte))
  full : Bool
  deriving DecidableEq, Repr

/-- The Lenoth side: ports, flits sent, peer accesses, contributions, the earliest time of each group's next rebuild and the
rebuilds, of a group for a failed rank, that wait (R443), and the flits that wait to be sent. -/
structure Fabric where
  ports : KV Port
  sent : List Flit
  peers : List PeerReq
  nextReq : Nat
  lines : List McrLine
  rebuildAt : KV Nat
  rebuilds : List (Nat × Nat)
  outbox : List OutFlit
  deriving DecidableEq, Repr

/-- A copy of the lifetime record (R459): its sequence number and its words. -/
structure LifeRec where
  seq : Nat
  words : KV DWord
  deriving DecidableEq, Repr

/-- A logged action of a die's Uzoip (R456): a write of a privileged register, the top-up of its die's power counter to a target,
an operation on a system counter, a store, an access that is discarded. -/
inductive FwAct where
  | csr (n x : Nat)
  | topup (target : Nat)
  | counter (pa ident : Nat) (op : CtrOp)
  | store (pa x : Nat)
  | discarded (pa x : Nat)
  deriving DecidableEq, Repr

/-- The package: plain privileged registers by CSR number, HBM error state, epochs, clock state, limits, the weight
store of each die, lifetime records, attestation and the vectors sent; uzoipWait holds, by die, Uzoip's logged actions that wait for
room in the firmware action log (R456), slew the correction of device time that is still to be made, in 1/47 ns, and adjFrac
the part of a 1/47 ns that its rate has earned, in parts of 10^9 (R446); recordWait holds records to be written (core,
context, area, bytes, vector; R365, R435). rowErr holds the times in ns of the corrected errors of each HBM row within the last hour,
softRows the rows remapped since reset and hardRows those that a reset has repaired (R421); image is the firmware image that runs, none
that of the part (log 9), and nextImage one that the host has written for the next reset (R457); answer is what the last read of the
management window has answered and bar4 the bytes of BAR 4 (R433; log 53). -/
structure Pkg where
  regs : KV DWord
  hbmErr : KV DWord
  epoch : Nat
  flips : Nat
  flipCycle : Nat
  flipping : Bool
  dtsetUsed : Bool
  launched : Bool
  overCurrent : Bool
  overTemp : Bool
  ctxKill : Option Nat
  wstore : KV Byte
  wstoreBad : List Nat
  window : KV Nat
  lifeA : LifeRec
  lifeB : LifeRec
  lifeNow : KV DWord
  lifeHour : Nat
  topupAt : Nat
  report : KV Byte
  atBusy : Bool
  retired : List (Nat × Nat)
  halted : Bool
  uzoipOff : Bool
  rowErr : KV (List Nat)
  softRows : List Nat
  hardRows : List Nat
  image : Option (List Byte)
  nextImage : Option (List Byte)
  lastSheet : Nat
  sheetNext : Nat
  vectors : List Nat
  uzoipWait : List (Nat × FwAct)
  slew : Int
  adjFrac : Int
  recordWait : List (Nat × Nat × Nat × List Byte × Nat)
  answer : Nat
  bar4 : KV Byte
  deriving DecidableEq, Repr

/-- Where an uncorrectable error strikes (R422, R448): a register of a strand, a scratchpad word or accumulator element of a
cohort, a B-slice word, a weight-store word, an LLC tag copy, a half-line of HBM or of the LLC, a half of a line in a core's
caches, a line of its instruction cache, a row or a column checksum (R304); or an error in the structure of a word of the lifetime
record that was corrected and only counts. -/
inductive Upset where
  | reg (sid reg : Nat)
  | spad (cid word : Nat)
  | acc (cid elem : Nat)
  | bslice (core word : Nat)
  | wstore (word : Nat)
  | tag (key : Nat) (second : Bool)
  | hbm (half : Nat)
  | llc (half : Nat)
  | cache (core half : Nat)
  | icache (core line : Nat)
  | rowck (cid row : Nat)
  | colck (core col : Nat)
  | corrected (structure_ : Nat)
  deriving DecidableEq, Repr

/-- One move of the schedule (log 2): a strand issues, an event of the machine takes place, cycles pass with nothing
issued, a soft error strikes, a core cache (as Copy numbers them, 6 the instruction cache) evicts a line (log 18), a
strand's weak loads go from now on to the LLC or to its core's copies (R182), a walker fetches a line ahead for a cursor of a
strand (R220), the host, or the Uzoip firmware of a die, acts on a counter (R264), a core makes one more access of a log entry that
is under way, or an engine one more step of a command (R189, R332), the host writes a new firmware image (R457) or a byte of BAR 4 (R433). -/
inductive Move where
  | issue (sid : Nat)
  | event (i : Instr)
  | elapse (cycles : Nat)
  | upset (u : Upset)
  | evict (core cache vline : Nat)
  | around (sid : Nat) (on : Bool)
  | walkAhead (sid key k : Nat)
  | counter (die : Option Nat) (pa : Nat) (op : CtrOp)
  | access (sid slot : Nat)
  | copyStep (core ident : Nat)
  | image (bytes : List Byte)
  | bar4 (off : Nat) (x : Byte)
  deriving DecidableEq, Repr

/-- Work that met something it must wait for: an answer of fault triage or heap growth, a command of a context's page in the
launch window, the destruction of a context, a TLB invalidation or a write by the host, a power top-up, an act of the host or of firmware on a counter, a flit of a peer. -/
inductive Later where
  | repair (who : FaultOf) (writes : List (Nat × DWord))
  | growth (sid slot blocks : Nat) (writes : List (Nat × DWord))
  | counter (pa ident : Nat) (op : CtrOp)
  | window (page cmd rcb : Nat)
  | ctxkill (asid : Nat)
  | tlbinv (sel asid base len : Nat)
  | hostWrite (addr : Nat) (bytes : List Byte)
  | hostRead (addr len : Nat)
  | reply (line : Nat) (bytes : List (Nat × Byte))
  | topup (die target : Nat)
  | flit (f : Flit)
  deriving DecidableEq, Repr

/-- The machine. mem holds for every byte the value it has at its home (R181). time counts device time in 1/47 ns, so
that a cycle is 50 of them (log 1). agenda names the moves chosen next and pending the events that earlier steps made
possible (log 2), and parked those that wait for room or for something to finish; retried is the number of 64-cycle spans at
whose start the machine looked again at everything that waits,
and served the number of 8-cycle spans at whose start it let what earlier steps made possible happen, turned holds the quadrants that have
issued in this cycle (log 2); cur is the strand that issues; free counts the free values used (log 12). -/
structure State where
  mem : Memory
  strands : KV (Option Strand)
  cohorts : KV (Option Cohort)
  cores : KV Core
  regions : KV (Option Region)
  homes : Homes
  xlate : Xlate
  experts : Experts
  fabric : Fabric
  pkg : Pkg
  time : Nat
  cycle : Nat
  seq : Nat
  ids : Nat
  cur : Nat
  free : Nat
  agenda : List Move
  retried : Nat
  served : Nat
  turned : List Nat
  pending : List Instr
  parked : List Later
  deriving DecidableEq, Repr

/-- Memory homes at reset: nothing resident, nothing held. -/
def Homes.empty : Homes := ⟨[], [], [], [], [], [], [], [], [], [], [], [], [], [], [], [], [], [], [], [], []⟩

/-- The privileged registers whose reset value is not 0: PTPCTL with SPORT 15, PRIO2 128, PRIO1 128 (R446), PWRCTL with
BUDGET 1,600 and VSET with 400 (R452), LEASELEN 256 (R414), CSHHEAD all ones (R460). -/
def resetRegs : KV DWord :=
  [(0x969, 256#64), (0x9B0, 0xF808000#64), (0xA00, 1600#64), (0xA02, 400#64), (0xA38, 0xFFFFFFFF#64)]

/-- The package at reset. -/
def Pkg.atReset : Pkg :=
  { regs := resetRegs, hbmErr := [], epoch := 0, flips := 0, flipCycle := 0, flipping := false, dtsetUsed := false, launched := false,
    overCurrent := false, overTemp := false, ctxKill := none, wstore := [], wstoreBad := [],
    window := [], lifeA := ⟨0, []⟩, lifeB := ⟨0, []⟩, lifeNow := [], lifeHour := 0, topupAt := 0, report := [], atBusy := false, retired := [],
    halted := false, uzoipOff := false, rowErr := [], softRows := [], hardRows := [], image := none, nextImage := none, lastSheet := 0, sheetNext := 0, vectors := [], uzoipWait := [], slew := 0, adjFrac := 0, recordWait := [],
    answer := 0, bar4 := [] }

/-- The machine right after device reset: device time 0 (R445), the weight store zeroed (R424), nothing resident,
nothing launched, every register at the value the manual gives or log 3 names. -/
def State.reset : State :=
  { mem := [], strands := [], cohorts := [], cores := [], regions := [], homes := Homes.empty,
    xlate := ⟨[], [], [], [], [], []⟩, experts := ⟨[], [], [], [], []⟩, fabric := ⟨[], [], [], 0, [], [], [], []⟩, pkg := Pkg.atReset,
    time := 0, cycle := 0, seq := 0, ids := 1, cur := 0, free := 0, agenda := [], retried := 0, served := 0, turned := [], pending := [], parked := [] }

end Sys2Proof.Machine
end

