-- ==== Sys2Proof/Machine/Base.lean ====
section
/-! DEFINITION. Named accessors of the state: strands, cohorts, cores, regions, registers with their full/empty bits,
device time, privileged registers, events that a step makes possible. -/

namespace Sys2Proof.Machine

/-- What exec and step answer. -/
abbrev Res := Host.Outcome State Fault Refusal

/-! ## Parts of the state -/

/-- A strand that never was: ended, every register 0. -/
def Strand.empty : Strand :=
  { life := .ended, rid := 0, cid := 0, spawned := false, cidx := 0, core := 0, quad := 0, slot := 0, spill := 0,
    allot := 16, pc := 0, amask := 0, vregs := [], sregs := [], preds := [], curs := [], jidx := [], empties := [],
    emptyPreds := [], frm := 0, fstat := 0, llcslsel := 0, llcprba := 0, loops := [], divs := [], hmode := false,
    trapDepth := 0, frameLog := none, hostHeld := false, waiting := .nothing, waitSince := 0, trap := none, afters := [],
    log := [], fills := [], barRec := none, joins := [], openApps := [], leases := [], guards := [], readySince := none, stallUntil := 0, stayed := [], around := false,
    bad := [] }

/-- A cohort that never was. -/
def Cohort.empty : Cohort :=
  { alive := false, rid := 0, spawned := false, tile := 0, core := 0, strands := [], age := 0, bytes := 0, swz := false,
    spad := [], owners := [], rows := 0, acc := [], accBad := [], spadBad := [], rowck := [], rowckBad := [], topk := [], topkLost := [], topkSaved := false }

/-- An RCB with every field 0. -/
def Rcb.empty : Rcb :=
  { salt := 0, allot := 0, nstr := 0, swz := false, ww := false, dbg := false, die := 0, both := false, prio := 0,
    entry := 0, datab := 0, gx := 0, gy := 0, gz := 0, rows := 0, tiles := 0, ltbase := 0, ltlen := 0, handler := 0,
    dmask := 0, fdom := 0, fdbase := 0, cvrec := 0, shut := 0, spint := 0, age := 0, rowb := 0, tileb := 0, slotb := 0,
    heapb := 0, leaveb := 0, atsb := 0, spill := 0, savea := 0, wsg := 0, bars := [] }

/-- A region that never was: idle (R350). -/
def Region.empty : Region :=
  { asid := 0, rcbVa := 0, rcb := Rcb.empty, cvrecPa := 0, parent := none, pool := 0, owner := false,
    state := 0, nextt := 0, cdone := 0, heapused := 0, qtime := 0, etime := 0, queue := none, queueSeq := 0, waitSince := 0,
    aged := false, shutAt := none, sheets := 0, sheeting := false, drainAt := none, leaveHeld := 0, ending := none }

def State.strand (s : State) (sid : Nat) : Strand := (kvGet none s.strands sid).getD Strand.empty
def State.setStrand (s : State) (sid : Nat) (st : Strand) : State :=
  { s with strands := kvSet none s.strands sid (some st) }
def State.modStrand (s : State) (sid : Nat) (f : Strand → Strand) : State := s.setStrand sid (f (s.strand sid))
def State.cohort (s : State) (cid : Nat) : Cohort := (kvGet none s.cohorts cid).getD Cohort.empty
def State.setCohort (s : State) (cid : Nat) (c : Cohort) : State :=
  { s with cohorts := kvSet none s.cohorts cid (some c) }
def State.region (s : State) (rid : Nat) : Region := (kvGet none s.regions rid).getD Region.empty
def State.setRegion (s : State) (rid : Nat) (r : Region) : State :=
  { s with regions := kvSet none s.regions rid (some r) }

/-- A core: one that nothing has used has taken every tick of its logical time since the last flip (R408). -/
def State.core (s : State) (c : Nat) : Core :=
  match kvFind s.cores c with
  | some x => x
  | none =>
    let n := (s.cycle - s.pkg.flipCycle) / 16
    { Core.empty with lt := n, tickAt := s.pkg.flipCycle + 16 * n }
def State.setCore (s : State) (c : Nat) (x : Core) : State := { s with cores := kvPut s.cores c x }
def State.modCore (s : State) (c : Nat) (f : Core → Core) : State := s.setCore c (f (s.core c))

/-- The strands, in order of their numbers. -/
def State.allStrands (s : State) : List (Nat × Strand) :=
  s.strands.filterMap (fun p => p.2.map (fun st => (p.1, st)))
def State.allCohorts (s : State) : List (Nat × Cohort) :=
  s.cohorts.filterMap (fun p => p.2.map (fun c => (p.1, c)))
def State.allRegions (s : State) : List (Nat × Region) :=
  s.regions.filterMap (fun p => p.2.map (fun r => (p.1, r)))

/-- The die of a core (a core's key is die * 96 + core). -/
def dieOf (core : Nat) : Nat := core / 96
/-- The cluster of a core, as die * 12 + cluster (R136). -/
def clusterOf (core : Nat) : Nat := core / 8

/-- The region of a strand, and its context. -/
def State.regionOf (s : State) (st : Strand) : Region := s.region st.rid
def State.asidOf (s : State) (st : Strand) : Nat := (s.regionOf st).asid
/-- A system region is one whose effective PRIO is 7 (R352). -/
def Region.isSystem (r : Region) : Bool := r.rcb.prio == 7
def State.isSystem (s : State) (st : Strand) : Bool := (s.regionOf st).isSystem

/-! ## Events, vectors, free values, numbers -/

/-- Note an event that this step makes possible. -/
def State.push (s : State) (i : Instr) : State :=
  if s.pending.contains i then s else { s with pending := s.pending ++ [i] }

/-- Note work that must wait for something else first. -/
def State.park (s : State) (i : Later) : State := { s with parked := s.parked ++ [i] }

/-- Send an MSI-X vector (R435). -/
def State.vector (s : State) (v : Nat) : State := { s with pkg := { s.pkg with vectors := s.pkg.vectors ++ [v] } }

/-- The next free value (log 12). -/
def State.freeVal (s : State) : Nat × State := ((Config.freeValue s.free).toNat, { s with free := s.free + 1 })

/-- The next place in program order. -/
def State.nextSeq (s : State) : Nat × State := (s.seq, { s with seq := s.seq + 1 })

/-- A number for an engine command, a matrix entry or a request. -/
def State.nextId (s : State) : Nat × State := (s.ids, { s with ids := s.ids + 1 })

/-! ## Device time (R35, R445): time counts 1/47 ns, and a cycle is 50 of them (log 1) -/

def State.ns (s : State) : Nat := s.time / 47
def State.nsFrac (s : State) : Nat := s.time % 47 * 65536 / 47

/-! ## Privileged registers kept by number -/

def State.reg (s : State) (n : Nat) : Nat := (kvGet 0#64 s.pkg.regs n).toNat
def State.setReg (s : State) (n v : Nat) : State :=
  { s with pkg := { s.pkg with regs := kvSet 0#64 s.pkg.regs n (BitVec.ofNat 64 v) } }

/-- MODESEL bit b: the host assists the function (R454). -/
def State.hostMode (s : State) (b : Nat) : Bool := bit (s.reg 0xA10) b

/-- Add to word i of the lifetime record's counts (R459). -/
def State.lifeAdd (s : State) (i n : Nat) : State :=
  { s with pkg := { s.pkg with
      lifeNow := kvSet 0#64 s.pkg.lifeNow i (BitVec.ofNat 64 ((kvGet 0#64 s.pkg.lifeNow i).toNat + n)) } }

/-! ## Registers of a strand (R16 to R20). Writes to s0 and p7 are discarded. A write makes a struck word good (R448). -/

def Strand.v (st : Strand) (n t : Nat) : Nat := (kvGet 0#32 st.vregs (n * 64 + t)).toNat
def Strand.s (st : Strand) (n : Nat) : Nat := if n = 0 then 0 else (kvGet 0#64 st.sregs n).toNat
def Strand.p (st : Strand) (n : Nat) : Nat := if n = 7 then 2 ^ 64 - 1 else (kvGet 0#64 st.preds n).toNat
def Strand.j (st : Strand) (n : Nat) : Nat := if n = 0 then 0 else (kvGet 0#16 st.jidx n).toNat
/-- A cursor by register number k * 64 + thread, or 512 + q. -/
def Strand.cur (st : Strand) (key : Nat) : Cursor := kvGet Cursor.zero st.curs key

def Strand.setV (st : Strand) (n t x : Nat) : Strand :=
  { st with vregs := kvSet 0#32 st.vregs (n * 64 + t) (BitVec.ofNat 32 x), bad := st.bad.filter (· != n * 64 + t) }
def Strand.setS (st : Strand) (n x : Nat) : Strand :=
  if n = 0 then st
  else { st with sregs := kvSet 0#64 st.sregs n (BitVec.ofNat 64 x),
                 bad := st.bad.filter (fun w => w != 8192 + 2 * n && w != 8193 + 2 * n) }
def Strand.setP (st : Strand) (n x : Nat) : Strand :=
  if n = 7 then st else { st with preds := kvSet 0#64 st.preds n (BitVec.ofNat 64 x) }
def Strand.setPBit (st : Strand) (n t : Nat) (b : Bool) : Strand :=
  let x := st.p n
  st.setP n (setBits x t t (b2n b))
def Strand.setCur (st : Strand) (key : Nat) (c : Cursor) : Strand :=
  { st with curs := kvSet Cursor.zero st.curs key c }

/-- The active threads, ascending (R21). -/
def Strand.active (st : Strand) : List Nat := threadsOf st.amask.toNat
/-- The lowest-numbered active thread; 0 when none is. -/
def Strand.lowest (st : Strand) : Nat := st.active.headD 0

/-! ## Full/empty bits (R28): v n is n, s n is 128 + n, k n is 192 + n, q n is 200 + n -/

def keyV (n : Nat) : Nat := n
def keyS (n : Nat) : Nat := 128 + n
def keyK (n : Nat) : Nat := 192 + n
def keyQ (n : Nat) : Nat := 200 + n

/-- s0 is always full (R20). -/
def Strand.isEmpty (st : Strand) (k : Nat) : Bool := st.empties.contains k
def Strand.markEmpty (st : Strand) (k : Nat) : Strand :=
  if k = 128 ∨ st.empties.contains k then st else { st with empties := k :: st.empties }
def Strand.markFull (st : Strand) (k : Nat) : Strand := { st with empties := st.empties.filter (· != k) }
def Strand.emptyAll (st : Strand) (ks : List Nat) : Strand := forEach ks st Strand.markEmpty
def Strand.fullAll (st : Strand) (ks : List Nat) : Strand := forEach ks st Strand.markFull

/-- Write a value of n bytes into a vector register of a thread: a pair when it is 8 bytes wide (R19). -/
def Strand.setVal (st : Strand) (n t : Nat) (wide : Bool) (x : Nat) : Strand :=
  if wide then (st.setV n t (x % 2 ^ 32)).setV (n + 1) t (x / 2 ^ 32 % 2 ^ 32) else st.setV n t (x % 2 ^ 32)
def Strand.val (st : Strand) (n t : Nat) (wide : Bool) : Nat :=
  if wide then st.v n t + 2 ^ 32 * st.v (n + 1) t else st.v n t

/-- The PC after an instruction of n bytes. -/
def Strand.advance (st : Strand) (n : Nat) : Strand := { st with pc := st.pc + BitVec.ofNat 56 n }

/-- The strand's STRANDID (R38). -/
def Strand.strandId (st : Strand) : Nat :=
  b2n st.spawned * 2 ^ 18 + st.cidx % 16 * 2 ^ 14 + dieOf st.core % 2 * 2 ^ 13 + st.core % 96 * 2 ^ 6
    + st.quad % 4 * 2 ^ 4 + st.slot % 16

/-- DEPTHS (R38). -/
def Strand.depths (st : Strand) : Nat := st.divs.length * 2 ^ 8 + st.loops.length

/-- The strand issues nothing on its own: ended, swapped out, waiting or held by the host. -/
def Strand.runnable (st : Strand) : Bool :=
  st.life == .resident && st.waiting == .nothing && !st.hostHeld && st.trap.isNone

end Sys2Proof.Machine
end

