-- ==== Sys2Proof/Machine/Codec.lean ====
section
/-! DEFINITION. The line codec of the last-level cache and of packed buffers (R394 to R397). -/

namespace Sys2Proof.Machine

/-- The n words of x bytes of a line (R394). -/
def lineWords (x n : Nat) (line : List Byte) : List Nat :=
  match n with
  | 0 => []
  | n + 1 => ofLe (line.take x) :: lineWords x n (line.drop x)

/-- v fits y bytes as an m-bit two's complement number (R394). -/
def fitsBytes (m y v : Nat) : Bool :=
  let i := sInt m v
  decide (-(2 ^ (8 * y - 1) : Nat) ≤ i) && decide (i < (2 ^ (8 * y - 1) : Nat))

/-- The base of a BxDy image: the first word that does not fit, else 0 (R396). -/
def codecBase (m y : Nat) (ws : List Nat) : Nat := ((ws.filter (fun w => !fitsBytes m y w)).headD 0)

/-- The mask bits and deltas of a BxDy image, or none when a word fits from neither zero nor the base (R396). -/
def codecDeltas (m y base : Nat) (ws : List Nat) : Option (List (Bool × Nat)) :=
  match ws with
  | [] => some []
  | w :: t =>
    match codecDeltas m y base t with
    | none => none
    | some l =>
      let d := (w + 2 ^ m - base) % 2 ^ m
      if fitsBytes m y w then some ((false, w) :: l) else if fitsBytes m y d then some ((true, d) :: l) else none

/-- Bits as a number, the first least significant. -/
def bitsLe (l : List Bool) : Nat := match l with | [] => 0 | b :: t => b2n b + 2 * bitsLe t

/-- The image of BxDy, or none when it is not valid. -/
def encBxDy (x y : Nat) (line : List Byte) : Option (List Byte) :=
  let n := 128 / x
  let ws := lineWords x n line
  let base := codecBase (8 * x) y ws
  match codecDeltas (8 * x) y base ws with
  | none => none
  | some l => some (leBytes x base ++ leBytes (n / 8) (bitsLe (l.map Prod.fst))
      ++ (l.map (fun p => leBytes y p.2)).flatten)

/-- The image of ZRUN, or none when more than 23 words are nonzero. -/
def encZrun (line : List Byte) : Option (List Byte) :=
  let ws := lineWords 4 32 line
  let nz := ws.filter (· != 0)
  if 23 < nz.length then none
  else some (leBytes 4 (bitsLe (ws.map (· != 0))) ++ (nz.map (leBytes 4)).flatten)

/-- An encoded line: encoding code, image, sectors. -/
structure Encoded where
  enc : Nat
  image : List Byte
  sectors : Nat
  deriving DecidableEq, Repr

/-- Sectors that an image of n bytes takes. -/
def sectorsFor (n : Nat) : Nat := (n + 31) / 32

/-- The first valid candidate of the fewest sectors, given best so far. -/
def pickEnc (best : Encoded) (l : List (Nat × Option (List Byte))) : Encoded :=
  match l with
  | [] => best
  | (code, some img) :: t =>
    let k := sectorsFor img.length
    pickEnc (if k < best.sectors then ⟨code, img, k⟩ else best) t
  | (_, none) :: t => pickEnc best t

/-- The encoding that the compressor chooses (R397): fewest sectors, then ZERO, REP8, B8D1, ZRUN, B4D1, B8D2, B2D1,
B4D2, B8D4, RAW. -/
def encodeLine (line : List Byte) : Encoded :=
  let ws := lineWords 8 16 line
  if line.all (· == 0) then ⟨1, [], 0⟩
  else if ws.all (· == ws.headD 0) then ⟨2, [], 0⟩
  else
    let best := pickEnc ⟨0, line, 5⟩
      [(3, encBxDy 8 1 line), (9, encZrun line), (6, encBxDy 4 1 line), (4, encBxDy 8 2 line), (8, encBxDy 2 1 line),
       (7, encBxDy 4 2 line), (5, encBxDy 8 4 line)]
    if best.sectors = 5 then ⟨0, line, 4⟩ else best

/-- The words of a BxDy image (R396): for every base, mask and delta bytes. -/
def decBxDy (x y : Nat) (img : List Byte) : List Byte :=
  let n := 128 / x
  let base := ofLe (img.take x)
  let mask := ofLe ((img.drop x).take (n / 8))
  let ds := img.drop (x + n / 8)
  ((nats n).map (fun i =>
    let d := sInt (8 * y) (ofLe ((ds.drop (y * i)).take y))
    leBytes x (wrapN (8 * x) ((if bit mask i then (base : Int) else 0) + d)))).flatten

/-- The words of a ZRUN image: a mask bit of 0 gives 0, of 1 the next packed word. -/
def decZrun (i n mask : Nat) (packed : List Byte) : List Byte :=
  match n with
  | 0 => []
  | n + 1 =>
    if bit mask i then leBytes 4 (ofLe (packed.take 4)) ++ decZrun (i + 1) n mask (packed.drop 4)
    else leBytes 4 0 ++ decZrun (i + 1) n mask packed

/-- Decode an image; rep is the value of a REP8 line. Codes 10 to 15 have no line. -/
def decodeLine (enc rep : Nat) (img : List Byte) : Option (List Byte) :=
  match enc with
  | 0 => some (leBytes 128 (ofLe (img.take 128)))
  | 1 => some (leBytes 128 0)
  | 2 => some ((List.replicate 16 (leBytes 8 rep)).flatten)
  | 3 => some (decBxDy 8 1 img)
  | 4 => some (decBxDy 8 2 img)
  | 5 => some (decBxDy 8 4 img)
  | 6 => some (decBxDy 4 1 img)
  | 7 => some (decBxDy 4 2 img)
  | 8 => some (decBxDy 2 1 img)
  | 9 => some (decZrun 0 32 (ofLe (img.take 4)) (img.drop 4))
  | _ => none

end Sys2Proof.Machine
end

