-- ==== Sys2Proof/Machine/Home.lean ====
section
/-! DEFINITION. Memory homes: the physical address space (R374), the last-level cache with its tags, encodings,
evictions and counters (R391 to R403, R449), logical time (R408 to R415), leases (R417), monitors (R168), the negative
(R461), the host's snoop filter (R418), and the one operation that performs a write at its home (R181, R411). -/

namespace Sys2Proof.Machine

/-! ## Physical addresses (R374) -/

/-- Package HBM: 256 GiB on each die. -/
def isHbm (pa : Nat) : Bool := decide (pa < 2 ^ 39)
/-- A fabric window (R438). -/
def isWindow (pa : Nat) : Bool := decide (2 ^ 50 ≤ pa) && decide (pa < 2 ^ 51)
/-- Host memory (R433). -/
def isHostMem (pa : Nat) : Bool := decide (2 ^ 51 ≤ pa) && decide (pa < 2 ^ 52)

/-- The byte that an address holds at its home (R181). -/
def State.byteAt (s : State) (pa : Nat) : Byte := kvGet Memory.unlisted s.mem pa
/-- The n bytes from an address. -/
def State.bytesAt (s : State) (pa n : Nat) : List Byte := (nats n).map (fun i => s.byteAt (pa + i))
/-- The little-endian number in the n bytes from an address. -/
def State.numAt (s : State) (pa n : Nat) : Nat := ofLe (s.bytesAt pa n)
/-- Put bytes at addresses, with nothing else changed. -/
def Memory.put (m : Memory) (ws : List (Nat × Byte)) : Memory :=
  forEach ws m (fun m w => kvSet Memory.unlisted m w.1 w.2)
/-- Put a block of bytes at an address: the pairs before it, its own, those after it. -/
def Memory.splice (m : Memory) (pa : Nat) (bs : List Byte) (cells : List (Nat × Byte)) : Memory :=
  m.filter (fun c => decide (c.1 < pa)) ++ cells.filter (fun c => c.2 != Memory.unlisted)
    ++ m.filter (fun c => decide (pa + bs.length ≤ c.1))
/-- The addresses and bytes of a block. -/
def cellsOf (pa : Nat) (bs : List Byte) : List (Nat × Byte) :=
  match bs with
  | [] => []
  | b :: t => (pa, b) :: cellsOf (pa + 1) t
/-- The 128 bytes of a line. -/
def State.lineBytes (s : State) (line : Nat) : List Byte := s.bytesAt (line * 128) 128

/-! ## Slices, sets and tags (R391 to R393) -/

/-- The home slice of a line, as die * 48 + slice (R391). -/
def sliceOf (line : Nat) : Nat :=
  let h := (line % 2 ^ 16) ^^^ (line / 2 ^ 16 % 2 ^ 16) ^^^ (line / 2 ^ 32 % 2 ^ 13)
  line / 2 ^ 31 % 2 * 48 + h % 48

/-- The key of way 0 of a line's set. -/
def setKey (line : Nat) : Nat := (sliceOf line * 4096 + line % 4096) * 16

/-- The tag of a way; one whose EPOCH is not the current one counts as holding no line (R393). -/
def State.tag (s : State) (key : Nat) : Option Tag :=
  (kvGet none s.homes.tags key).filter (fun t => t.epoch == s.pkg.epoch)
def State.setTag (s : State) (key : Nat) (t : Option Tag) : State :=
  { s with homes := { s.homes with tags := kvSet none s.homes.tags key t } }

/-- The ways of a line's set that hold a line. -/
def State.setTags (s : State) (line : Nat) : List (Nat × Tag) :=
  (nats 16).filterMap (fun w => (s.tag (setKey line + w)).map (fun t => (setKey line + w, t)))

/-- The tag of a resident line. -/
def State.findTag (s : State) (line : Nat) : Option (Nat × Tag) :=
  (s.setTags line).find? (fun p => p.2.line == line)

/-- Sectors that a tag commits (R392): 4 for a pinned line. -/
def Tag.commits (t : Tag) : Nat := if t.pin.isSome then 4 else t.scnt
/-- Committed sectors of a line's set, apart from one way. -/
def State.committed (s : State) (line skip : Nat) : Nat :=
  (s.setTags line).foldl (fun n p => if p.1 = skip then n else n + p.2.commits) 0

/-- The lowest n sector slots of a set that no other way uses (R393). -/
def State.slots (s : State) (line skip n : Nat) : List Nat :=
  let used := ((s.setTags line).filter (fun p => p.1 != skip)).flatMap (fun p => p.2.smap)
  ((nats 32).filter (fun i => !used.contains i)).take n

/-- Make a way most recently used: rank 0, and every way that was more recent one rank older. -/
def State.touch (s : State) (line key : Nat) : State :=
  let old := match s.tag key with | some t => t.rank | none => 16
  forEach (s.setTags line) s (fun s p =>
    if p.1 = key then s.setTag key (some { p.2 with rank := 0 })
    else if p.2.rank < old then s.setTag p.1 (some { p.2 with rank := p.2.rank + 1 }) else s)

/-- The LLC's copy of a line is written to HBM, or goes clean: halves that HBM could not correct beneath it are good again, or are then
read poisoned (R422). -/
def State.hbmSettle (s : State) (line : Nat) (written : Bool) : State :=
  let mine (h : Nat) : Bool := h / 2 == line
  match s.homes.hbmBad.filter mine with
  | [] => s
  | bad => { s with homes := { s.homes with
      hbmBad := s.homes.hbmBad.filter (fun h => !mine h),
      poison := if written then s.homes.poison else bad.filter (fun h => !s.homes.poison.contains h) ++ s.homes.poison } }

/-- Remove a way's line: HBM then holds its decoded bytes (R401). -/
def State.dropTag (s : State) (line key : Nat) : State :=
  match s.tag key with
  | none => s
  | some t =>
    let s := s.hbmSettle t.line t.dirty
    forEach (s.setTags line) (s.setTag key none) (fun s p =>
      if p.1 = key then s else if t.rank < p.2.rank then s.setTag p.1 (some { p.2 with rank := p.2.rank - 1 }) else s)

/-- The least recently used unpinned way other than one. -/
def State.victim (s : State) (line skip : Nat) : Option Nat :=
  ((s.setTags line).foldl (fun (b : Option (Nat × Nat)) p =>
    if p.1 = skip ∨ p.2.pin.isSome then b
    else match b with
      | none => some (p.1, p.2.rank)
      | some (_, r) => if r < p.2.rank then some (p.1, p.2.rank) else b) none).map Prod.fst

/-- Evict least recently used unpinned ways, at most fuel, until need sectors are free beside the way skip; with the
number evicted. -/
def State.makeRoom (s : State) (line skip need fuel n : Nat) : State × Nat :=
  match fuel with
  | 0 => (s, n)
  | fuel + 1 =>
    if s.committed line skip + need ≤ 32 then (s, n)
    else match s.victim line skip with
      | none => (s, n)
      | some k => (s.dropTag line k).makeRoom line skip need fuel (n + 1)

/-- Add to a counter of a line's slice: 0 FILLS, 1 EXPAND, 2 EXPEV; each stops at 2^64 - 1 (R403). -/
def State.count (s : State) (line which n : Nat) : State :=
  let k := sliceOf line
  let h := s.homes
  let add (m : KV Nat) : KV Nat := kvSet 0 m k (min (kvGet 0 m k + n) (2 ^ 64 - 1))
  { s with homes :=
      if which = 0 then { h with fillsN := add h.fillsN }
      else if which = 1 then { h with expandN := add h.expandN } else { h with expevN := add h.expevN } }

/-! ## Records (R365, R435) -/

/-- TILE when no tile applies. -/
def noTile : Nat := 2 ^ 64 - 1

/-- The 64 bytes of a record. -/
def recordBytes (rcb ns cause domain tile fpc faddr : Nat) : List Byte :=
  leBytes 8 rcb ++ leBytes 8 ns ++ leBytes 8 cause ++ leBytes 8 0 ++ leBytes 8 domain ++ leBytes 8 tile ++ leBytes 8 fpc
    ++ leBytes 8 faddr

/-- What a waiting record names as its area when it goes to the error area: no fault-record area lies there. -/
def errArea : Nat := 1

/-- A record for the error area waits to be written. -/
def State.laterRecord (s : State) (cls addr : Nat) : State :=
  { s with pkg := { s.pkg with recordWait := s.pkg.recordWait
      ++ [(0, 0, errArea, recordBytes 0 s.ns (cls % 32 * 16) 0 noTile 0 addr, 1)] } }

/-- Recover the tags of a line's set whose parity fails (R449): an error record, which names the slice
and the set, is due for a tag lost whole. -/
def State.recoverSet (s : State) (line : Nat) : State :=
  forEach (s.setTags line) s (fun s p =>
    let t := p.2
    if t.bad1 && t.bad2 then
      let s := ((s.setTag p.1 (some { t with dirty := false })).dropTag line p.1).lifeAdd 8 1
      let s := if t.dirty then { s with mem := s.mem.put (cellsOf (t.line * 128) t.stale) } else s
      s.laterRecord 21 (setKey line / 16)
    else if t.bad1 then
      if t.pin.isSome then (s.hbmSettle t.line t.dirty).setTag p.1 (some { t with dirty := false, stale := [], bad1 := false })
      else s.dropTag line p.1
    else if t.bad2 then s.setTag p.1 (some { t with bad2 := false })
    else s)

/-- INLINE of a line: the repeated value of a REP8 line, otherwise 0 (R393). -/
def inlineOf (enc : Nat) (bytes : List Byte) : Nat := if enc = 2 then ofLe (bytes.take 8) else 0

/-- Bring a line into its home slice and make it most recently used (R398). The line's bytes are those that memory
holds; a full-line write passes the bytes it will hold. Nothing is allocated when no room can be made. -/
def State.fillWith (s : State) (line : Nat) (bytes : List Byte) : State :=
  match s.findTag line with
  | some (k, _) => s.touch line k
  | none =>
    let s := match (nats 16).find? (fun w => (s.tag (setKey line + w)).isNone) with
      | some _ => s
      | none => (match s.victim line (setKey line + 16) with | some k => s.dropTag line k | none => s)
    match (nats 16).find? (fun w => (s.tag (setKey line + w)).isNone) with
    | none => s
    | some w =>
      let key := setKey line + w
      let e := encodeLine bytes
      let (s, _) := s.makeRoom line key e.sectors 16 0
      if 32 < s.committed line key + e.sectors then s
      else
        let t : Tag := { line := line, inline := inlineOf e.enc bytes, epoch := s.pkg.epoch, enc := e.enc, scnt := e.sectors, smap := s.slots line key e.sectors, dirty := false,
                         stale := [], pin := none, rank := 16, bad1 := false, bad2 := false }
        ((s.setTag key (some t)).count line 0 1).touch line key

/-- A read of a line of package HBM at its home: resident afterwards where room can be made (R398). -/
def State.llcRead (s : State) (line : Nat) : State :=
  let s := s.recoverSet line
  s.fillWith line (s.lineBytes line)

/-- Note that a resident line now holds bytes, written by one write (R399); old are the bytes before it. -/
def State.recompress (s : State) (line key : Nat) (t : Tag) (old bytes : List Byte) : State :=
  let e := encodeLine bytes
  let s := if t.scnt < e.sectors then s.count line 1 1 else s
  let t' : Tag := { t with enc := e.enc, inline := inlineOf e.enc bytes, scnt := e.sectors, dirty := true, stale := if t.dirty then t.stale else old }
  if t.pin.isSome then (s.setTag key (some { t' with smap := s.slots line key e.sectors })).touch line key
  else
    let (s, n) := s.makeRoom line key e.sectors 16 0
    let s := s.count line 2 n
    if 32 < s.committed line key + e.sectors then (s.dropTag line key).count line 2 1
    else
      let r := match s.tag key with | some u => u.rank | none => 0
      (s.setTag key (some { t' with smap := s.slots line key e.sectors, rank := r })).touch line key

/-- A write of a line of package HBM at its home (R398, R399): bytes are the line's 128 bytes after the write. -/
def State.llcWrite (s : State) (line : Nat) (full : Bool) (bytes : List Byte) : State :=
  let s := s.recoverSet line
  let old := s.lineBytes line
  match s.findTag line with
  | some (k, t) => s.recompress line k t old bytes
  | none =>
    let s := s.fillWith line (if full then bytes else old)
    match s.findTag line with
    | some (k, t) =>
      if full then s.setTag k (some { t with dirty := true, stale := old }) else s.recompress line k t old bytes
    | none => s

/-- Write a resident line to HBM and keep it clean (CLEAN.MEM, R401). -/
def State.llcClean (s : State) (line : Nat) : State :=
  let s := s.recoverSet line
  match s.findTag line with
  | some (k, t) => (s.hbmSettle line true).setTag k (some { t with dirty := false, stale := [] })
  | none => s

/-- Write back and evict a line unless it is pinned (DROP.LLC, R161). -/
def State.llcDrop (s : State) (line : Nat) : State :=
  let s := s.recoverSet line
  match s.findTag line with
  | some (k, t) => if t.pin.isSome then s else s.dropTag line k
  | none => s

/-! ## Logical time (R408 to R415) -/

def State.stamp (s : State) (line : Nat) : Stamp := kvGet Stamp.zero s.homes.stamps line
def State.setStamp (s : State) (line : Nat) (x : Stamp) : State :=
  { s with homes := { s.homes with stamps := kvSet Stamp.zero s.homes.stamps line x } }

/-- wts and rts of a line in the current epoch: both 0 for a line last stamped in an earlier one (R415). -/
def State.wr (s : State) (line : Nat) : Nat × Nat :=
  let x := s.stamp line
  if x.epoch = s.pkg.epoch then (x.wts, x.rts) else (0, 0)

/-- LEASE of LEASELEN (R414). -/
def State.leaseLen (s : State) : Nat := s.reg 0x969 % 2 ^ 16

/-- Logical time of a core; 0 for the host (R411). -/
def State.ltOf (s : State) (core : Option Nat) : Nat := match core with | some c => (s.core c).lt | none => 0

/-- The wts that a write at a line would get from a writer's logical time (R411). -/
def State.wtsFrom (s : State) (line lw : Nat) : Nat := max lw ((s.wr line).2 + 1)

/-- The wts that a write of a core, or of the host, at a line would get (R411). -/
def State.nextWts (s : State) (line : Nat) (core : Option Nat) : Nat := s.wtsFrom line (s.ltOf core)

/-- Stamp a performed write from a logical time, and raise that of the core from which the write came (R411). -/
def State.stampFrom (s : State) (line lw : Nat) (core : Option Nat) : State :=
  let w := s.wtsFrom line lw
  let s := s.setStamp line { s.stamp line with wts := w, rts := w, epoch := s.pkg.epoch }
  match core with
  | some c => s.modCore c (fun x => { x with lt := w })
  | none => s

/-- Stamp a performed write of a core or of the host (R411). -/
def State.stampWrite (s : State) (line : Nat) (core : Option Nat) : State := s.stampFrom line (s.ltOf core) core

/-- The latest logical time: of a core, or of a write that a line bears. The manual gives the device's own writes and the lines
without stamps no logical time; the model takes this one, so that R183 and R366 hold through them (log 51). -/
def State.topTime (s : State) : Nat :=
  let n := s.cores.foldl (fun m c => max m c.2.lt) ((s.cycle - s.pkg.flipCycle) / 16)
  s.homes.stamps.foldl (fun m p => if p.2.epoch = s.pkg.epoch then max m p.2.wts else m) n

/-- Extend a line's rts for a renewal by a core (R410). -/
def State.stampRead (s : State) (line core : Nat) : State :=
  let (w, r) := s.wr line
  s.setStamp line { s.stamp line with wts := w, rts := max r ((s.core core).lt + s.leaseLen), epoch := s.pkg.epoch }

/-- An access of a strand at its home returns a wts, and the core's ACQTS keeps the largest (R410). -/
def State.noteTime (s : State) (core w : Nat) : State := s.modCore core (fun x => { x with acqts := max x.acqts w })

/-- A strong load, an atomic or a read of a WAIT by a core returns the line's wts (R410); the core keeps the lines so read until
the next acquiring fence (R182). A line outside package HBM bears no stamp and returns the latest logical time (log 51). -/
def State.noteWts (s : State) (line core : Nat) : State :=
  let w := if isHbm (line * 128) then (s.wr line).1 else s.topTime
  s.modCore core (fun x => { x with acqts := max x.acqts w,
                                    acqLines := if x.acqLines.contains line then x.acqLines else line :: x.acqLines })

/-! ## What makes an access wait at the home -/

def State.holding (s : State) (line : Nat) : Option Holding := kvGet none s.homes.holdings line

/-- The line is leased to a strand other than this one; an atomic waits for the holder itself too (R167). -/
def State.leaseBlocks (s : State) (line : Nat) (sid : Option Nat) (atomic : Bool) : Bool :=
  match s.holding line with
  | none => false
  | some h => atomic || some h.sid != sid

/-- The host's snoop filter holds the line (R418). -/
def State.inFilter (s : State) (line : Nat) : Bool := (kvGet [] s.homes.filter (sliceOf line)).contains line

/-- A stamp would reach 2^31, so that the epoch flips first (R415). -/
def wouldFlip (x : Nat) : Bool := decide (2 ^ 31 ≤ x)

/-- The line of a write of the device itself. -/
def DevW.hits (d : DevW) (line : Nat) : Bool :=
  match d with
  | .put pa bs => overlaps pa bs.length (line * 128) 128
  | .grant pa _ _ => pa / 128 == line
  | .rcb _ _ _ => false

/-- A write of the device itself stands before the line's home. -/
def State.devQueued (s : State) (line : Nat) : Bool := s.homes.dev.any (fun d => d.hits line)

/-- An epoch flip has come to its second step: every LEASE has ended, and accesses wait (R415). -/
def State.flipHold (s : State) : Bool := s.pkg.flipping && !s.homes.holdings.any (fun h => h.2.isSome)

/-- Any access at the home of a line must wait: for a lease (R167), behind a write of the device itself, or while an epoch flips
(R415). -/
def State.homeWaits (s : State) (line : Nat) (sid : Option Nat) (atomic : Bool) : Bool :=
  s.leaseBlocks line sid atomic || s.devQueued line || s.flipHold

/-- A read by a core that takes a timed copy must wait at the home. -/
def State.readBlocked (s : State) (line : Nat) (sid : Option Nat) (core : Nat) : Bool :=
  s.homeWaits line sid false
    || (isHbm (line * 128) && wouldFlip (max (s.wr line).2 ((s.core core).lt + s.leaseLen)))

/-- A write must wait at the home: besides, for the host's reply to a back-invalidate, or for an epoch flip. -/
def State.writeBlocked (s : State) (line : Nat) (sid core : Option Nat) (atomic host : Bool) : Bool :=
  s.homeWaits line sid atomic
    || (isHbm (line * 128) && ((!host && s.inFilter line) || wouldFlip (s.nextWts line core)))

/-- What a blocked access sets going: the back-invalidate snoop of a line in the filter, and the epoch flip. -/
def State.noteBlocked (s : State) (line : Nat) (core : Option Nat) : State :=
  let s := if s.inFilter line && !s.homes.snooped.contains line
    then { s with homes := { s.homes with snooped := line :: s.homes.snooped } } else s
  if wouldFlip (max (s.nextWts line core) (s.ltOf core + s.leaseLen)) then s.push .epochFlip else s

/-! ## Poison (R422) -/

/-- A half-line of the range is poisoned. -/
def State.poisoned (s : State) (pa n : Nat) : Bool :=
  s.homes.poison.any (fun h => overlaps (h * 64) 64 pa n)

/-- A write that covers a whole half removes its mark. -/
def State.unpoison (s : State) (ws : List (Nat × Byte)) : State :=
  if s.homes.poison.isEmpty then s
  else
    let covered (h : Nat) : Bool := (nats 64).all (fun i => ws.any (fun w => w.1 == h * 64 + i))
    { s with homes := { s.homes with poison := s.homes.poison.filter (fun h => !covered h) } }

/-! ## The negative (R461) -/

/-- The next sequence number of a home: slices by number, scratchpad banks by 128 + core * 32 + bank, strands by
10,000 + number. -/
def State.homeSeq (s : State) (key : Nat) : Nat × State :=
  let n := kvGet 0 s.homes.seqs key
  (n, { s with homes := { s.homes with seqs := kvSet 0 s.homes.seqs key (n + 1) } })

/-- Free entries of the negative's ring (log 17): its head may not meet its tail. -/
def State.negRoom (s : State) : Nat :=
  let n := s.reg 0xA34
  (s.reg 0xA36 % n + 2 * n - s.reg 0xA35 % n - 1) % n

/-- The ring of the negative has no free entry beyond those that wait for one. -/
def State.negFull (s : State) : Bool := s.reg 0xA34 != 0 && decide (s.negRoom ≤ s.homes.negQ.length)

/-- The strand's next recorded operation must wait (R461). -/
def State.negBlocks (s : State) (sid : Nat) : Bool := (s.regionOf (s.strand sid)).rcb.dbg && s.negFull

/-- A device write has reached its homes: the monitors there are still to look at it in this step (R168). -/
def State.unseenWrite (s : State) (pa n : Nat) : State :=
  { s with homes := { s.homes with unseen := s.homes.unseen ++ [(pa, n)] } }

/-- Bytes that the device itself places at a physical address, stamped from the latest logical time and kept as any write there. -/
def State.devPut (s : State) (pa : Nat) (bs : List Byte) : State :=
  let ws := cellsOf pa bs
  let s := (s.unpoison ws).unseenWrite pa bs.length
  forEach (dedup [] (ws.map (fun w => w.1 / 128))) s (fun s line =>
    let mine := ws.filter (fun w => w.1 / 128 == line)
    let s := if isHbm (line * 128) then s.recoverSet line else s
    let mem' := s.mem.put mine
    if isHbm (line * 128) then
      let s := s.llcWrite line (mine.length == 128) ({ s with mem := mem' }.lineBytes line)
      { s.stampFrom line s.topTime none with mem := mem' }
    else { s with mem := mem' })

/-- A line waits for the global-observation message of an earlier device write (R434). -/
def State.goPending (s : State) (line : Nat) : Bool :=
  s.homes.goQueue.any (fun q => q.2.any (fun w => w.1 / 128 == line))

/-- A write of the device itself at a line must wait (R167, R415, R418, R434). -/
def State.devWaits (s : State) (line : Nat) : Bool :=
  s.homeWaits line none false || s.goPending line
    || (isHbm (line * 128) && (s.inFilter line || wouldFlip (s.wtsFrom line s.topTime)))

/-- What a write of the device itself that waits sets going. -/
def State.noteDev (s : State) (line : Nat) : State :=
  let s := if s.inFilter line && !s.homes.snooped.contains line
    then { s with homes := { s.homes with snooped := line :: s.homes.snooped } } else s
  if isHbm (line * 128) && wouldFlip (s.wtsFrom line s.topTime) && !s.pkg.flipping then s.push .epochFlip else s

/-- The lines that a range of bytes touches. -/
def linesOf (pa n : Nat) : List Nat := natsFrom (pa / 128) ((pa + n - 1) / 128 + 1 - pa / 128)

/-- The device's own write of bytes: at once, or as soon as nothing stands before it at its homes. -/
def State.devWrite (s : State) (pa : Nat) (bs : List Byte) : State :=
  if (linesOf pa bs.length).any s.devWaits then
    forEach (linesOf pa bs.length) { s with homes := { s.homes with dev := s.homes.dev ++ [.put pa bs] } } State.noteDev
  else s.devPut pa bs

/-! ## Conversion records (R356) -/

/-- The conversion record at a physical address: as its slice holds it while a region uses it, else as memory does. -/
def State.cvRec (s : State) (pa : Nat) : Nat := (kvGet none s.homes.cvrecs pa).getD (s.numAt pa 64)
def State.setCvRec (s : State) (pa : Nat) (x : Option Nat) : State :=
  { s with homes := { s.homes with cvrecs := kvSet none s.homes.cvrecs pa x } }

/-- A region that is queued, running or draining uses the conversion record at an address. -/
def State.cvUsed (s : State) (pa : Nat) : Bool := s.allRegions.any (fun p => 1 ≤ p.2.state && p.2.state ≤ 3 && p.2.cvrecPa == pa)

/-- The first region that uses a record has its slice take it from memory. -/
def State.cvHold (s : State) (pa : Nat) : State := if s.cvUsed pa then s else s.setCvRec pa (some (s.numAt pa 64))

/-- Once no region uses a record it is written back to memory. -/
def State.cvRelease (s : State) (pa : Nat) : State :=
  match kvGet none s.homes.cvrecs pa with
  | some x => if s.cvUsed pa then s else (s.devWrite pa (leBytes 64 x)).setCvRec pa none
  | none => s

/-- Put an entry into the ring of the negative. -/
def State.negPut (s : State) (e : List Byte) : State :=
  let n := s.reg 0xA34
  let head := s.reg 0xA35 % n
  (s.devWrite (s.reg 0xA33 % 2 ^ 52 + 32 * head) e).setReg 0xA35 ((head + 1) % n)

/-- An entry of the log whose operation the negative records (R461). -/
def LogEnt.recorded (e : LogEnt) : Bool :=
  let op := e.raw.op.toNat
  ((op == 0x90 || op == 0x91) && e.raw.kind == 1) || op == 0x99 || op == 0x9A || op == 0x9D || op == 0xA0 || op == 0xA1
    || between 0xB0 0xB5 op || op == 0xC3 || op == 0xC4

/-- An entry must wait for its place in the ring: behind an earlier one of its strand that waits, a MARK until the strand's
earlier recorded operations are performed (R462). -/
def State.negWaits (s : State) (sid seq : Nat) (mark : Bool) (before : List NegEnt) : Bool :=
  before.any (fun q => q.sid == sid && (mark || decide (q.seq ≤ seq)))
    || (mark && (s.strand sid).log.any (fun p => p.2.recorded && decide (p.2.seq < seq)))
    || s.negRoom == 0

/-- Append an entry to the negative for an operation of a strand of a debug region (R461): its place in program order, its kind,
address and value; home and seqKey say which home numbers it. -/
def State.negative (s : State) (sid at_ kind addr value home seqKey : Nat) : State :=
  let st := s.strand sid
  if !(s.regionOf st).rcb.dbg then s
  else
    let (seq, s) := s.homeSeq seqKey
    if s.reg 0xA34 = 0 then s
    else
      let e := leBytes 8 s.ns ++ leBytes 8 (st.strandId + home % 256 * 2 ^ 24 + seq % 2 ^ 32 * 2 ^ 32)
        ++ leBytes 8 (kind % 256 + addr % 2 ^ 56 * 256) ++ leBytes 8 value
      let mark := kind == 9
      if s.negWaits sid at_ mark s.homes.negQ then { s with homes := { s.homes with negQ := s.homes.negQ ++ [⟨sid, at_, mark, e⟩] } }
      else s.negPut e

/-- The entries of the negative that wait take their places, as far as they can now. -/
def State.negFlush (s : State) : State :=
  forEach s.homes.negQ { s with homes := { s.homes with negQ := [] } } (fun s q =>
    if s.negWaits q.sid q.seq q.mark s.homes.negQ then { s with homes := { s.homes with negQ := s.homes.negQ ++ [q] } }
    else s.negPut q.bytes)

/-- An entry for an operation at the home of a physical address. The manual gives no HOME code for host memory and for
windows: a free value (log 12). -/
def State.negativeAt (s : State) (sid at_ kind va pa value : Nat) : State :=
  if isHbm pa then
    let k := sliceOf (pa / 128)
    s.negative sid at_ kind va value (k / 48 * 64 + k % 48) k
  else
    let (f, s) := s.freeVal
    s.negative sid at_ kind va value f 96

/-- An entry for an operation at a scratchpad bank (R160). -/
def State.negativeBank (s : State) (sid at_ kind off value : Nat) : State :=
  let c := s.cohort (s.strand sid).cid
  let bank := (if c.swz then (off / 8) ^^^ (off / 256) else off / 8) % 32
  s.negative sid at_ kind off value 0x80 (128 + c.core * 32 + bank)

/-! ## Monitors (R168) -/

/-- The effective number of a vector field: its base plus the index register (R19). -/
def Strand.eff (st : Strand) (r : Raw) (field : Nat) : Nat := field + st.j r.js

/-- The destination registers of a WAIT, ATOM, LD or counter instruction in W2M, as full/empty keys; d is the effective
number of D. -/
def destKeysAt (r : Raw) (d : Nat) : List Nat :=
  if r.u = 1#1 then [keyS d] else if r.ty = 2 ∨ r.ty = 3 then [keyV d, keyV (d + 1)] else [keyV d]

/-- The effective number of D: a uniform register is never indexed (R19). -/
def Strand.dnum (st : Strand) (r : Raw) : Nat := if r.u = 1#1 then r.d.toNat else st.eff r r.d.toNat
def Strand.destKeys (st : Strand) (r : Raw) : List Nat := destKeysAt r (st.dnum r)

/-- Write a thread's result, or the strand's own with U = 1. -/
def Strand.setDest (st : Strand) (r : Raw) (d t x : Nat) : Strand :=
  if r.u = 1#1 then st.setS d x else st.setVal d t (r.ty == 2 || r.ty == 3) x

/-- The condition of a WAIT: EQ, NE, LT, GE in the type's order (R168). -/
def waitHolds (r : Raw) (x c : Nat) : Bool :=
  let w := if r.ty = 2 ∨ r.ty = 3 then 64 else 32
  let lt := if r.ty = 0 ∨ r.ty = 2 then decide (sInt w x < sInt w c) else decide (x % 2 ^ w < c % 2 ^ w)
  match r.f.toNat % 4 with
  | 0 => x % 2 ^ w == c % 2 ^ w
  | 1 => x % 2 ^ w != c % 2 ^ w
  | 2 => lt
  | _ => !lt

/-- A value of n bytes at the register width: i32 extends by its sign, other types by zeros (R91, R157). -/
def extendTo (r : Raw) (n x : Nat) : Nat :=
  if r.ty = 0 then wrapN 64 (sInt (8 * n) x) else x

/-- The values of a completed WAIT reach its destination; its monitors and its log entry go (R168). -/
def State.finishWait (s : State) (sid slot : Nat) (e : LogEnt) : State :=
  let s := s.modStrand sid (fun st =>
    let st := forEach e.accs st (fun st a => st.setDest e.raw e.dnum a.thread (extendTo e.raw a.size a.got))
    { st.fullAll (destKeysAt e.raw e.dnum) with
        log := kvDel st.log slot, waiting := if st.waiting = .wait slot then .nothing else st.waiting })
  if (s.strand sid).life = .swapped then s.push (.strandRestore sid) else s

/-- Where the log keeps scratchpad offsets: above every virtual address. -/
def spadVa : Nat := 2 ^ 60

/-- The negative's entry of a WAIT that is satisfied (R461): the address and value of its lowest thread. -/
def State.waitNegative (s : State) (sid : Nat) (e : LogEnt) : State :=
  match e.accs with
  | [] => s
  | a :: _ => if e.raw.f.toNat < 4 then s.negativeAt sid e.seq 6 a.va a.data2 a.got else s.negativeBank sid e.seq 6 (a.va - spadVa) a.got

/-- A WAIT whose threads are all satisfied ends, unless the negative has no room for its entry (R461): then it stays. -/
def State.endWait (s : State) (sid slot : Nat) (e : LogEnt) : State :=
  if s.negBlocks sid then s.modStrand sid (fun st => { st with log := kvPut st.log slot e })
  else (s.finishWait sid slot e).waitNegative sid e

/-- A write reached 8-byte words of a home: threads that wait on them look at the new value (R168), and note its wts (R410). rd
reads n bytes at
the address a thread waits on; space says whether the entry waits there. -/
def State.notify (s : State) (space : Strand → Raw → Bool) (lo n : Nat) (rd : Nat → Nat → Nat) : State :=
  forEach s.allStrands s (fun s p =>
    forEach p.2.log s (fun s q =>
      let e := q.2
      if e.raw.op = 0x9D#8 ∧ e.accs.any (fun a => a.status == 4) ∧ space p.2 e.raw then
        let hit (a : Acc) : Bool := a.status == 4 && overlaps (a.data2 / 8 * 8) 8 lo n
        let accs := e.accs.map (fun a =>
          if hit a && waitHolds e.raw (rd a.data2 a.size) a.data then { a with status := 1, got := rd a.data2 a.size }
          else a)
        let e' := { e with accs := accs }
        let s := s.modStrand p.1 (fun st => { st with log := kvPut st.log q.1 e' })
        let s := if e.raw.f.toNat < 4 ∧ e.accs.any hit then s.noteWts (lo / 128) p.2.core else s
        if accs.all (fun a => a.status == 1) then s.endWait p.1 q.1 e' else s
      else s))

/-- Threads that wait on global words look at a write there. -/
def State.notifyGlobal (s : State) (pa n : Nat) : State :=
  s.notify (fun _ r => decide (r.f.toNat < 4)) pa n (fun a k => s.numAt a k)

/-- The monitors look at the device writes of this step. -/
def State.attendWrites (s : State) : State :=
  forEach s.homes.unseen { s with homes := { s.homes with unseen := [] } } (fun s w => s.notifyGlobal w.1 w.2)

/-! ## Performing a write -/

/-- The home keeps a counter's block from writes by the host and the device's functions (R252). -/
def State.countsAt (s : State) (pa : Nat) : Bool := (kvGet none s.homes.ctrs (pa / 64 * 64)).isSome

/-- Copies of a host-memory line, which have no stamps, take the bytes that its home now holds, but for their own dirty
bytes (R418). -/
def State.freshenHost (s : State) (line : Nat) : State :=
  let fresh (c : Copy) : Copy :=
    if c.hostMem && c.pline == line then
      { c with data := (nats 128).map (fun i => if bit c.dirty i then listAt 0 c.data i else s.byteAt (line * 128 + i)) }
    else c
  { s with cores := s.cores.map (fun (p : Nat × Core) => (p.1, { p.2 with copies := p.2.copies.map fresh })) }

/-- Perform one write, of bytes of one line, at its home (R181): the bytes in the order written, the stamp from a logical time,
the LLC's line, and the monitors. The caller has seen that the write is not blocked. -/
def State.homeWriteFrom (s : State) (ws : List (Nat × Byte)) (lw : Nat) (core : Option Nat) : State :=
  match ws with
  | [] => s
  | (pa, _) :: _ =>
    let line := pa / 128
    let lo := (ws.map Prod.fst).foldl min pa
    let hi := (ws.map Prod.fst).foldl max pa
    let s := s.unpoison ws
    let s := if isHbm pa then s.recoverSet line else s
    let mem' := s.mem.put ws
    let s := if isHbm pa then
        (s.llcWrite line (ws.length == 128) ({ s with mem := mem' }.lineBytes line)).stampFrom line lw core
      else s
    let s : State := { s with mem := mem' }
    (if isHbm pa then s else s.freshenHost line).notifyGlobal lo (hi + 1 - lo)

/-- A write of a core, or of the host (R411). -/
def State.homeWrite (s : State) (ws : List (Nat × Byte)) (core : Option Nat) : State := s.homeWriteFrom ws (s.ltOf core) core

end Sys2Proof.Machine
end

