-- ==== Sys2Proof/Machine/Xlate.lean ====
section
/-! DEFINITION. Address translation: page-table entries (R371 to R375), walks with the walk cache (R376), answers of the
host (R377), the two levels of TLB (R378), permissions and the page-permission check (R156, R375). -/

namespace Sys2Proof.Machine

/-- Who makes an access: its core, the strand (none for an engine), the context, whether it is a system region. -/
structure Who where
  core : Nat
  sid : Option Nat
  asid : Nat
  sys : Bool
  deriving DecidableEq, Repr

/-- A strand as the maker of an access. -/
def State.who (s : State) (sid : Nat) : Who :=
  let st := s.strand sid
  ⟨st.core, some sid, s.asidOf st, s.isSystem st⟩

/-- What a translation answers: a physical address with bits [6:2] of its leaf (RD 0, WR 1, EX 2, P 3, SYS 4), a wait
for the host, or a fault class. -/
inductive Tr where
  | hit (pa perms : Nat)
  | wait
  | fault (cls : Nat)
  deriving DecidableEq, Repr

/-- Class codes of R197. -/
def clsIllegal : Nat := 0
def clsBounds : Nat := 1
def clsEmpty : Nat := 2
def clsDivOvf : Nat := 3
def clsLoopOvf : Nat := 4
def clsConverge : Nat := 5
def clsTile : Nat := 6
def clsPacked : Nat := 7
def clsXlate : Nat := 8
def clsProt : Nat := 9
def clsAlign : Nat := 10
def clsKind : Nat := 11
def clsHeap : Nat := 12
def clsSparse : Nat := 13
def clsFormat : Nat := 14
def clsThresh : Nat := 15
def clsWsWrite : Nat := 16
def clsMonOvf : Nat := 17
def clsUser : Nat := 18
def clsBreak : Nat := 19
def clsUncorr : Nat := 21

/-! ## Entries (R372, R373) -/

/-- Bytes that a leaf of a level maps (R371). -/
def leafSize (level : Nat) : Nat := if level = 1 then 2 ^ 30 else if level = 2 then 2 ^ 21 else 2 ^ 16
/-- The lowest virtual-address bit that a level indexes, and its number of entries (R371). -/
def levelShift (level : Nat) : Nat := match level with | 0 => 39 | 1 => 30 | 2 => 21 | _ => 16
def levelEntries (level : Nat) : Nat := match level with | 0 => 131072 | 1 => 512 | 2 => 512 | _ => 32

/-- The address that an entry holds: its bits [51:8]. -/
def pteAddr (pte : Nat) : Nat := bits pte 51 8 * 256

/-- A range of R374 that holds something. -/
def isMapped (pa : Nat) : Bool := isHbm pa || isWindow pa || isHostMem pa

/-- A valid leaf of a page size is well formed (R373). -/
def leafOk (pte size : Nat) : Bool :=
  bit pte 0 && bit pte 1 && bits pte 63 52 == 0 && !(bit pte 3 && !bit pte 2) && pteAddr pte % size == 0
    && isMapped (pteAddr pte)

/-- A valid non-leaf entry of a level is well formed (R373). -/
def tableOk (pte level : Nat) : Bool :=
  let size := if level = 2 then 256 else 4096
  bit pte 0 && !bit pte 1 && bits pte 63 52 == 0 && bits pte 7 2 == 0 && pteAddr pte % size == 0
    && isHbm (pteAddr pte) && level < 3

/-- The level-0 table's address is one that a walk may start from (R371). -/
def rootOk (root : Nat) : Bool := root % 2 ^ 20 == 0 && decide (root + 2 ^ 20 ≤ 2 ^ 39)

/-- The context-table entry of an ASID (R368). -/
def State.ctxEntry (s : State) (asid : Nat) : Nat := s.reg 0x810 % 2 ^ 56 + 64 * asid

/-! ## Walking (R376) -/

/-- The walk cache's entry for a level, most specific first is the caller's choice. -/
def State.walkHit (s : State) (die asid va level : Nat) : Option Nat :=
  ((kvGet [] s.xlate.walk die).find? (fun w =>
    w.asid == asid && w.level == level && w.vbits == va / 2 ^ levelShift level)).map WalkEnt.pte

/-- Enter a non-leaf entry in the walk cache of 256 entries, most recent first. -/
def State.walkNote (s : State) (die asid va level pte : Nat) : State :=
  let e : WalkEnt := ⟨asid, level, va / 2 ^ levelShift level, pte⟩
  let l := (e :: (kvGet [] s.xlate.walk die).filter (fun w => w != e)).take 256
  { s with xlate := { s.xlate with walk := kvSet [] s.xlate.walk die l } }

/-- What a walk comes to: a leaf with its page size, a lease on an entry's line that it must wait for, or a class. -/
inductive WalkR where
  | leaf (pte size : Nat)
  | wait
  | fault (cls : Nat)
  deriving DecidableEq, Repr

/-- Read the entries from a level down, at most fuel levels, each as a strong load at its home (R371, R376), which waits for a
lease on its line (R167). seen are the non-leaf entries met, by level: they enter the walk cache only when the walk ends in a
leaf (R379). -/
def State.walkFrom (s : State) (die asid va level table fuel : Nat) (seen : List (Nat × Nat)) : WalkR × State :=
  match fuel with
  | 0 => (.fault clsXlate, s)
  | fuel + 1 =>
    let ea := table + 8 * (va / 2 ^ levelShift level % levelEntries level)
    if s.homeWaits (ea / 128) none false then (.wait, s)
    else
      let s := s.llcRead (ea / 128)
      if s.poisoned ea 8 then (.fault clsUncorr, s)
      else
        let pte := s.numAt ea 8
        if level ≠ 0 && leafOk pte (leafSize level) then
          (.leaf pte (leafSize level), forEach seen s (fun s e => s.walkNote die asid va e.1 e.2))
        else if tableOk pte level then
          s.walkFrom die asid va (level + 1) (pteAddr pte) fuel (seen ++ [(level, pte)])
        else (.fault clsXlate, s)

/-- PTROOT of a context, read from its context-table entry at its home (R368, R376); none while it must wait. -/
def State.rootOf (s : State) (asid : Nat) : Option Nat × State :=
  let pa := s.ctxEntry asid
  if s.homeWaits (pa / 128) none false then (none, s)
  else
    let s := if isHbm pa then s.llcRead (pa / 128) else s
    (some (s.numAt pa 8), s)

/-- Walk an address: from the deepest entry that the walk cache holds, else from PTROOT (R371, R376). -/
def State.walk (s : State) (die asid va : Nat) : WalkR × State :=
  match s.walkHit die asid va 2 with
  | some p => s.walkFrom die asid va 3 (pteAddr p) 1 []
  | none => match s.walkHit die asid va 1 with
    | some p => s.walkFrom die asid va 2 (pteAddr p) 2 []
    | none => match s.walkHit die asid va 0 with
      | some p => s.walkFrom die asid va 1 (pteAddr p) 3 []
      | none =>
        match s.rootOf asid with
        | (none, s) => (.wait, s)
        | (some root, s) => if rootOk root then s.walkFrom die asid va 0 root 4 [] else (.fault clsXlate, s)

/-! ## TLBs (R378) -/

/-- A TLB entry serves an address. -/
def Tlb.serves (e : Tlb) (asid va : Nat) : Bool :=
  e.asid == asid && decide (e.vpage ≤ va) && decide (va < e.vpage + e.size)

/-- Put an entry first in a TLB of n entries; the least recently used goes. -/
def tlbPut (l : List Tlb) (e : Tlb) (n : Nat) : List Tlb := (e :: l.filter (fun x => x != e)).take n

def State.tlbNoteCluster (s : State) (cl : Nat) (e : Tlb) : State :=
  { s with xlate := { s.xlate with cluster := kvSet [] s.xlate.cluster cl (tlbPut (kvGet [] s.xlate.cluster cl) e 4096) } }
def State.tlbNoteDie (s : State) (die : Nat) (e : Tlb) : State :=
  { s with xlate := { s.xlate with dieTlb := kvSet [] s.xlate.dieTlb die (tlbPut (kvGet [] s.xlate.dieTlb die) e 16384) } }

/-- A translation as an entry serves it. -/
def Tlb.result (e : Tlb) (va : Nat) : Tr := .hit (pteAddr e.pte + (va - e.vpage)) (bits e.pte 6 2)

/-- Enter a leaf for an address in a cluster TLB and its die TLB. -/
def State.enterLeaf (s : State) (die : Nat) (cl : Option Nat) (asid va pte size : Nat) : State :=
  let e : Tlb := ⟨asid, va / size * size, size, pte⟩
  let s := s.tlbNoteDie die e
  match cl with
  | some c => s.tlbNoteCluster c e
  | none => s

/-- The page that a party asks the host for. -/
def XAsk.samePage (a b : XAsk) : Bool := a.die == b.die && a.asid == b.asid && a.page == b.page

/-- The host has answered this party's miss with none. -/
def State.refusedOf (s : State) (q : XAsk) : Bool := s.xlate.nones.any (fun n => n.1 == q && decide (s.cycle / 64 ≤ n.2 + 1))

/-- A miss in host-assisted mode (R377): the party waits for the host's answer, which is asked for once for each page; an
answer of none to this party is the translation fault of its miss, and leaves nothing behind (R379). -/
def State.askHost (s : State) (q : XAsk) : Tr × State :=
  if s.refusedOf q then
    (.fault clsXlate, { s with xlate := { s.xlate with nones := s.xlate.nones.filter (fun n => n.1 != q) } })
  else if s.xlate.requests.contains q then (.wait, s)
  else
    let s' : State := { s with xlate := { s.xlate with requests := s.xlate.requests ++ [q] } }
    (.wait, if s.xlate.requests.any q.samePage then s' else s'.vector 3)

/-- A strand that is no more asks for nothing. -/
def State.dropAsks (s : State) (sid : Nat) : State :=
  { s with xlate := { s.xlate with requests := s.xlate.requests.filter (fun q => q.sid != some sid),
                                   nones := s.xlate.nones.filter (fun n => n.1.sid != some sid) } }

/-- Translate an address for a party (R376 to R379): the cluster TLB, the die TLB, then a walk, or a request to the host
when MODESEL bit 0 is 1; a request that is with the host stays with it (R454). -/
def State.translate (s : State) (w : Who) (va : Nat) : Tr × State :=
  let asid := w.asid
  let cl := clusterOf w.core
  let die := dieOf w.core
  match (kvGet [] s.xlate.cluster cl).find? (fun e => e.serves asid va) with
  | some e => (e.result va, s.tlbNoteCluster cl e)
  | none =>
    match (kvGet [] s.xlate.dieTlb die).find? (fun e => e.serves asid va) with
    | some e => (e.result va, (s.tlbNoteDie die e).tlbNoteCluster cl e)
    | none =>
      let ask : XAsk := ⟨die, asid, va / 65536 * 65536, w.core, w.sid⟩
      if s.hostMode 0 || s.xlate.requests.contains ask || s.refusedOf ask then s.askHost ask
      else
        match s.walk die asid va with
        | (.leaf pte size, s) =>
          ((Tlb.mk asid (va / size * size) size pte).result va, s.enterLeaf die (some cl) asid va pte size)
        | (.wait, s) => (.wait, s)
        | (.fault c, s) => (.fault c, s)

/-! ## Permissions (R375, R156) -/

/-- What an access needs of a leaf: RD 1, WR 2, EX 4. -/
def needR : Nat := 1
def needW : Nat := 2
def needRW : Nat := 3
def needX : Nat := 4

/-- The page-permission and packed-page checks of R156, in their order; p says whether the access needs P = 0 (0), needs
P = 1 (1) or ignores P (2). -/
def permFault (perms need : Nat) (sys : Bool) (p : Nat) : Option Nat :=
  if perms &&& need ≠ need ∨ (bit perms 4 ∧ !sys) then some clsProt
  else if (p = 0 ∧ bit perms 3) ∨ (p = 1 ∧ !bit perms 3) then some clsPacked
  else none

/-- Translate and check an access. -/
def State.access (s : State) (w : Who) (va need p : Nat) : Tr × State :=
  match s.translate w va with
  | (.hit pa perms, s) => (match permFault perms need w.sys p with
      | some c => (.fault c, s)
      | none => (.hit pa perms, s))
  | r => r

end Sys2Proof.Machine
end

