-- ==== Sys2Proof/Machine/Cache.lean ====
section
/-! DEFINITION. Core caches as timed copies (R380, R381, R408 to R412, R418), the write-back of dirty bytes, and the weak
and strong accesses of global memory by virtual address (R159, R181, R182). A core cache makes room by replacing its least
recently used line, and evicts besides when the schedule says so (log 18). -/

namespace Sys2Proof.Machine

/-- What an access answers: a value, a wait at the home or for a translation, a fault class, or the address in a fabric
window that a peer must serve (R438). -/
inductive MemR where
  | ok (x : Nat)
  | wait
  | fault (cls : Nat)
  | remote (pa : Nat)
  deriving DecidableEq, Repr

/-- The epoch value of a copy that has no stamps, because it only holds bytes its core wrote. -/
def noEpoch : Nat := 4

/-! ## Protected blocks (R174, R252, R356) -/

/-- The address lies in a bound guard, an initialised counter block, or a held conversion record. -/
def State.isProtected (s : State) (pa : Nat) : Bool :=
  let b := pa / 64 * 64
  s.homes.guards.contains b || (kvGet none s.homes.ctrs b).isSome
    || s.cvUsed b

/-! ## Copies -/

def Copy.isAt (c : Copy) (cache asid vline : Nat) : Bool := c.cache == cache && c.asid == asid && c.vline == vline

/-- A copy answers reads (R409); copies of host memory stand until snooped (R418). -/
def State.copyValid (s : State) (core : Nat) (c : Copy) : Bool :=
  c.hostMem || (c.epoch == s.pkg.epoch && decide ((s.core core).lt ≤ c.rts))

/-- The first copy of a core that satisfies a test. -/
def State.copyOf (s : State) (core : Nat) (p : Copy → Bool) : Option Copy := (s.core core).copies.find? p

/-- Replace the copy of a tag, or add it. -/
def putCopy (l : List Copy) (c : Copy) : List Copy :=
  c :: l.filter (fun x => !x.isAt c.cache c.asid c.vline)
def State.setCopy (s : State) (core : Nat) (c : Copy) : State :=
  s.modCore core (fun x => { x with copies := putCopy x.copies c })
/-- Drop the copies of a core that satisfy a test. -/
def State.dropCopies (s : State) (core : Nat) (p : Copy → Bool) : State :=
  s.modCore core (fun x => { x with copies := x.copies.filter (fun c => !p c) })

/-- The L1 copy of a physical line, under whatever tag (R381). -/
def State.l1Of (s : State) (core line : Nat) : Option Copy := s.copyOf core (fun c => c.cache == 0 && c.pline == line)

/-- The bytes of a line that a core has written and not yet written back. -/
def dirtyCells (c : Copy) : List (Nat × Byte) :=
  (nats 128).filterMap (fun i => if bit c.dirty i then some (c.pline * 128 + i, listAt 0 c.data i) else none)

/-- Put the dirty bytes of a copy over the bytes of its home. -/
def mergeDirty (c : Copy) (home : List Byte) : List Byte :=
  (nats 128).map (fun i => if bit c.dirty i then listAt 0 c.data i else listAt 0 home i)

/-- Every timed copy of a core must be renewed before it answers a read again. -/
def State.expireCopies (s : State) (core : Nat) : State :=
  s.modCore core (fun x => { x with copies := x.copies.map (fun c => if c.hostMem then c else { c with epoch := noEpoch }) })

/-- A core leaves safelight (R416): after two flips or more every line of its caches goes; a line of an earlier epoch answers
no read again. -/
def State.wake (s : State) (core : Nat) : State :=
  match (s.core core).snap with
  | none => s
  | some n => s.modCore core (fun x =>
      if 2 ≤ (s.pkg.flips - n) % 2 ^ 32 then { x with copies := [], icache := [], snap := none }
      else { x with snap := none, copies := x.copies.map (fun c =>
        if c.hostMem || c.epoch == s.pkg.epoch then c else { c with epoch := noEpoch }) })

/-- The core holds a lease of the line. -/
def State.leasedHere (s : State) (core line : Nat) : Bool :=
  match s.holding line with | some h => h.core == core | none => false

/-- The strand holds the line's lease (R166). -/
def State.isHolder (s : State) (sid : Option Nat) (line : Nat) : Bool :=
  match s.holding line, sid with
  | some h, some i => h.sid == i && (s.strand i).leases.contains line
  | _, _ => false

/-- The line is leased to another strand of this core, whose accesses to it nobody else may see yet, or a lease of it has
ended and its end has not reached the home (R167). -/
def State.leasedAway (s : State) (core line : Nat) (sid : Option Nat) : Bool :=
  match s.holding line with
  | some h => h.core == core && !s.isHolder sid line
  | none => false

/-- The bytes that their home takes of those that a copy writes back; the stores of bytes that a protected block refuses there
are to be deferred (R174, R199, R252). -/
def State.sift (s : State) (c : Copy) (ws : List (Nat × Byte)) : List (Nat × Byte) × State :=
  let bad := ws.filter (fun w => s.isProtected w.1)
  let by_ := bad.filterMap (fun w => c.authors.find? (fun a => decide (a.off ≤ w.1 % 128) && decide (w.1 % 128 < a.off + a.size)))
  (ws.filter (fun w => !s.isProtected w.1),
   { s with homes := { s.homes with refused := by_.foldl (fun l a => if l.contains a then l else l ++ [a]) s.homes.refused } })

/-- A copy whose dirty bytes have left it. -/
def Copy.cleaned (c : Copy) : Copy := { c with dirty := 0, authors := [] }

/-- Write the dirty bytes of a core's L1 copy of a line back to its home as one write (R412): false when it must wait.
A line under a lease of this core keeps them until the end of the lease is performed at the home (R167). -/
def State.writeBack (s : State) (core line : Nat) : Bool × State :=
  match s.l1Of core line with
  | none => (true, s)
  | some c =>
    if c.dirty = 0 then (true, s)
    else if s.leasedHere core line then (false, s)
    else if isHbm (line * 128) then
      if s.writeBlocked line none (some core) false false then (false, s.noteBlocked line (some core))
      else
        let (ws, s) := s.sift c (dirtyCells c)
        (true, (s.setCopy core c.cleaned).homeWrite ws (some core))
    else
      (true, { (s.dropCopies core (fun x => x.pline == line)).push .hostGoReceipt with
        homes := { s.homes with goQueue := s.homes.goQueue ++ [(core, dirtyCells c)] } })

/-! ## Room in a core's caches (R2, R219) -/

/-- A copy competes for room with a line of a cache: the L1 has sets by the virtual line, the metadata cache is one of both
halves, a uniform data cache is one set (DESIGN CHOICE, log 18). -/
def Copy.mate (c : Copy) (cache vline : Nat) : Bool :=
  if cache = 0 then c.cache == 0 && c.vline % 256 == vline % 256
  else if cache = 5 ∨ cache = 7 then c.cache == 5 || c.cache == 7
  else c.cache == cache

/-- The lines that compete so: 8 ways of the L1's 256 sets, 128 lines of 128 bytes of a uniform data cache, 1,024 of 64 bytes
of the metadata cache. -/
def cacheRoom (cache : Nat) : Nat := if cache = 0 then 8 else if cache = 5 ∨ cache = 7 then 1024 else 128

/-- A slot for a line is free. -/
def State.slotFree (s : State) (core cache vline : Nat) : Bool :=
  decide (((s.core core).copies.filter (fun c => c.mate cache vline)).length < cacheRoom cache)

/-- Make room for a line: where no slot is free the least recently used line that no lease of the core keeps goes, after its
dirty bytes. False when none can go now. -/
def State.makeSlot (s : State) (core cache vline : Nat) : Bool × State :=
  if s.slotFree core cache vline then (true, s)
  else
    match ((s.core core).copies.filter (fun c => c.mate cache vline && !(cache == 0 && s.leasedHere core c.pline))).getLast? with
    | none => (false, s)
    | some c =>
      let (done, s) := if cache = 0 then s.writeBack core c.pline else (true, s)
      if done then (true, s.dropCopies core (fun x => x.isAt c.cache c.asid c.vline)) else (false, s)

/-- Room for an L1 copy under a new tag: its own slot serves within its set. -/
def State.moveSlot (s : State) (core : Nat) (c : Copy) (vline : Nat) : Bool × State :=
  if c.vline % 256 = vline % 256 then (true, s) else s.makeSlot core 0 vline

/-- Renew or fill from the home (R410): the line's bytes and stamps, served in one step. -/
def State.renewCopy (s : State) (core : Nat) (c : Copy) : State × Copy :=
  let line := c.pline
  let s := (s.llcRead line).stampRead line core
  let (w, r) := s.wr line
  let same := c.wts == w && c.epoch == s.pkg.epoch
  let data := if same then c.data else mergeDirty c (s.lineBytes line)
  let c := { c with data := data, wts := w, rts := r, epoch := s.pkg.epoch }
  (s.setCopy core c, c)

/-- The bytes that the mask names are all dirty. -/
def allDirty (c : Copy) (mask : Nat) : Bool := c.dirty &&& mask == mask

/-- Bytes that the mask names lie in a half that a lease brought poisoned, and not all have been written since (R422). -/
def Copy.spoilt (c : Copy) (mask : Nat) : Bool :=
  !allDirty c mask && (nats 2).any (fun h => bit c.poison h && mask / 2 ^ (64 * h) % 2 ^ 64 != 0)

/-- Bring the line of a virtual address into a cache of the core so that the bytes of mask can be read (R380, R381,
R409, R410): the copy, or why not. A line with a poisoned half is read but not kept. -/
def State.ensure (s : State) (w : Who) (cache va mask need p : Nat) : Except MemR Copy × State :=
  let vline := va / 128
  let use (s : State) (c : Copy) : Except MemR Copy × State :=
    if cache == 0 && s.leasedAway w.core c.pline w.sid then (.error .wait, s)
    else if s.flipHold then (.error .wait, s)
    else if c.spoilt mask && s.isHolder w.sid c.pline then (.error (.fault clsUncorr), s)
    else if s.copyValid w.core c || allDirty c mask || s.isHolder w.sid c.pline then (.ok c, s.setCopy w.core c)
    else if s.readBlocked c.pline w.sid w.core then (.error .wait, s.noteBlocked c.pline (some w.core))
    else if s.poisoned (c.pline * 128) 128 then
      let s := s.llcRead c.pline
      if (nats 2).any (fun h => mask / 2 ^ (64 * h) % 2 ^ 64 != 0 && s.poisoned (c.pline * 128 + 64 * h) 64) then
        (.error (.fault clsUncorr), s)
      else (.ok { c with data := mergeDirty c (s.lineBytes c.pline) }, s)
    else let (s, c) := s.renewCopy w.core c
      (.ok c, s)
  match s.copyOf w.core (fun c => c.isAt cache w.asid vline) with
  | some c => (match permFault c.perms need w.sys p with
      | some f => (.error (.fault f), s)
      | none => use s c)
  | none =>
    match s.access w (vline * 128) need p with
    | (.wait, s) => (.error .wait, s)
    | (.fault f, s) => (.error (.fault f), s)
    | (.hit pa perms, s) =>
      if isWindow pa then (.error (.remote (pa + va % 128)), s)
      else
        let line := pa / 128
        match (if cache = 0 then s.l1Of w.core line else none) with
        | some c =>
          let c' := { c with asid := w.asid, vline := vline, perms := perms }
          let (room, s) := s.moveSlot w.core c vline
          if !room then (.error .wait, s)
          else use ((s.dropCopies w.core (fun x => x == c)).setCopy w.core c') c'
        | none =>
          let (done, s) := if cache = 0 then (true, s) else s.writeBack w.core line
          if !done || s.goPending line || s.homeWaits line w.sid false then (.error .wait, s.noteBlocked line (some w.core))
          else
            let s := s.dropCopies w.core (fun x => x.cache == cache && x.pline == line)
            let (room, s) := s.makeSlot w.core cache vline
            let host := !isHbm pa
            let c : Copy := { cache := cache, asid := w.asid, vline := vline, pline := line, perms := perms,
                              data := s.lineBytes line, dirty := 0, dirtySince := 0, wts := 0, rts := 0,
                              epoch := noEpoch, hostMem := host, poison := 0, authors := [] }
            if !room then (.error .wait, s) else if host then (.ok c, s.setCopy w.core c) else use s c

/-- The pieces of a range of bytes that lie each in one line. -/
def pieces (va n : Nat) : List (Nat × Nat) :=
  if va % 128 + n ≤ 128 then [(va, n)]
  else (linesOf va n).map (fun l =>
    let a := max va (l * 128)
    (a, min (va + n) (l * 128 + 128) - a))

/-- Read pieces one after another, least significant first: got holds the bytes read so far and k their number. -/
def readPieces (f : State → Nat → Nat → MemR × State) (l : List (Nat × Nat)) (s : State) (got k : Nat) : MemR × State :=
  match l with
  | [] => (.ok got, s)
  | (a, n) :: t =>
    match f s a n with
    | (.ok x, s) => readPieces f t s (got + x * 2 ^ (8 * k)) (k + n)
    | r => r

/-- The mask of n bytes from an address within its line. -/
def byteMask (va n : Nat) : Nat := (2 ^ n - 1) * 2 ^ (va % 128)

/-- The strand holds the lease of the line that a virtual address names. -/
def State.holdsAt (s : State) (w : Who) (va : Nat) : Bool :=
  match w.sid with
  | none => false
  | some i => !(s.strand i).leases.isEmpty && (match (s.translate w va).1 with
      | .hit pa _ => s.isHolder w.sid (pa / 128)
      | _ => false)

/-- Bytes of one line read through a cache. -/
def State.cacheServe (s : State) (w : Who) (cache va n p : Nat) : MemR × State :=
  match s.ensure w cache va (byteMask va n) needR p with
  | (.ok c, s) => (.ok (ofLe ((c.data.drop (va % 128)).take n)), s)
  | (.error r, s) => (r, s)

/-- Bytes of one line that the LLC serves for a weak load (R182), under the core's own dirty bytes of the line; a line that no
LLC holds comes through the cache. -/
def State.llcServe (s : State) (w : Who) (cache va n p : Nat) : MemR × State :=
  match s.access w va needR p with
  | (.wait, s) => (.wait, s)
  | (.fault f, s) => (.fault f, s)
  | (.hit pa _, s) =>
    let line := pa / 128
    if isWindow pa then (.remote pa, s)
    else if !isHbm pa then s.cacheServe w cache va n p
    else if s.homeWaits line w.sid false then (.wait, s.noteBlocked line (some w.core))
    else
      let s := s.llcRead line
      let own := (s.l1Of w.core line).filter (fun c => c.dirty != 0)
      if s.poisoned pa n && !(own.any (fun c => allDirty c (byteMask pa n))) then (.fault clsUncorr, s)
      else
        let home := s.lineBytes line
        let data := match own with | some c => mergeDirty c home | none => home
        (.ok (ofLe ((data.drop (pa % 128)).take n)), s)

/-- Reach a line through the L1 (R380): a line there is checked against its stored permissions and is not translated. -/
def State.l1Access (s : State) (w : Who) (va need p : Nat) : Tr × State :=
  match s.copyOf w.core (fun c => c.isAt 0 w.asid (va / 128)) with
  | some c => (match permFault c.perms need w.sys p with
      | some f => (.fault f, s)
      | none => (.hit (c.pline * 128 + va % 128) c.perms, s))
  | none => s.access w va need p

/-- A weak read of n bytes through a cache (R159, R182); the holder of a line's lease reads its L1 copy (R167). While the
schedule sends the strand's weak loads around its core's copies, the LLC serves them. -/
def State.weakRead (s : State) (w : Who) (cache va n p : Nat) : MemR × State :=
  let held := s.holdsAt w va
  let cache := if cache ≠ 0 && held then 0 else cache
  let around := !held && decide (cache ≤ 4) && (match w.sid with | some i => (s.strand i).around | none => false)
  readPieces (fun s a k => if around then s.llcServe w cache a k p else s.cacheServe w cache a k p) (pieces va n) s 0 0

/-- Put bytes into a copy and mark them dirty (R380). -/
def Copy.store (c : Copy) (off : Nat) (bs : List Byte) (cycle : Nat) : Copy :=
  { c with data := forEach (cellsOf off bs) c.data (fun d p => listPut d p.1 p.2),
           dirty := c.dirty ||| ((2 ^ bs.length - 1) * 2 ^ off),
           dirtySince := if c.dirty = 0 then cycle else c.dirtySince }

/-- Store bytes of one line into the L1 and discard the copies of the line in the core's uniform and metadata caches (R221,
R380, R381). -/
def State.weakStorePiece (s : State) (w : Who) (va : Nat) (bs : List Byte) : MemR × State :=
  let vline := va / 128
  let off := va % 128
  let put (s : State) (old : Option Copy) (c : Copy) : MemR × State :=
    if s.leasedAway w.core c.pline w.sid || s.flipHold then (.wait, s)
    else if s.isProtected (c.pline * 128 + off) || s.isProtected (c.pline * 128 + off + bs.length - 1) then (.fault clsProt, s)
    else
      let (room, s) := match old with | some o => s.moveSlot w.core o vline | none => s.makeSlot w.core 0 vline
      if !room then (.wait, s)
      else
        let s := s.dropCopies w.core (fun x => (x.cache == 0 && old == some x) || (1 ≤ x.cache && x.pline == c.pline))
        (.ok 0, s.setCopy w.core (c.store off bs s.cycle))
  match s.copyOf w.core (fun c => c.isAt 0 w.asid vline) with
  | some c => (match permFault c.perms needW w.sys 0 with
      | some f => (.fault f, s)
      | none => put s (some c) c)
  | none =>
    match s.access w (vline * 128) needW 0 with
    | (.wait, s) => (.wait, s)
    | (.fault f, s) => (.fault f, s)
    | (.hit pa perms, s) =>
      let line := pa / 128
      if isWindow pa then (.remote (pa + off), s)
      else match s.l1Of w.core line with
        | some c =>
          put s (some c) { c with asid := w.asid, vline := vline, perms := perms }
        | none =>
          if !isHbm pa && s.goPending line then (.wait, s)
          else
            let c : Copy := { cache := 0, asid := w.asid, vline := vline, pline := line, perms := perms,
                              data := s.lineBytes line, dirty := 0, dirtySince := 0, wts := 0, rts := 0, epoch := noEpoch,
                              hostMem := !isHbm pa, poison := 0, authors := [] }
            put s none c

/-- The store that wrote bytes of a line which stand dirty in the L1 signs them. -/
def State.signPiece (s : State) (w : Who) (x : Author) (va n : Nat) : State :=
  match s.copyOf w.core (fun c => c.isAt 0 w.asid (va / 128)) with
  | none => s
  | some c =>
    if !allDirty c (byteMask va n) then s
    else
      let a : Author := { x with va := va, off := va % 128, size := n, data := ofLe ((c.data.drop (va % 128)).take n) }
      let rest := c.authors.filter (fun b => !(decide (a.off ≤ b.off) && decide (b.off + b.size ≤ a.off + a.size)))
      s.setCopy w.core { c with authors := a :: rest }

/-- A weak store of bytes (R158). -/
def State.weakStore (s : State) (w : Who) (va : Nat) (bs : List Byte) : MemR × State :=
  readPieces (fun s a n => s.weakStorePiece w a ((bs.drop (a - va)).take n)) (pieces va bs.length) s 0 0

/-- The pages' lines that an access of a strand has just read at their homes return their wts (R410). -/
def State.noteRead (s : State) (w : Who) (va n : Nat) : State :=
  forEach (pieces va n) s (fun s p => match (s.translate w p.1).1 with
    | .hit pa _ => if s.isHolder w.sid (pa / 128) then s else s.noteWts (pa / 128) w.core
    | _ => s)

/-- A read performed at the home (R181) for a core: its L1's dirty bytes of the line are performed first. The holder of the
line's lease reads its L1 copy (R167). -/
def State.strongRead (s : State) (w : Who) (va n p : Nat) : MemR × State :=
  readPieces (fun s a k =>
    match s.access w a needR p with
    | (.wait, s) => (.wait, s)
    | (.fault f, s) => (.fault f, s)
    | (.hit pa _, s) =>
      let line := pa / 128
      if isWindow pa then (.remote pa, s)
      else if s.isHolder w.sid line then s.weakRead w 0 a k p
      else
        let (done, s) := s.writeBack w.core line
        if !done || s.homeWaits line w.sid false || s.goPending line then (.wait, s.noteBlocked line (some w.core))
        else
          let s := if isHbm pa then s.llcRead line else s
          if s.poisoned pa k then (.fault clsUncorr, s) else (.ok (s.numAt pa k), s)) (pieces va n) s 0 0

/-- The write of a maker of accesses at its home: of an engine from the logical time of its core, which it leaves as it is (R411: the
write is the engine's, and R196 lets the core's older copies stand; log 51). -/
def State.writeOf (s : State) (w : Who) (ws : List (Nat × Byte)) : State :=
  s.homeWriteFrom ws (s.ltOf (some w.core)) (if w.sid.isSome then some w.core else none)

/-- The latest wts of the lines that n bytes lie in. -/
def State.wtsAt (s : State) (w : Who) (va n : Nat) : Nat :=
  (pieces (va % 2 ^ 56) n).foldl (fun m p => match (s.translate w p.1).1 with
    | .hit pa _ => if isHbm pa then max m (s.wr (pa / 128)).1 else m
    | _ => m) 0

/-- A write performed at the home (R181); p says what it asks of a packed page. -/
def State.homeStore (s : State) (w : Who) (va : Nat) (bs : List Byte) (p : Nat) : MemR × State :=
  readPieces (fun s a n =>
    let mine := (bs.drop (a - va)).take n
    match s.access w a needW p with
    | (.wait, s) => (.wait, s)
    | (.fault f, s) => (.fault f, s)
    | (.hit pa _, s) =>
      let line := pa / 128
      if isWindow pa then (.remote pa, s)
      else if s.isProtected pa || s.isProtected (pa + n - 1) then (.fault clsProt, s)
      else if s.isHolder w.sid line then s.weakStorePiece w a mine
      else
        let (done, s) := s.writeBack w.core line
        if !done || s.goPending line || s.writeBlocked line w.sid (some w.core) false false then
          (.wait, s.noteBlocked line (some w.core))
        else (.ok 0, s.writeOf w (cellsOf pa mine))) (pieces va bs.length) s 0 0

/-- A strong store (R158, R181). -/
def State.strongWrite (s : State) (w : Who) (va : Nat) (bs : List Byte) : MemR × State := s.homeStore w va bs 0

/-- An access of the 64-byte or 16-byte object at an address, or of a line, made whole at its home with the permissions
of an atomic (R164, R174, R251): the physical address once nothing stands in its way. -/
def State.atomicAt (s : State) (w : Who) (va n need : Nat) : MemR × State :=
  match s.access w va need 0 with
  | (.wait, s) => (.wait, s)
  | (.fault f, s) => (.fault f, s)
  | (.hit pa _, s) =>
    let line := pa / 128
    if isWindow pa then (.remote pa, s)
    else
      let (done, s) := s.writeBack w.core line
      if !done || s.goPending line || s.writeBlocked line w.sid (some w.core) true false then
        (.wait, s.noteBlocked line (some w.core))
      else
        let s := if isHbm pa then s.llcRead line else s
        if s.poisoned pa n then (.fault clsUncorr, s) else (.ok pa, s)

/-- A line is under the lease of a strand of the core that is not among some strands: its dirty bytes are not theirs. -/
def State.leasedBeside (s : State) (core line : Nat) (sids : List Nat) : Bool :=
  match s.holding line with | some h => h.core == core && !sids.contains h.sid | none => false

/-- A range of bytes, page by page of 64 KiB. -/
def pagesOf (va n : Nat) : List (Nat × Nat) :=
  if n = 0 then []
  else (natsFrom (va / 65536) ((va + n - 1) / 65536 + 1 - va / 65536)).map (fun p =>
    let x := max va (p * 65536)
    (x, min (va + n) (p * 65536 + 65536) - x))

/-- Where a range of bytes lies in physical memory as its pages are translated now, and whether a translation that the host still owes
leaves some of it open. -/
def State.placesOf (s : State) (w : Who) (va n : Nat) : List (Nat × Nat) × Bool :=
  (pagesOf va n).foldl (fun (l, open_) p => match (s.translate w p.1).1 with
    | .hit pa _ => ((pa, p.2) :: l, open_)
    | .wait => (l, true)
    | .fault _ => (l, open_)) ([], false)

/-- Write back the dirty bytes of a core's L1 (R173, R412), line by line, but for lines under leases of other strands than these: false
when some line must wait. -/
def State.writeBackAll (s : State) (core : Nat) (sids : List Nat) : Bool × State :=
  let ls := dedup [] (((s.core core).copies.filter (fun c => c.cache == 0 && c.dirty != 0 && !s.leasedBeside core c.pline sids)).map Copy.pline)
  forEach ls (true, s) (fun (ok, s) line =>
    let (d, s) := s.writeBack core line
    (ok && d, s))

/-- The device's own read and write of memory by virtual address of a context, without stamps of a core: engines of the
region unit, frames and records (R204, R365). The core names the cluster TLB that serves it. -/
def State.devRead (s : State) (core asid va n : Nat) (sys : Bool) : MemR × State :=
  s.strongRead ⟨core, none, asid, sys⟩ va n 2

end Sys2Proof.Machine
end

