-- ==== Sys2Proof/Machine/Tally.lean ====
section
/-! DEFINITION. Apportioned counters at their homes and in the allowance tables of the cores (R251 to R261): the home
block's fields, quantity and range requests, recall rounds, returns and exact reads, each served whole. -/

namespace Sys2Proof.Machine

/-! ## The home block (R251) -/

def ctrMax : Nat := 2 ^ 48 - 1

def State.blk (s : State) (pa : Nat) : Nat := s.numAt pa 64
/-- The home writes its block. -/
def State.setBlk (s : State) (pa x : Nat) : State := s.homeWrite (cellsOf pa (leBytes 64 x)) none

def blkKind (x : Nat) : Nat := bits x 1 0
def blkSys (x : Nat) : Bool := bit x 2
def blkGrain (x : Nat) : Nat := bits x 95 64
def blkCap (x : Nat) : Nat := bits x 127 96
def blkRn (x : Nat) : Nat := bits x 175 128
def blkEnd (x : Nat) : Nat := bits x 239 192
def blkPhead (x : Nat) : Nat := bits x 263 256
def blkPcnt (x : Nat) : Nat := bits x 271 264
def blkPark (x : Nat) : Nat := bits x 503 448
def blkSetRn (x v : Nat) : Nat := setBits x 175 128 v
def blkSetHolders (x v : Nat) : Nat := setBits x 23 16 v
/-- FAILS and ROUNDS count up and stop at 2^32 - 1. -/
def blkFail (x : Nat) : Nat := setBits x 383 352 (min (bits x 383 352 + 1) (2 ^ 32 - 1))
def blkRound (x : Nat) : Nat := setBits x 351 320 (min (bits x 351 320 + 1) (2 ^ 32 - 1))

/-- RESERVE + n under R254, with whether it was cut off. -/
def blkAdd (x n : Nat) : Nat × Bool :=
  let v := blkRn x + n
  if ctrMax < v then (setBits (blkSetRn x ctrMax) 3 3 1, true) else (blkSetRn x v, false)

/-! ## Allowance tables (R253) -/

/-- The number of the counter's present initialisation (R259). -/
def State.ctrInit (s : State) (pa : Nat) : Nat := match kvGet none s.homes.ctrs pa with | some h => h.init | none => 0

def State.allowOf (s : State) (core pa : Nat) : Option Allow := (s.core core).allow.find? (fun a => a.block == pa)
/-- Replace a core's entry for a counter, most recently used; none removes it. -/
def State.setAllow (s : State) (core pa : Nat) (a : Option Allow) : State :=
  let front : List Allow := match a with
    | some a => [a]
    | none => []
  s.modCore core (fun x => { x with allow := front ++ x.allow.filter (fun b => b.block != pa) })

/-- Cores that hold an entry for a counter, ascending by die and core, apart from one. -/
def State.holdersBut (s : State) (pa : Nat) (but : Option Nat) : List Nat :=
  (s.cores.filter (fun p => some p.1 != but && p.2.allow.any (fun a => a.block == pa))).map Prod.fst

/-- The amount or remainder of an entry. -/
def Allow.left (a : Allow) : Nat := if a.range then a.hi - a.lo else a.lo

/-- The return of an entry of a core, an amount or a piece, with the initialisation that it came from (R259). -/
def Allow.back (a : Allow) (core : Nat) : Instr := .counterReturn core a.block a.init a.range

/-- An entry is to go back to its home (R259): from now on the core takes nothing from it, and its return is on its way. -/
def State.returnAllow (s : State) (core : Nat) (a : Allow) : State :=
  if a.returning then s
  else
    let mark (b : Allow) : Allow := if b.block = a.block then { b with returning := true } else b
    (s.modCore core (fun x => { x with allow := x.allow.map mark })).push (a.back core)

/-- Every entry of a core that satisfies a test is to go back. -/
def State.returnAllows (s : State) (core : Nat) (p : Allow → Bool) : State :=
  forEach ((s.core core).allow.filter p) s (fun s a => s.returnAllow core a)

/-- The home event that serves a thread's request. -/
def ctrEvent (r : Raw) (sid slot t : Nat) : Instr :=
  match r.op.toNat with
  | 0xB0 => .homeCtinit sid slot t
  | 0xB1 => if r.f = 0#3 then .homeQuantityTake sid slot t else .homeRangeTake sid slot t
  | 0xB2 => .giveFlush sid slot t
  | _ => .exactRead sid slot t

/-- An access is a counter operation's request on its way to its home, or there (R255). -/
def Acc.sentTo (a : Acc) (pa : Nat) : Bool := a.status == 5 && a.data2 == pa

/-- A counter instruction. -/
def LogEnt.counts (e : LogEnt) : Bool := 0xB0 ≤ e.raw.op.toNat && e.raw.op.toNat ≤ 0xB5

/-- The requests at the home of a counter, in order (R255). -/
def State.ctrQueue (s : State) (pa : Nat) : List CtrReq := kvGet [] s.homes.ctrqs pa
def State.setCtrQueue (s : State) (pa : Nat) (q : List CtrReq) : State :=
  { s with homes := { s.homes with ctrqs := kvSet [] s.homes.ctrqs pa q } }

/-- Access got of a thread of an append that waits for its block at a counter, whose address is in got2. -/
def waitCtr : Nat := 2
/-- A thread of an append waits for its block at a counter (R224, R271). -/
def Acc.takesAt (a : Acc) (pa : Nat) : Bool := a.status == 0 && a.got == waitCtr && a.got2 == pa
def LogEnt.appends (e : LogEnt) : Bool := e.raw.op == 0xC2#8

/-- A request of the device itself through a core's allowance (R271), and one that is a take. -/
def State.ownReq (s : State) (core : Nat) (q : CtrReq) : Bool :=
  match q with
  | .append sid _ _ | .leave sid _ => (s.strand sid).core == core
  | .engine c _ => c == core
  | _ => false
def State.ownTake (s : State) (core : Nat) (q : CtrReq) : Bool := s.ownReq core q && q != .engine core 0

/-- A counter operation of the core has a request for the counter on its way. -/
def State.ctrSent (s : State) (core pa : Nat) : Bool :=
  s.allStrands.any (fun p => p.2.core == core && p.2.log.any (fun q => q.2.counts && q.2.accs.any (fun a => a.sentTo pa)))
    || (s.ctrQueue pa).any (s.ownReq core)

/-- A counter operation of the core on the counter, earlier in its issue order, has passed the gate and is not complete, or an
append takes its block (R272). CTPEEK holds nothing back. -/
def State.ctrEarlier (s : State) (core pa seq : Nat) : Bool :=
  s.allStrands.any (fun p => p.2.core == core && p.2.log.any (fun q =>
    decide (q.2.seq < seq) && q.2.raw.op != 0xB4#8 && ((q.2.appends && q.2.accs.any (fun a => a.takesAt pa))
      || (q.2.counts && q.2.accs.any (fun a => a.data2 == pa && ((a.status == 0 && a.got2 == 1) || a.status == 5))))))

/-- Takes on their way for which their core has no entry yet and will need one, as counter and pool (R253). -/
def State.awaited (s : State) (core : Nat) : List (Nat × Nat) :=
  s.allStrands.flatMap (fun p => if p.2.core ≠ core then [] else p.2.log.flatMap (fun q =>
    if q.2.raw.op ≠ 0xB1#8 then []
    else (q.2.accs.filter (fun a => a.status == 5 && (s.allowOf core a.data2).isNone)).map (fun a =>
      (a.data2, (s.regionOf p.2).pool))))

/-- Room on a core for one more entry of a pool (R253, R354); where there is none, the pool's or the table's least recently used
entry goes back first, and the asker waits. -/
def State.allowRoom (s : State) (core pool : Nat) : Bool × State :=
  let table := (s.core core).allow
  let lim := (s.region pool).rcb.atsb
  let w := s.awaited core
  let mine := table.filter (fun a => a.pool == pool)
  let spent := lim ≠ 0 ∧ lim ≤ mine.length + (w.filter (fun q => q.2 == pool)).length
  if !spent && decide (table.length + w.length < 256) then (true, s)
  else
    let from_ := if spent then mine else table
    if from_.any Allow.returning then (false, s)
    else match (from_.filter (fun a => !a.frozen && !s.ctrSent core a.block)).getLast? with
      | some a => (false, s.returnAllow core a)
      | none => (false, s)

/-- The core has an entry for the counter, or room for one. -/
def State.entryReady (s : State) (core pa pool : Nat) : Bool × State :=
  if (s.allowOf core pa).isSome then (true, s) else s.allowRoom core pool

/-- A core's entry for a counter, made with nothing in it where there was none. -/
def State.needAllow (s : State) (core pa : Nat) (range : Bool) (asid pool : Nat) : Allow × State :=
  match s.allowOf core pa with
  | some a => (a, s.setAllow core pa (some a))
  | none =>
    let a : Allow := { block := pa, range := range, lo := 0, hi := 0, asid := asid, init := s.ctrInit pa, pool := pool,
                       frozen := false, returning := false }
    (a, s.setAllow core pa (some a))

/-- Freeze or unfreeze a core's entry. -/
def State.freeze (s : State) (core pa : Nat) (b : Bool) : State :=
  s.modCore core (fun x => { x with allow := x.allow.map (fun a => if a.block = pa then { a with frozen := b } else a) })

/-- The entry is frozen (R258). -/
def State.isFrozen (s : State) (core pa : Nat) : Bool :=
  match s.allowOf core pa with | some a => a.frozen | none => false

/-- The core may not act on its entry now: it is frozen, or on its way back. -/
def State.isStill (s : State) (core pa : Nat) : Bool :=
  match s.allowOf core pa with | some a => a.frozen || a.returning | none => false

/-- A request that runs a recall round or an exact read holds the home (R255). -/
def State.ctrRecalling (s : State) (pa : Nat) : Option (Nat × Nat × Nat) :=
  match kvGet none s.homes.ctrs pa with | some h => h.recalling | none => none
/-- Change what the home keeps of a counter. -/
def State.modCtr (s : State) (pa : Nat) (f : CtrHome → CtrHome) : State :=
  match kvGet none s.homes.ctrs pa with
  | some h => { s with homes := { s.homes with ctrs := kvSet none s.homes.ctrs pa (some (f h)) } }
  | none => s
def State.setRecalling (s : State) (pa : Nat) (r : Option (Nat × Nat × Nat)) : State :=
  s.modCtr pa (fun h => { h with recalling := r })

/-- The core has a take for the counter on its way to the home (R256). -/
def State.sentFrom (s : State) (core pa : Nat) : Bool :=
  s.allStrands.any (fun p => p.2.core == core && p.2.log.any (fun q =>
    q.2.raw.op == 0xB1#8 && q.2.accs.any (fun a => a.sentTo pa)))
    || (s.ctrQueue pa).any (s.ownTake core)

/-- The counters for which a strand has takes on their way. -/
def Strand.takesSent (st : Strand) : List Nat :=
  dedup [] (st.log.flatMap (fun q => if q.2.raw.op = 0xB1#8 then (q.2.accs.filter (fun a => a.status == 5)).map Acc.data2 else []))

/-- Takes of a core are no more (R363): an entry that nothing else freezes is unfrozen. -/
def State.thaw (s : State) (core : Nat) (pas : List Nat) : State :=
  forEach pas s (fun s pa => if s.sentFrom core pa || (s.ctrRecalling pa).isSome then s else s.freeze core pa false)

/-- The end of a request (R255): cores that took part and hold nothing are released, HOLDERS counts the rest, every
entry is unfrozen that no take of its own core still freezes. -/
def State.endRequest (s : State) (pa : Nat) (parts : List Nat) : State :=
  let s := forEach parts s (fun s c => match s.allowOf c pa with
    | some a => if a.left = 0 then s.setAllow c pa none else s
    | none => s)
  let hs := s.holdersBut pa none
  let s := forEach hs s (fun s c => s.freeze c pa (s.sentFrom c pa))
  (s.setBlk pa (blkSetHolders (s.blk pa) hs.length)).setRecalling pa none

/-! ## The order of requests at the home (R255) -/

/-- A request that has arrived is still to be served: what made it has not gone since. -/
def State.ctrOpen (s : State) (pa : Nat) (q : CtrReq) : Bool :=
  let entry (sid slot : Nat) : Option LogEnt := kvFind (s.strand sid).log slot
  match q with
  | .thread sid slot t => (match entry sid slot with
      | some e => e.counts && e.accs.any (fun a => a.thread == t && a.sentTo pa)
      | none => false)
  | .back core => (match s.allowOf core pa with | some a => a.returning | none => false)
  | .growth sid slot => (match entry sid slot with
      | some e => e.accs.any (fun a => a.status == 2 && a.cls == clsHeap)
      | none => false)
  | .topup => true
  | .act _ _ => true
  | .append sid slot t => (match entry sid slot with
      | some e => e.appends && e.accs.any (fun a => a.thread == t && a.takesAt pa)
      | none => false)
  | .leave sid pc =>
    let st := s.strand sid
    st.life == .resident && st.pc.toNat == pc && st.trap.isNone && !st.hostHeld
  | .engine core key =>
    if key = 0 then !(s.core core).gives.isEmpty else !(kvGet [] s.experts.queues (dieOf core * 2 + (key - 1))).isEmpty

/-- Requests leave their places at a home, and entries that only they froze are unfrozen. -/
def State.ctrDrop (s : State) (pa : Nat) (gone : CtrReq → Bool) : State :=
  let q := s.ctrQueue pa
  let out := q.filter gone
  let s := if out.isEmpty then s else s.setCtrQueue pa (q.filter (fun r => !gone r))
  forEach (s.cores.filter (fun c => out.any (s.ownTake c.1))) s (fun s c => s.thaw c.1 [pa])

/-- Requests that have gone leave their places; one that held the home does so no longer. -/
def State.ctrTidy (s : State) (pa : Nat) : State :=
  let s := s.ctrDrop pa (fun q => !s.ctrOpen pa q)
  match s.ctrRecalling pa with
  | some (sid, slot, t) =>
    if s.ctrOpen pa (.thread sid slot t) then s else (s.setBlk pa (setBits (s.blk pa) 4 4 0)).endRequest pa []
  | none => s

/-- A request arrives, or is looked at again: it takes its place, and is served when it is the first. -/
def State.ctrTurn (s : State) (pa : Nat) (q : CtrReq) : Bool × State :=
  let s := s.ctrTidy pa
  let queue := if (s.ctrQueue pa).contains q then s.ctrQueue pa else s.ctrQueue pa ++ [q]
  (queue.head? == some q, s.setCtrQueue pa queue)

/-- A request is complete, and the next goes on. -/
def State.ctrLeave (s : State) (pa : Nat) (q : CtrReq) : State :=
  let s := s.setCtrQueue pa ((s.ctrQueue pa).filter (· != q))
  match (s.ctrQueue pa).head? with
  | some (.thread sid slot t) => (match kvFind (s.strand sid).log slot with
      | some e => s.push (ctrEvent e.raw sid slot t)
      | none => s)
  | some (.back core) => (match s.allowOf core pa with
      | some a => s.push (a.back core)
      | none => s)
  | _ => s

/-- What an engine of a core had asked at homes is dropped with its work. -/
def State.ctrForget (s : State) (core key : Nat) : State :=
  forEach (s.homes.ctrqs.map Prod.fst) s (fun s pa => s.ctrDrop pa (· == .engine core key))

/-- A request of the device itself for a core takes its place at the home (R255); while a take waits there, the core's entry is
frozen (R256). It may be served when none is there before it and the line is free. -/
def State.homeTurn (s : State) (pa core : Nat) (q : CtrReq) : Bool × State :=
  let (turn, s) := s.ctrTurn pa q
  let still (s : State) : State := if s.ownTake core q && (s.allowOf core pa).isSome then s.freeze core pa true else s
  if !turn then (false, still s)
  else if s.writeBlocked (pa / 128) none (some core) true false then (false, still (s.noteBlocked (pa / 128) (some core)))
  else (true, s.setCtrQueue pa ((s.ctrQueue pa).filter (· != q)))

/-! ## Recall rounds (R258) -/

/-- Insert by descending amount, keeping the order of equals. -/
def insertDesc (x : Nat × Nat) (l : List (Nat × Nat)) : List (Nat × Nat) :=
  match l with
  | [] => [x]
  | y :: t => if y.2 < x.2 then x :: y :: t else y :: insertDesc x t
/-- Reports in descending order of amount; ties stay in ascending order of core. -/
def sortDesc (l : List (Nat × Nat)) : List (Nat × Nat) := forEach l [] (fun acc x => insertDesc x acc)

/-- The amounts that holders report, those of an earlier initialisation as 0 (R259). -/
def State.reports (s : State) (pa : Nat) (but : Option Nat) : List (Nat × Nat) :=
  sortDesc ((s.holdersBut pa but).map (fun c =>
    (c, match s.allowOf c pa with | some a => if a.init = s.ctrInit pa then a.left else 0 | none => 0)))

/-- Take from a core's amount into RESERVE. A recall that takes units counts as a use of the entry (R253; DESIGN CHOICE, log 54). -/
def State.pull (s : State) (pa core n : Nat) : State :=
  match s.allowOf core pa with
  | some a => (s.setAllow core pa (some { a with lo := a.lo - n })).setBlk pa (blkAdd (s.blk pa) n).1
  | none => s

/-- A quantity round: half of each amount in order, then whole amounts, until RESERVE covers the need. -/
def State.quantityRound (s : State) (pa need : Nat) (but : Option Nat) : State :=
  let rs := s.reports pa but
  let s := forEach rs s (fun s r => if need ≤ blkRn (s.blk pa) then s else s.pull pa r.1 (r.2 / 2))
  let s := forEach rs s (fun s r => if need ≤ blkRn (s.blk pa) then s else s.pull pa r.1 (r.2 - r.2 / 2))
  s.setBlk pa (blkRound (s.blk pa))

/-- A range round: the largest remainder gives its upper half, or its last index; none when no holder has any. -/
def State.rangeRound (s : State) (pa : Nat) (but : Option Nat) : Option (Nat × Nat) × State :=
  let s' := s.setBlk pa (blkRound (s.blk pa))
  match s.reports pa but with
  | (c, r) :: _ => (match s.allowOf c pa with
      | some a =>
        if r = 0 then (none, s')
        else
          let cut := if r = 1 then a.lo else a.hi - r / 2
          (some (cut, a.hi), s'.setAllow c pa (some { a with hi := cut }))
      | none => (none, s'))
  | [] => (none, s')

/-! ## Requests served at the home (R256, R257, R261), each whole -/

/-- A quantity take of n for a core: whether it succeeded. -/
def State.serveQuantity (s : State) (core pa n asid pool : Nat) : Bool × State :=
  let (a, s) := s.needAllow core pa false asid pool
  let have_ := a.lo
  let need := n - have_
  let others := s.holdersBut pa (some core)
  let round := blkRn (s.blk pa) < need ∧ others ≠ []
  let s := if round then s.quantityRound pa need (some core) else s
  let x := s.blk pa
  let grain := max (blkGrain x) 1
  let parts := if round then core :: others else [core]
  if need ≤ blkRn x then
    let g := min (blkRn x) (grain * ((need + grain - 1) / grain))
    let s := (s.setBlk pa (blkSetRn x (blkRn x - g))).setAllow core pa (some { a with lo := have_ + g - n })
    (true, s.endRequest pa parts)
  else (false, (s.setBlk pa (blkFail x)).endRequest pa parts)

/-- A piece for a range take of n by a core: the park's oldest, a fresh one, or one from a recall round. -/
def State.findPiece (s : State) (core pa n : Nat) : Option (Nat × Nat) × List Nat × State :=
  let x := s.blk pa
  if 0 < blkPcnt x then
    let slot := blkPark x + 16 * blkPhead x
    let s := if isHbm slot then s.llcRead (slot / 128) else s
    let lo := s.numAt slot 8 % 2 ^ 48
    let hi := s.numAt (slot + 8) 8 % 2 ^ 48
    let x := setBits (setBits x 263 256 ((blkPhead x + 1) % 192)) 271 264 (blkPcnt x - 1)
    (some (lo, hi), [core], s.setBlk pa x)
  else if blkRn x < blkEnd x then
    let grain := max (blkGrain x) 1
    let g := min (blkEnd x - blkRn x) (grain * ((n + grain - 1) / grain))
    (some (blkRn x, blkRn x + g), [core], s.setBlk pa (blkSetRn x (blkRn x + g)))
  else
    let others := s.holdersBut pa (some core)
    if others = [] then (none, [core], s)
    else let (p, s) := s.rangeRound pa (some core)
      (p, core :: others, s)

/-- What a range take that finds nothing returns. -/
def noPiece : Nat × Nat := (2 ^ 64 - 1, 0)

/-- A range take of n for a core: base and count. -/
def State.serveRange (s : State) (core pa n asid pool : Nat) : (Nat × Nat) × State :=
  let (a, s) := s.needAllow core pa true asid pool
  if 0 < a.hi - a.lo then
    let k := min n (a.hi - a.lo)
    ((a.lo, k), (s.setAllow core pa (some { a with lo := a.lo + k })).endRequest pa [core])
  else
    let (p, parts, s) := s.findPiece core pa n
    match p with
    | some (lo, hi) =>
      let k := min n (hi - lo)
      ((lo, k), (s.setAllow core pa (some { a with lo := lo + k, hi := hi })).endRequest pa parts)
    | none => (noPiece, (s.setBlk pa (blkFail (s.blk pa))).endRequest pa parts)

/-- The home applies a return (R259). -/
def State.applyReturn (s : State) (pa lo hi : Nat) (range : Bool) : State :=
  let x := s.blk pa
  if !range then s.setBlk pa (blkAdd x lo).1
  else if hi ≤ lo then s
  else if hi = blkRn x then s.setBlk pa (blkSetRn x lo)
  else if blkPark x ≠ 0 then
    let slot := blkPark x + 16 * ((blkPhead x + blkPcnt x) % 192)
    (s.devPut slot (leBytes 8 lo ++ leBytes 8 hi)).setBlk pa (setBits x 271 264 (blkPcnt x + 1))
  else s.setBlk pa (setBits x 431 384 (bits x 431 384 + (hi - lo)))

/-- The lengths of parked pieces. -/
def State.parkedIn (s : State) (x n : Nat) : Nat :=
  match n with
  | 0 => 0
  | n + 1 =>
    let slot := blkPark x + 16 * ((blkPhead x + n) % 192)
    (s.numAt (slot + 8) 8 % 2 ^ 48 - s.numAt slot 8 % 2 ^ 48) + s.parkedIn x n

/-- An exact read (R261): V with every holder's amount recalled, or the number of unissued indices. -/
def State.serveExact (s : State) (pa : Nat) : Nat × State :=
  let hs := s.holdersBut pa none
  let s := if hs = [] then s else s.setBlk pa (blkRound (s.blk pa))
  if blkKind (s.blk pa) = 1 then
    let s := forEach (s.reports pa none) s (fun s r => s.pull pa r.1 r.2)
    let s := forEach hs s (fun s c => s.setAllow c pa none)
    (blkRn (s.blk pa), s.endRequest pa [])
  else
    let x := s.blk pa
    let rem := (s.reports pa none).foldl (fun n r => n + r.2) 0
    ((blkEnd x - blkRn x) + s.parkedIn x (blkPcnt x) + rem, s.endRequest pa hs)

/-- Add an amount to RESERVE (R266): whether it was cut off. -/
def State.serveAdd (s : State) (pa n : Nat) : Bool × State :=
  let (x, cut) := blkAdd (s.blk pa) n
  (cut, s.setBlk pa x)

/-- What an engine's take or give through a core's allowance comes to (R271): nothing yet, or done, well or not. -/
inductive TakeR where
  | wait
  | ok
  | fail
  deriving DecidableEq, Repr

/-- A request of the device itself may not act now: the core's entry is still, or others of the core are on their way; what froze
it for itself goes on. -/
def State.engineHeld (s : State) (core pa : Nat) (q : CtrReq) : Bool :=
  !(s.ctrQueue pa).contains q && (s.isStill core pa || s.ctrSent core pa)

/-- An engine's take of n from a quantity counter for a core (R256, R271). -/
def State.engineTake (s : State) (q : CtrReq) (core pa n asid pool : Nat) : TakeR × State :=
  if s.engineHeld core pa q then (.wait, s)
  else
    let near := match s.allowOf core pa with
      | some a => if n ≤ a.lo && !(s.ctrQueue pa).contains q then some a else none
      | none => none
    match near with
    | some a => (.ok, s.setAllow core pa (some { a with lo := a.lo - n }))
    | none => match s.entryReady core pa pool with
      | (false, s) => (.wait, s)
      | (true, s) => match s.homeTurn pa core q with
        | (false, s) => (.wait, s)
        | (true, s) =>
          let (ok, s) := s.serveQuantity core pa n asid pool
          (if ok then .ok else .fail, s.ctrLeave pa q)

/-- An engine's take of one index from a range counter for a core (R257, R271): the base of the piece that it takes. -/
def State.enginePick (s : State) (q : CtrReq) (core pa asid pool : Nat) : TakeR × Nat × State :=
  if s.engineHeld core pa q then (.wait, 0, s)
  else
    let near := match s.allowOf core pa with
      | some a => if a.lo < a.hi && !(s.ctrQueue pa).contains q then some a else none
      | none => none
    match near with
    | some a => (.ok, a.lo, s.setAllow core pa (some { a with lo := a.lo + 1 }))
    | none => match s.entryReady core pa pool with
      | (false, s) => (.wait, 0, s)
      | (true, s) => match s.homeTurn pa core q with
        | (false, s) => (.wait, 0, s)
        | (true, s) =>
          let ((base, n), s) := s.serveRange core pa 1 asid pool
          (if n = 0 then .fail else .ok, base, s.ctrLeave pa q)

/-- An engine's give of n through a core's entry (R266, R271): what exceeds CAP goes to the home. -/
def State.engineGive (s : State) (q : CtrReq) (core pa n asid pool : Nat) : TakeR × State :=
  if s.engineHeld core pa q then (.wait, s)
  else match s.entryReady core pa pool with
    | (false, s) => (.wait, s)
    | (true, s) =>
      let have_ := match s.allowOf core pa with | some a => a.lo | none => 0
      let cap := blkCap (s.blk pa)
      if have_ + n ≤ cap then
        let (a, s) := s.needAllow core pa false asid pool
        (.ok, s.setAllow core pa (some { a with lo := have_ + n }))
      else match s.homeTurn pa core q with
        | (false, s) => (.wait, s)
        | (true, s) =>
          let (a, s) := s.needAllow core pa false asid pool
          let (cut, s) := (s.setAllow core pa (some { a with lo := cap })).serveAdd pa (have_ + n - cap)
          (if cut then .fail else .ok, (s.endRequest pa [core]).ctrLeave pa q)

/-! ## Power leave (R271, R282) -/

/-- The power counter of a core's die (R451). -/
def State.powerBlock (s : State) (core : Nat) : Nat := s.reg 0xA01 % 2 ^ 56 + 64 * dieOf core

/-- The leave that the commands and entries of a die hold, and what ended ones have still to give back. -/
def State.leaveOut (s : State) (die : Nat) : Nat :=
  s.cores.foldl (fun n p => if dieOf p.1 = die then
    n + (p.2.mq.map MEnt.leave).sum + (p.2.cq.map CCmd.leave).sum + (p.2.gives.map Prod.fst).sum else n) 0

/-- V of a quantity counter: RESERVE and every holder's amount (R251). -/
def State.ctrV (s : State) (pa : Nat) : Nat :=
  blkRn (s.blk pa) + (s.holdersBut pa none).foldl (fun n c => n + (match s.allowOf c pa with | some a => a.left | none => 0)) 0

/-- An extension by n would bring a power counter with the leave held above LMAX (R453). -/
def State.overLmax (s : State) (pa n : Nat) : Bool :=
  [0, 1].any (fun d => pa == s.powerBlock (96 * d) && decide (Config.fuseLmax.toNat < s.ctrV pa + s.leaveOut d + n))

/-- A pool's leave held changes by so much (R354). -/
def State.holdLeave (s : State) (pool : Nat) (d : Int) : State :=
  let r := s.region pool
  s.setRegion pool { r with leaveHeld := ((r.leaveHeld : Int) + d).toNat }

/-- Take leave for the instruction that a strand is to issue (R282, R354): a take that fails is repeated 1,024 cycles later, and one
that waits is looked at again 64 cycles later. A power counter that is not initialised fails it. -/
def State.takeLeave (s : State) (sid n asid pool : Nat) : Bool × State :=
  let st := s.strand sid
  let pa := s.powerBlock st.core
  let q : CtrReq := .leave sid st.pc.toNat
  let later (s : State) (k : Nat) : Bool × State := (false, s.modStrand sid (fun st => { st with stallUntil := s.cycle + k }))
  if n = 0 then (true, s)
  else if (s.region pool).rcb.leaveb < (s.region pool).leaveHeld + n ∨ blkKind (s.blk pa) ≠ 1 then later (s.ctrDrop pa (· == q)) 1024
  else match s.engineTake q st.core pa n asid pool with
    | (.ok, s) => (true, s.holdLeave pool n)
    | (.wait, s) => later s 64
    | (.fail, s) => later s 1024

/-- Give back what ended commands of a core have still to give, in order, as far as the power counter takes it now (R282); one
that is not initialised takes nothing. -/
def State.flushGives (s : State) (core : Nat) : State :=
  let pa := s.powerBlock core
  forEach (s.core core).gives s (fun s _ => match (s.core core).gives with
    | [] => s
    | g :: rest =>
      let gone (s : State) : State := (s.modCore core (fun c => { c with gives := rest })).holdLeave g.2.2 (-(g.1 : Int))
      if blkKind (s.blk pa) ≠ 1 then gone (s.ctrDrop pa (· == .engine core 0))
      else match s.engineGive (.engine core 0) core pa g.1 g.2.1 g.2.2 with
        | (.wait, s) => s
        | (_, s) => gone s)

/-- Give leave back at the end of a command (R282). -/
def State.giveLeave (s : State) (core n asid pool : Nat) : State :=
  if n = 0 then s else (s.modCore core (fun c => { c with gives := c.gives ++ [(n, asid, pool)] })).flushGives core

end Sys2Proof.Machine
end

