-- ==== Sys2Proof/Machine/Lifecycle.lean ====
section
/-! DEFINITION. Ends: fault and error records (R365, R435), the ends of leases and guards (R167, R176), of strands,
cohorts and regions (R138, R139, R366), JOIN (R151), termination (R363). -/

namespace Sys2Proof.Machine

/-! ## Records (R365, R435) -/

/-- The class value of a termination that no class caused. -/
def noClass : Nat := 0x1F

/-- The device may write n bytes at a physical address now; what it must wait for is set going. -/
def State.devFree (s : State) (pa n : Nat) : Bool × State :=
  if (linesOf pa n).any s.devWaits then (false, forEach (linesOf pa n) s State.noteDev) else (true, s)

/-- Write a record into the error area at ERRBASE and send the vector (R435): false when it must wait at a home. -/
def State.errorArea (s : State) (rec_ : List Byte) (vec : Nat) : Bool × State :=
  let base := s.reg 0x9C0 % 2 ^ 56
  if base = 0 then (true, s.vector vec)
  else
    let n := s.numAt base 8
    let at_ := base + 64 + 64 * (n % 63)
    match s.devFree base 8 with
    | (false, s) => (false, s)
    | (true, s) => (match s.devFree at_ 64 with
        | (false, s) => (false, s)
        | (true, s) => (true, ((s.devPut at_ rec_).devPut base (leBytes 8 (n + 1))).vector vec))

/-- Where the device itself writes n bytes of a context, which lie in one page (R365). -/
inductive DevAt where
  | wait
  | at (pa : Nat)
  | none
  deriving DecidableEq, Repr

/-- Look for that place: none where no translation, permission or home admits the write. -/
def State.devPlace (s : State) (w : Who) (va n : Nat) : DevAt × State :=
  match s.access w va needW 2 with
  | (.wait, s) => (.wait, s)
  | (.fault _, s) => (.none, s)
  | (.hit pa _, s) =>
    if isWindow pa || s.isProtected pa || s.isProtected (pa + n - 1) then (.none, s)
    else match s.devFree pa n with
      | (true, s) => (.at pa, s)
      | (false, s) => (.wait, s)

/-- Write a record into a fault-record area of a context (R365): false when it must wait, for the host's translation or at a
home; what it has set going there stands. -/
def State.areaRecord (s : State) (core asid area : Nat) (rec_ : List Byte) (vec : Nat) : Bool × State :=
  if area = 0 then (true, s.vector vec)
  else if area = errArea then s.errorArea rec_ vec
  else
    let w : Who := ⟨core, none, asid, true⟩
    match s.strongRead w area 8 2 with
    | (.wait, s) => (false, s)
    | (.ok n, s) =>
      (match s.devPlace w (area + 64 + 64 * (n % 63)) 64 with
        | (.wait, s) => (false, s)
        | (.none, s) => s.errorArea rec_ vec
        | (.at pa, s) => (match s.devPlace w area 8 with
            | (.wait, s) => (false, s)
            | (.none, s) => s.errorArea rec_ vec
            | (.at ca, s) => (true, ((s.devPut pa rec_).devPut ca (leBytes 8 (n + 1))).vector vec)))
    | (_, s) => s.errorArea rec_ vec

/-- Write the records that wait, in order, as far as they can be. -/
def State.flushRecords (s : State) : State :=
  let q := s.pkg.recordWait
  forEach q { s with pkg := { s.pkg with recordWait := [] } } (fun s (core, asid, area, rec_, vec) =>
    let (done, s) := if s.pkg.recordWait.isEmpty then s.areaRecord core asid area rec_ vec else (false, s)
    if done then s
    else { s with pkg := { s.pkg with recordWait := s.pkg.recordWait ++ [(core, asid, area, rec_, vec)] } })

/-- A record of a region: state is CAUSE[3:0], vec 0 for a fault record and 1 for an error record. -/
def State.record (s : State) (rid state cls fpc faddr tile strandId vec : Nat) : State :=
  let r := s.region rid
  let b := recordBytes r.rcbVa s.ns (state % 16 + cls % 32 * 16) (r.rcb.fdom % 65536 + strandId * 65536) tile fpc faddr
  let s := { s with pkg := { s.pkg with recordWait := s.pkg.recordWait ++ [(r.rcb.die * 96, r.asid, r.rcb.fdbase, b, vec)] } }
  s.flushRecords

/-- The tile of a strand's cohort. -/
def State.tileOf (s : State) (st : Strand) : Nat := if st.spawned then noTile else (s.cohort st.cid).tile

/-- A fault record for a trap of a strand that goes to the host (R201, R365). -/
def State.trapRecord (s : State) (sid cls fpc faddr : Nat) : State :=
  let st := s.strand sid
  s.record st.rid 0 cls fpc faddr (s.tileOf st) st.strandId 0

/-- An error record (R435) of a class at an address for a region. -/
def State.errorRecord (s : State) (rid : Option Nat) (cls addr : Nat) : State :=
  match rid with
  | some r => s.record r 0 cls 0 addr noTile 0 1
  | none => (s.laterRecord cls addr).flushRecords

/-! ## Leases (R166, R167, R417) -/

/-- The strand's lease on a line ends: its core sends the line's dirty bytes home, tagged with VER. -/
def State.endLease (s : State) (sid line : Nat) : State :=
  let st := s.strand sid
  match s.holding line with
  | some h =>
    let ws := match s.l1Of st.core line with | some c => dirtyCells c | none => []
    (s.setStrand sid { st with leases := st.leases.filter (· != line) }).push (.holdingEndMessage h.core line h.ver ws)
  | none => s.setStrand sid { st with leases := st.leases.filter (· != line) }

/-! ## Guards (R174 to R176) -/

/-- Drop a hold on a guard object, a write of the strand's core; stamped says that RELTIME takes the core's epoch and logical time
(R413). -/
def State.dropGuard (s : State) (sid pa : Nat) (stamped : Bool) : State :=
  let st := s.strand sid
  let x := s.numAt pa 64
  let x := if bit x 16 then setBits (setBits x 16 16 0) 63 32 0 else setBits x 15 0 (bits x 15 0 - 1)
  let x := if stamped then setBits x 97 64 (s.pkg.epoch * 2 ^ 32 + (s.core st.core).lt) else x
  let s := s.homeWrite (cellsOf pa (leBytes 64 x)) (some st.core)
  let s := s.modStrand sid (fun st => { st with guards := st.guards.filter (· != pa) })
  if (kvGet [] s.homes.guardQ pa).isEmpty then s else s.push (.guardGrant pa)

/-- The three ranges of a guard object, as base and length. -/
def guardRanges (x : Nat) : List (Nat × Nat) :=
  [(bits x 183 128, bits x 247 192), (bits x 311 256, bits x 375 320), (bits x 439 384, bits x 503 448)]

/-- Bytes of a copy were stored in a context, under whatever tag the line stands now (R381): by an author of that context, or,
where no author has signed them, under the tag. -/
def State.wroteIn (s : State) (c : Copy) (asid : Nat) (p : Nat → Nat → Bool) : Bool :=
  c.cache == 0 && c.dirty != 0 && ((c.asid == asid && p (c.vline * 128) 128)
    || c.authors.any (fun a => s.asidOf (s.strand a.sid) == asid && p a.va a.size))

/-- No write of a core to host memory waits for its global-observation message. -/
def State.goClear (s : State) (core : Nat) : Bool := !s.homes.goQueue.any (fun q => q.1 == core)

/-- Where a guard's ranges lie in physical memory; none for ranges of more than 32 pages, or while the host owes a translation of
them: then any byte written in the context may be one of theirs through an alias. -/
def State.rangePlaces (s : State) (w : Who) (x : Nat) : Option (List (Nat × Nat)) :=
  let rs := (guardRanges x).filter (fun r => r.2 != 0)
  if 32 < rs.foldl (fun n r => n + r.2 / 65536 + 1) 0 then none
  else
    let l := rs.map (fun r => s.placesOf w r.1 r.2)
    if l.any Prod.snd then none else some (l.flatMap Prod.fst)

/-- Perform the dirty bytes of a strand's core in a guard's ranges, by whatever address they were stored: false when some must wait, or
when the home has refused a store of the strand there. -/
def State.performRanges (s : State) (sid x : Nat) : Bool × State :=
  let w := s.who sid
  let places := s.rangePlaces w x
  let hit (c : Copy) : Bool := c.cache == 0 && c.dirty != 0 && !s.leasedBeside w.core c.pline [sid] && (match places with
    | none => s.wroteIn c w.asid (fun _ _ => true)
    | some l => l.any (fun p => overlaps p.1 p.2 (c.pline * 128) 128)
        || s.wroteIn c w.asid (fun va n => (guardRanges x).any (fun r => overlaps r.1 r.2 va n)))
  let ls := dedup [] (((s.core w.core).copies.filter hit).map Copy.pline)
  let (ok, s) := forEach ls (true, s) (fun (ok, s) line =>
    let (d, s) := s.writeBack w.core line
    (ok && d, s))
  (ok && !s.homes.refused.any (fun a => a.sid == sid), s)

/-- An entry of the log writes global memory: stores, CLEAN, DROP, atomics (R199). -/
def LogEnt.isWrite (e : LogEnt) : Bool :=
  let op := e.raw.op.toNat
  op == 0x91 || op == 0x95 || op == 0x96 || op == 0x99 || op == 0xC2 || op == 0xC3 || op == 0xC4

/-- An entry of the log accesses memory: no counter instruction (R272), and no collective one, whose unit does. -/
def LogEnt.accesses (e : LogEnt) : Bool := !between 0xB0 0xB5 e.raw.op.toNat && (!decide (0xD0 ≤ e.raw.op.toNat) || e.raw.op == 0xDA#8)

/-- A strong store of a strand is on its way: one to a line that it leases belongs to the lease's writes (R167). -/
def Strand.storing (st : Strand) : Bool := st.log.any (fun p => p.2.raw.op == 0x91#8 && p.2.state == 1)

/-- A region's termination is under way. -/
def Region.terminating (r : Region) : Bool :=
  match r.ending with
  | some x => decide (6 ≤ x.1)
  | none => false

/-- Drop a hold on a guard as soon as a write can be performed at its home (R167, R415, R418). -/
def State.leaveGuard (s : State) (sid pa : Nat) (stamped : Bool) : State :=
  let core := (s.strand sid).core
  if s.writeBlocked (pa / 128) none (some core) true false then s.noteBlocked (pa / 128) (some core) else s.dropGuard sid pa stamped

/-- A strand that has ended lets go of its leases once its stores on their way have joined them (R167), releases its guards as
REL would, once its writes in their ranges are performed (R176), or bare where its region is terminated (R363), and at last asks the
host for nothing. -/
def State.releaseEnded (s : State) (sid : Nat) : State :=
  let st := s.strand sid
  if st.life != .ended then s
  else
    let s := if st.storing then s else forEach st.leases s (fun s line => s.endLease sid line)
    let r := s.region st.rid
    let s := forEach st.guards s (fun s pa =>
      if r.terminating || decide (6 ≤ r.state) then s.leaveGuard sid pa false
      else if (s.strand sid).log.any (fun p => p.2.isWrite) then s
      else
        let (ok, s) := s.performRanges sid (s.numAt pa 64)
        if ok && s.goClear st.core then s.leaveGuard sid pa true else s)
    if st.log.isEmpty then s.dropAsks sid else s

/-! ## JOIN (R151, R152) -/

/-- What JOIN would write now: status and counts, or none while a child runs. -/
def State.joinResult (s : State) (st : Strand) : Option (Nat × Nat) :=
  let states := st.joins.map (fun r => (s.region r).state)
  let faulted := (states.filter (fun x => x == 6 || x == 9)).length
  let killed := (states.filter (fun x => x == 7 || x == 8)).length
  if states.any (fun x => x < 5) then none
  else if 0 < killed then some (7, faulted + killed * 2 ^ 32)
  else if 0 < faulted then some (6, faulted)
  else some (0, 0)

/-- The children of a strand that still run. -/
def State.runningChildren (s : State) (st : Strand) : Nat :=
  (st.joins.filter (fun r => (s.region r).state < 5)).length

/-- Write JOIN's results and let the strand go on. -/
def Strand.finishJoin (st : Strand) (dst status counts : Nat) : Strand :=
  let st := ((st.setS dst status).setS (dst + 1) counts).fullAll [keyS dst, keyS (dst + 1)]
  { st with waiting := .nothing, joins := if status = 1 then st.joins else [] }

/-- Strands whose JOIN can return now do, and see their children's writes (R152); a swapped-out one is to be restored
first, and re-issues its JOIN. -/
def State.joinWake (s : State) : State :=
  forEach s.allStrands s (fun s p =>
    match p.2.waiting with
    | .join dst _ =>
      (match s.joinResult p.2 with
        | some (a, b) =>
          if p.2.life = .swapped then s.push (.strandRestore p.1)
          else (s.setStrand p.1 (p.2.finishJoin dst a b)).expireCopies p.2.core
        | none => s)
    | _ => s)

/-! ## Status fields in the RCB (R349) -/

/-- A write of the device itself joins those that wait. -/
def State.devLater (s : State) (d : DevW) : State := { s with homes := { s.homes with dev := s.homes.dev ++ [d] } }

/-- The party for which the device writes status words of a region: its context, as system software. -/
def Region.who (r : Region) : Who := ⟨r.rcb.die * 96, none, r.asid, true⟩

/-- A status word of a region waits to be written. -/
def State.rcbWaits (s : State) (rid : Nat) : Bool := s.homes.dev.any (fun d => match d with | .rcb q _ _ => q == rid | _ => false)

/-- Write a word of the RCB's status area, by the translation of its address now: at once, or once the host has given it and nothing
stands before it. Where there is none the word is lost, with an error record (log 51). -/
def State.rcbPut (s : State) (rid off v : Nat) : State :=
  let r := s.region rid
  let va := add56 r.rcbVa off
  if s.rcbWaits rid then s.devLater (.rcb rid off v)
  else match s.translate r.who va with
    | (.hit pa _, s) => if isWindow pa then s.laterRecord clsProt va else s.devWrite pa (leBytes 8 v)
    | (.wait, s) => s.devLater (.rcb rid off v)
    | (.fault c, s) => s.laterRecord c va

/-- Where the entry of a region's grant lies. -/
def State.grantAt (s : State) (r : Region) : Nat := s.reg 0x970 % 2 ^ 56 + 16 * r.rcb.wsg

/-- Count a region into READERS or WRITERS of a grant, or out (R425). -/
def State.grantPut (s : State) (pa : Nat) (writers up : Bool) : State :=
  let x := s.numAt pa 16
  let (hi, lo) := if writers then (95, 80) else (111, 96)
  s.devPut pa (leBytes 16 (setBits x hi lo ((bits x hi lo + (if up then 1 else 65535)) % 65536)))

/-- The device's update of READERS or WRITERS of a region's grant: at once, or as soon as nothing stands before it. -/
def State.grantCount (s : State) (rid : Nat) (up : Bool) : State :=
  let r := s.region rid
  let pa := s.grantAt r
  if s.devWaits (pa / 128) then (s.devLater (.grant pa r.rcb.ww up)).noteDev (pa / 128) else s.grantPut pa r.rcb.ww up

/-- The writes of the device itself that wait are made, in order, as far as they can be now. -/
def State.flushDev (s : State) : State :=
  forEach s.homes.dev { s with homes := { s.homes with dev := [] } } (fun s d => match d with
    | .put pa bs => s.devWrite pa bs
    | .grant pa ww up => if s.devWaits (pa / 128) then (s.devLater d).noteDev (pa / 128) else s.grantPut pa ww up
    | .rcb rid off v => s.rcbPut rid off v)

/-! ## Ends of strands, cohorts and regions -/

/-- The cohorts of a region that still live. -/
def State.liveCohorts (s : State) (rid : Nat) : List Nat :=
  (s.allCohorts.filter (fun p => p.2.alive && p.2.rid == rid)).map Prod.fst

/-- Threads of a region stand in a spawn bin or wait to enter one. -/
def State.binsHold (s : State) (rid : Nat) : Bool :=
  s.cores.any (fun c => c.2.bins.any (fun b =>
    (match b.2.key with | some k => k.rid == rid && !b.2.pending.isEmpty | none => false)
      || (match b.2.formed with | some f => f.1.rid == rid | none => false)))
  || s.experts.products.any (fun p => p.key.rid == rid)

/-- Writes of a region's strands wait in their logs. -/
def State.logsHold (s : State) (rid : Nat) : Bool :=
  s.allStrands.any (fun p => p.2.rid == rid && !p.2.log.isEmpty)

/-- A lease of a context has not ended at its home. -/
def State.leaseOpen (s : State) (asid : Nat) : Bool :=
  s.homes.holdings.any (fun p => match p.2 with | some h => s.asidOf (s.strand h.sid) == asid | none => false)

/-- Perform the writes of a context's dirty bytes in every core: false when some must wait, when bytes are on their way to the
host, or when the end of a lease is on its way to its home. -/
def State.performAsid (s : State) (asid : Nat) : Bool × State :=
  let (ok, s) := forEach s.cores (true, s) (fun (ok, s) c =>
    forEach (dedup [] ((c.2.copies.filter (fun x => s.wroteIn x asid (fun _ _ => true))).map Copy.pline)) (ok, s)
      (fun (ok, s) line =>
        let (d, s) := s.writeBack c.1 line
        (ok && d, s)))
  (ok && s.homes.goQueue.isEmpty && !s.leaseOpen asid, s)

/-- Room may have changed: the placement engines look again (R360). -/
def State.pushPlacement (s : State) : State := (s.push (.cohortPlacement 0)).push (.cohortPlacement 1)

/-- Write the final state of a region whose writes are all performed (R366), with its fault record (R365). -/
def State.writeFinal (s : State) (rid f cls fpc faddr : Nat) : State :=
  let r := s.region rid
  let counted := 1 ≤ r.state ∧ r.state ≤ 3
  let s := if counted then s.grantCount rid false else s
  let s := s.setRegion rid { r with state := f, etime := s.ns, ending := none, queue := none, shutAt := none,
                                    sheeting := false }
  let s := s.rcbPut rid 0x108 r.nextt
  let s := s.rcbPut rid 0x110 r.cdone
  let s := s.rcbPut rid 0x118 r.heapused
  let s := s.rcbPut rid 0x128 s.ns
  let s := (s.cvRelease r.cvrecPa).rcbPut rid 0x100 f
  let s := if 6 ≤ f then s.record rid f cls fpc faddr noTile 0 0 else s
  s.joinWake.pushPlacement

/-- The cores that have held a cohort of a region. -/
def State.coresOf (s : State) (rid : Nat) : List Nat := dedup [] ((s.allCohorts.filter (fun p => p.2.rid == rid)).map (fun p => p.2.core))

/-- The homes of a region's status words and of its conversion record can take the device's writes. -/
def State.statusFree (s : State) (rid : Nat) : Bool × State :=
  let r := s.region rid
  let (a, s) := match s.translate r.who (add56 r.rcbVa 0x100) with
    | (.hit pa _, s) => if isWindow pa then (true, s) else s.devFree pa 48
    | (.wait, s) => (false, s)
    | (.fault _, s) => (true, s)
  let (b, s) := if (kvGet none s.homes.cvrecs r.cvrecPa).isSome then s.devFree r.cvrecPa 64 else (true, s)
  (a && b && !s.rcbWaits rid, s)

/-- Allowances of a region's context are on their way back to their homes. -/
def State.allowsOut (s : State) (rid : Nat) : Bool :=
  (s.coresOf rid).any (fun c => (s.core c).allow.any (fun a => a.returning && a.asid == (s.region rid).asid))

/-- A region can reach its final state: every write of its context is performed (R366), its ended strands hold no guard, the allowances
that its pre-emption or its termination returned have been served at their homes (R361, R363), and its status words can be written. -/
def State.finalReady (s : State) (rid f : Nat) : Bool × State :=
  let asid := (s.region rid).asid
  let held := s.allStrands.any (fun p => p.2.rid == rid && p.2.life == .ended && p.2.guards != [])
  let back := !(f == 5 || f == 9) && s.allowsOut rid
  let (ok, s) := s.performAsid asid
  let (free, s) := s.statusFree rid
  (ok && free && !held && !back, s)

/-- A region that is ending reaches its final state as soon as it can. -/
def State.settle (s : State) (rid : Nat) : State :=
  match (s.region rid).ending with
  | none => s
  | some (f, cls, fpc, faddr) =>
    let (ok, s) := s.finalReady rid f
    if ok then s.writeFinal rid f cls fpc faddr else s

/-- The number of tiles of a region. -/
def Rcb.tilesTotal (r : Rcb) : Nat := r.gx * r.gy * r.gz

/-- A region completes when every tile's cohort and every spawned thread has ended (R139). -/
def State.regionCheck (s : State) (rid : Nat) : State :=
  let r := s.region rid
  if r.ending.isSome then s.settle rid
  else if (s.liveCohorts rid).isEmpty && !s.binsHold rid && !s.logsHold rid then
    if r.state = 3 then s.push (.preemptDrainComplete rid)
    else if r.sheeting then s.push (.contactSheetWrite rid)
    else if r.state = 2 ∧ r.rcb.tilesTotal ≤ r.nextt then
      (s.setRegion rid { r with ending := some (5, noClass, 0, 0) }).settle rid
    else s
  else s

/-- An engine command or a matrix entry still concerns a cohort. -/
def State.engineBusy (s : State) (cid : Nat) : Bool :=
  s.cores.any (fun c => c.2.mq.any (fun e => e.cid == cid)
    || c.2.cq.any (fun e => e.cid == cid || e.members.any (fun m => m.1 == cid && !m.2)))

/-- The injector and the top-k buffer forget a cohort that ends (R303, R309). -/
def State.forgetCohort (s : State) (core cid : Nat) : State :=
  s.modCore core (fun c =>
    let w := c.weight
    let w := if w.minjCohort = some cid then { w with minj := w.minj &&& 0x7FFFFFFFFFFFFFFF#64, minjCohort := none } else w
    { c with weight := if w.topkOwner = some cid then { w with topkOwner := none } else w })

/-- A cohort ends once its strands have ended and its commands and entries are done (R139). -/
def State.cohortCheck (s : State) (cid : Nat) : State :=
  let c := s.cohort cid
  if c.alive && c.strands.all (fun i => (s.strand i).life == .ended) && !s.engineBusy cid then
    let s := s.forgetCohort c.core cid
    let s := s.setCohort cid { c with alive := false, spad := [], owners := [], acc := [], rowck := [], rowckBad := [], topk := [] }
    let r := s.region c.rid
    let s := if c.spawned then s else
      (s.setRegion c.rid { r with cdone := r.cdone + 1 }).rcbPut c.rid 0x110 (r.cdone + 1)
    (s.regionCheck c.rid).pushPlacement
  else s

/-- A core's count of open append cursors on a heap changes with the strand that opens or closes one (R243). -/
def State.openCount (s : State) (sid heap : Nat) : State :=
  let s := s.modStrand sid (fun st => { st with openApps := kvSet 0 st.openApps heap (kvGet 0 st.openApps heap + 1) })
  s.modCore (s.strand sid).core (fun c => { c with openApp := kvSet 0 c.openApp heap (kvGet 0 c.openApp heap + 1) })
def State.closeCount (s : State) (sid heap : Nat) : State :=
  let n := kvGet 0 (s.strand sid).openApps heap
  if n = 0 then s
  else
    let s := s.modStrand sid (fun st => { st with openApps := kvSet 0 st.openApps heap (n - 1) })
    s.modCore (s.strand sid).core (fun c => { c with openApp := kvSet 0 c.openApp heap (kvGet 0 c.openApp heap - 1) })

/-- The append cursors that a strand still has open count no more when it ends (R243). -/
def State.closeAll (s : State) (sid : Nat) : State :=
  let st := s.strand sid
  let s := s.modStrand sid (fun st => { st with openApps := [] })
  forEach st.openApps s (fun s p => s.modCore st.core (fun c =>
    { c with openApp := kvSet 0 c.openApp p.1 (kvGet 0 c.openApp p.1 - p.2) }))

/-- The entries of the log that a strand's end keeps: writes and atomics still to be performed, those at scratchpad banks among
them, pins that are under way, counter operations, which are no loads (R272), but for CTPEEK, and the fills of the matrix queue,
which run to completion (R138). An entry whose class no function is left to repair goes to the host instead (R201). -/
def LogEnt.outlives (e : LogEnt) : Bool :=
  (e.isWrite || e.raw.op == 0x9A#8 || e.raw.op == 0x97#8 || e.raw.op == 0x98#8 || e.raw.op == 0xD0#8
      || (between 0xB0 0xB5 e.raw.op.toNat && e.raw.op != 0xB4#8))
    && !e.accs.any (fun a => a.status == 3 || a.status == 6)
def endKeeps (l : KV LogEnt) : KV LogEnt := l.filter (fun p => p.2.outlives)

/-- The classes that still await delivery when a strand ends go to the host, by their records alone (R89, R201). -/
def State.leftClasses (s : State) (sid : Nat) : State :=
  let st := s.strand sid
  let s := forEach st.log s (fun s p =>
    if p.2.accs.any (fun a => a.status == 3 || a.status == 6) then s.trapRecord sid p.2.cls p.2.pc (p.2.addr % 2 ^ 56) else s)
  forEach st.afters s (fun s a => s.trapRecord sid a.cls a.fpc a.faddr)

/-- A strand ends (R138). -/
def State.endStrand (s : State) (sid : Nat) : State :=
  let s := (s.leftClasses sid).closeAll sid
  let st := s.strand sid
  let s := s.modStrand sid (fun st =>
    { st with life := .ended, amask := 0, divs := [], loops := [], curs := [], vregs := [], sregs := [], preds := [],
              jidx := [], empties := [], emptyPreds := [], fills := [], waiting := .nothing, afters := [], trap := none,
              hmode := false, log := endKeeps st.log })
  ((s.releaseEnded sid).cohortCheck st.cid).regionCheck st.rid

/-! ## Termination (R363) -/

/-- A strand is destroyed: nothing of its log is performed, its leases end, its guards are released bare, each as soon as its home
takes the write. -/
def State.destroyStrand (s : State) (sid : Nat) : State :=
  let st := s.strand sid
  let s := forEach st.leases s (fun s line => s.endLease sid line)
  let s := forEach st.guards s (fun s pa => s.leaveGuard sid pa false)
  let s := { s with homes := { s.homes with
      guardQ := s.homes.guardQ.map (fun (q : Nat × List (Nat × Nat × Bool)) => (q.1, q.2.filter (fun w => w.1 != sid))) } }
  let s := s.closeAll sid
  let s := s.modStrand sid (fun st =>
    { st with life := .ended, amask := 0, divs := [], loops := [], curs := [], vregs := [], sregs := [], preds := [],
              jidx := [], empties := [], emptyPreds := [], fills := [], waiting := .nothing, afters := [], trap := none,
              hmode := false, hostHeld := false, log := [] })
  (s.thaw st.core st.takesSent).dropAsks sid

/-- Commands and entries of a region's cohorts stop and go, and their leave is given back (R319, R363). -/
def State.stopEngines (s : State) (rid : Nat) : State :=
  forEach s.cores s (fun s c =>
    let mine := c.2.mq.filter (fun e => e.rid == rid)
    let cmds := c.2.cq.filter (fun e => e.rid == rid)
    let pool := (s.region rid).pool
    let asid := (s.region rid).asid
    let s := forEach mine s (fun s e => s.giveLeave c.1 e.leave asid pool)
    let s := forEach cmds s (fun s e => s.giveLeave c.1 e.leave asid pool)
    -- tiles of other regions' cohorts that a multicast covered go back to their threads
    let s := forEach cmds s (fun s e => forEach e.members s (fun s m =>
      s.setCohort m.1 { s.cohort m.1 with owners := (s.cohort m.1).owners.filter (fun o => o.2 != e.ident + 1) }))
    let drop (e : CCmd) : CCmd := { e with members := e.members.map (fun m =>
      if (s.cohort m.1).rid = rid then (m.1, true) else m) }
    s.modCore c.1 (fun x => { x with mq := x.mq.filter (fun e => e.rid != rid),
                                     cq := (x.cq.filter (fun e => e.rid != rid)).map drop }))

/-! ## Spawn bins (R142, R143) -/

def State.bin (s : State) (core b : Nat) : Bin := kvGet Bin.empty (s.core core).bins b
def State.setBin (s : State) (core b : Nat) (x : Bin) : State :=
  s.modCore core (fun c => { c with bins := kvSet Bin.empty c.bins b x })

/-- Close a bin whose formed place is empty: the formed strand takes its place in the order of arrival (R137). -/
def State.closeBin (s : State) (core b : Nat) : State :=
  let x := s.bin core b
  match x.key with
  | some k =>
    let (n, s) := s.nextSeq
    (s.setBin core b ⟨none, [], none, some (k, x.pending), n⟩).push (.spawnResidency core b)
  | none => s

/-- A bin's formed place has emptied: a close that could not happen, of a full list or of one whose timer has run out, takes
place at once (R143). -/
def State.placeEmptied (s : State) (core b : Nat) : State :=
  let x := s.bin core b
  let late := match x.timer with | some t => decide (t ≤ s.time) | none => false
  if x.formed.isNone && !x.pending.isEmpty && (x.pending.length == 64 || late) then s.closeBin core b else s

/-- Threads of a region waiting in bins are discarded (R363). -/
def State.dropBins (s : State) (rid : Nat) : State :=
  let clean (b : Bin) : Bin :=
    let b := match b.key with
      | some k => if k.rid = rid then { b with key := none, pending := [], timer := none } else b
      | none => b
    match b.formed with
    | some f => if f.1.rid = rid then { b with formed := none } else b
    | none => b
  let s := { s with experts := { s.experts with
      products := s.experts.products.filter (fun p => p.key.rid != rid),
      queues := s.experts.queues.map (fun q => (q.1, q.2.filter (fun d => d.rid != rid))) } }
  forEach s.cores s (fun s c =>
    let s := s.modCore c.1 (fun x => { x with bins := x.bins.map (fun b => (b.1, clean b.2)) })
    forEach c.2.bins s (fun s b => if b.2.formed.isSome then s.placeEmptied c.1 b.1 else s))

/-- The allowance entries of a region's context go back from every core that held one of its cohorts (R361). -/
def State.returnRegionAllows (s : State) (rid : Nat) : State :=
  forEach (s.coresOf rid) s (fun s c => s.returnAllows c (fun a => a.asid == (s.region rid).asid))

/-- A region can be terminated: it has reached no final state but 4, and no termination of it is under way. -/
def Region.terminable (r : Region) : Bool := decide (1 ≤ r.state) && decide (r.state ≤ 4) && !r.terminating

/-- Terminate one region with a final state (R363). One that is pre-empted runs nothing, and its writes are all performed. -/
def State.terminateOne (s : State) (rid f cls fpc faddr : Nat) : State :=
  let r := s.region rid
  if r.state = 4 then s.writeFinal rid f cls fpc faddr
  else if r.terminable then
    let s := (s.setRegion rid { r with queue := none, shutAt := none }).dropBins rid
    let s := forEach (s.allStrands.filter (fun p => p.2.rid == rid)) s (fun s p => s.destroyStrand p.1)
    let s := s.stopEngines rid
    let s := forEach (s.liveCohorts rid) s (fun s cid =>
      let c := s.cohort cid
      (s.forgetCohort c.core cid).setCohort cid
        { c with alive := false, spad := [], owners := [], acc := [], rowck := [], rowckBad := [], topk := [] })
    let s := s.returnRegionAllows rid
    let r := s.region rid
    (s.setRegion rid { r with ending := some (f, cls, fpc, faddr) }).settle rid
  else s

/-- Carry a termination with state 6 up the fault domain (R363): at most fuel ancestors. -/
def State.terminateUp (s : State) (rid fdom fuel : Nat) : State :=
  match fuel with
  | 0 => s
  | fuel + 1 =>
    match (s.region rid).parent with
    | none => s
    | some p =>
      if (s.region p).rcb.fdom = fdom then (s.terminateOne p 6 noClass 0 0).terminateUp p fdom fuel else s

/-- Terminate a region (R363); state 6 is applied to its ancestors of the same fault domain. -/
def State.terminate (s : State) (rid f cls fpc faddr : Nat) : State :=
  let s' := s.terminateOne rid f cls fpc faddr
  if f = 6 ∧ (s.region rid).terminable then
    s'.terminateUp rid (s.region rid).rcb.fdom (s.allRegions.length + 1)
  else s'

end Sys2Proof.Machine
end

