-- ==== Sys2Proof/Machine/Ops.lean ====
section
/-! DEFINITION. The shared operations of every instruction: sequential advance with loop-back (R127), the unwinding of
loops (R128), the end of active threads (R125), the operand log (R198 to R200, R470), taking a trap (R201 to R205, R471)
and the return from one (R207). -/

namespace Sys2Proof.Machine

/-! ## The program counter -/

/-- The words of an instruction. -/
def rawWords (r : Raw) : List (BitVec 32) :=
  if r.len = 0#2 then [r.word0] else if r.len = 1#2 then [r.word0, r.w1] else [r.word0, r.w1, r.w2]

/-- The PC and the loop stack after the instruction of len bytes at pc issues and goes on sequentially (R127); the top
entry comes first. -/
def loopBack (loops : List LoopEnt) (pc : BitVec 56) (len : Nat) : BitVec 56 × List LoopEnt :=
  match loops with
  | [] => (pc + BitVec.ofNat 56 len, [])
  | e :: t =>
    if e.last = pc then
      (if e.count - 1 ≠ 0 then (e.start, { e with count := e.count - 1 } :: t) else loopBack t pc len)
    else (pc + BitVec.ofNat 56 len, e :: t)

/-- Go on to the next instruction; in handler mode loops stand still (R203). -/
def Strand.next (st : Strand) (len : Nat) : Strand :=
  if st.hmode then { st with pc := st.pc + BitVec.ofNat 56 len }
  else { st with pc := (loopBack st.loops st.pc len).1, loops := (loopBack st.loops st.pc len).2 }

/-- Pop the loop entries whose body holds the address b but not x (R128). -/
def unwind (loops : List LoopEnt) (b x : BitVec 56) : List LoopEnt :=
  match loops with
  | [] => []
  | e :: t =>
    let inside (a : BitVec 56) : Bool := e.start ≤ a && a ≤ e.last
    if inside b && !inside x then unwind t b x else e :: t

/-- Go to an address by a branch, which unwinds loops; in handler mode unwinding is suspended (R203). -/
def Strand.jump (st : Strand) (x : BitVec 56) : Strand :=
  { st with pc := x, loops := if st.hmode then st.loops else unwind st.loops st.pc x }

/-- Rejoin at the top entry's JOINPC, as often as it applies (R125). -/
def rejoin (divs : List DivEnt) (pc : BitVec 56) (amask : BitVec 64) : List DivEnt × BitVec 64 :=
  match divs with
  | [] => ([], amask)
  | e :: t => if e.joinpc = pc then rejoin t pc (amask ||| e.rmask) else (e :: t, amask)

/-- Apply the rejoin before an instruction issues. -/
def Strand.atJoin (st : Strand) : Strand :=
  let (d, m) := rejoin st.divs st.pc st.amask
  { st with divs := d, amask := m }

/-- Pop divergence entries while AMASK is empty (R125): each takes the strand to its join, and unwinds loops with b as the address
of the instruction that emptied AMASK (R128). None once the stack is empty. -/
def popDivs (b : BitVec 56) (divs : List DivEnt) (st : Strand) : Option Strand :=
  match divs with
  | [] => none
  | e :: t =>
    let st := { st with pc := e.joinpc, amask := e.rmask, divs := t,
                        loops := if st.hmode then st.loops else unwind st.loops b e.joinpc }
    if e.rmask = 0 then popDivs b t st else some st

/-- Put a strand's next form into the state. -/
def State.goOn (s : State) (sid : Nat) (st : Strand) : State := s.setStrand sid st

/-- Every active thread of the strand ends (R125, R138, R140). -/
def State.endThreads (s : State) (sid : Nat) : State :=
  let st := s.strand sid
  match popDivs st.pc st.divs st with
  | some st => s.setStrand sid st
  | none => (s.setStrand sid { st with amask := 0, divs := [] }).endStrand sid

/-! ## The operand log (R198 to R200, R470). The status of a thread's access: 0 to be performed, 1 performed, 2 with
triage or heap growth, 3 its fault returned, 4 waits on a monitor, 5 waits for a peer, 6 failed with a class that no
function repairs. -/

/-- A free entry of the log. -/
def Strand.freeSlot (st : Strand) : Option Nat := (nats 8).find? (fun i => (kvFind st.log i).isNone)

/-- A store whose threads have all passed their checks frees its entry of the log (R198): until it is performed the model keeps it
under a number from 256 on. -/
def freedSlot : Nat := 256

/-- The lowest number for such a store. -/
def Strand.sideSlot (st : Strand) : Nat :=
  freedSlot + ((nats (st.log.length + 1)).find? (fun i => (kvFind st.log (freedSlot + i)).isNone)).getD 0

/-- An access that failed or is still to be performed. -/
def Acc.pendingAcc (a : Acc) : Bool := a.status != 1

/-- An access whose fault no function is left to repair. -/
def Acc.dead (a : Acc) : Bool := a.status == 3 || a.status == 6

/-- The state of an entry from its accesses (R470). -/
def entryState (accs : List Acc) : Nat :=
  if accs.any (fun a => a.status == 3) then 4
  else if accs.any (fun a => a.status == 6 || (a.status == 2 && (!a.write || a.cls == 12))) then 3
  else if accs.any (fun a => a.status == 2) then 2
  else 1

/-- The access whose class an entry delivers: the lowest thread whose fault was returned (R470), else the lowest whose class
no function repairs (R200), else the lowest that is with its function, else the lowest still pending. -/
def reported (accs : List Acc) : Option Acc :=
  match accs.find? (fun a => a.status == 3) with
  | some a => some a
  | none => match accs.find? (fun a => a.status == 6) with
    | some a => some a
    | none => match accs.find? (fun a => a.status == 2) with
      | some a => some a
      | none => accs.find? Acc.pendingAcc

/-- An entry with its state and report brought up to date with its accesses. -/
def LogEnt.refresh (e : LogEnt) : LogEnt :=
  let st := entryState e.accs
  match reported e.accs with
  | some a => { e with state := st, cls := if st = 1 then 0 else a.cls, addr := a.va, thread := a.thread }
  | none => { e with state := st }

/-- Threads of an entry that are still pending. -/
def LogEnt.pmask (e : LogEnt) : Nat :=
  e.accs.foldl (fun m a => if a.pendingAcc then m ||| 2 ^ (a.thread % 64) else m) 0

/-- A collective instruction (matrix and engine instructions) has no threads of its own. -/
def LogEnt.collective (e : LogEnt) : Bool := 0xD0 ≤ e.raw.op.toNat && e.raw.op != 0xDA#8

/-- A cursor instruction that runs once for the strand (R230). -/
def Raw.uniCursor (r : Raw) : Bool :=
  0xB8 ≤ r.op.toNat && r.op.toNat ≤ 0xC5 && (match opInfo r.op.toNat with | some oi => r.uniform oi | none => false)

/-- An instruction that accesses memory once for the strand: its frame names no thread (R204). -/
def LogEnt.single (e : LogEnt) : Bool :=
  let op := e.raw.op.toNat
  e.raw.u == 1#1 || e.collective || Raw.uniCursor e.raw || op == 0x0B || op == 0x9B || op == 0x9C || (0xA0 ≤ op && op ≤ 0xA2)

/-- A fresh entry for an instruction at the strand's PC. -/
def newEntry (st : Strand) (r : Raw) (seq : Nat) (accs : List Acc) : LogEnt :=
  { state := 1, raw := r, pc := st.pc.toNat, seq := seq, amask := st.amask.toNat, accs := accs, cls := 0, addr := 0,
    thread := 0, dnum := st.dnum r, progress := 0, vregs := [], sregs := [], curs := [] }

/-- An access of a thread still to be performed. -/
def newAcc (t va size data : Nat) (write : Bool) : Acc :=
  { thread := t, va := va, size := size, data := data, data2 := 0, got := 0, got2 := 0, status := 0, cls := 0,
    write := write, byHost := false }

def State.entry (s : State) (sid slot : Nat) : Option LogEnt := kvFind (s.strand sid).log slot
def State.putEntry (s : State) (sid slot : Nat) (e : LogEnt) : State :=
  s.modStrand sid (fun st => { st with log := kvPut st.log slot e })
def State.freeEntry (s : State) (sid slot : Nat) : State :=
  s.modStrand sid (fun st => { st with log := kvDel st.log slot })
/-- The place in program order of an entry's instruction; of one that is just issuing, the next. -/
def State.seqAt (s : State) (sid slot : Nat) : Nat := ((s.entry sid slot).map LogEnt.seq).getD s.seq

/-- An entry of the log goes under another number, and with it the requests to peers that serve it. -/
def State.moveEntry (s : State) (sid slot k : Nat) (e : LogEnt) : State :=
  let move (q : PeerReq) : PeerReq := if q.sid = sid ∧ q.slot = slot then { q with slot := k } else q
  let s := (s.freeEntry sid slot).putEntry sid k e
  { s with fabric := { s.fabric with peers := s.fabric.peers.map move } }

/-- The first byte that an access covers: CLEAN and DROP, of 128 bytes, cover the line of their address (R161). -/
def Acc.lo (a : Acc) : Nat := if a.size = 128 then a.va / 128 * 128 else a.va

/-- Two accesses share a byte of one space. -/
def sameBytes (a b : Acc) : Bool := overlaps a.lo a.size b.lo b.size

/-- Where the bytes of an access lie in physical memory, and whether some of it is open. -/
def State.physOf (s : State) (w : Who) (a : Acc) : List (Nat × Nat) × Bool := s.placesOf w a.lo a.size

/-- An access reaches a byte that an earlier pending one names, by its address or through any alias of the line (R159, R382).
An earlier one whose page the host has not yet translated may be any global byte. -/
def State.meets (s : State) (w : Who) (a b : Acc) : Bool :=
  sameBytes a b || (decide (a.va < spadVa) && decide (b.va < spadVa) && (
    let x := s.physOf w a
    let y := s.physOf w b
    x.1.any (fun p => y.1.any (fun q => overlaps p.1 p.2 q.1 q.2)) || (b.status == 0 && y.2)))

/-- An access of a strand waits behind an earlier entry on the same bytes (R200, and the strand's own order, R159). A thread of
a WAIT that only waits on its monitor holds nothing back. -/
def State.behind (s : State) (sid seq : Nat) (a : Acc) : Bool :=
  (s.strand sid).log.any (fun p => p.2.seq < seq && p.2.accs.any (fun b => b.pendingAcc && b.status != 4 && s.meets (s.who sid) a b))

/-- An earlier ATOML of the strand, or an entry that is held or failed, stands before accesses of the scratchpad on the same bytes (R159,
R200). -/
def Strand.behindBank (st : Strand) (accs : List Acc) : Bool :=
  st.log.any (fun p => (p.2.raw.op == 0x9A#8 || 2 ≤ p.2.state) && p.2.accs.any (fun b => b.pendingAcc && accs.any (sameBytes b)))

/-- A store of the strand before a place in program order that is not yet performed reaches the line of an address (R221). -/
def State.lineStored (s : State) (sid seq va : Nat) : Bool :=
  let a := newAcc 0 (va / 128 * 128) 128 0 false
  (s.strand sid).log.any (fun p => p.2.seq < seq && p.2.accs.any (fun b => b.write && b.pendingAcc && s.meets (s.who sid) a b))

/-- The same of an entry that is held, deferred or failed. -/
def State.lineDeferred (s : State) (sid seq va : Nat) : Bool :=
  let a := newAcc 0 (va / 128 * 128) 128 0 false
  (s.strand sid).log.any (fun p => p.2.seq < seq && 2 ≤ p.2.state
    && p.2.accs.any (fun b => b.write && b.pendingAcc && s.meets (s.who sid) a b))

/-- An access waits behind an entry that is held, deferred or failed (R200, R202). -/
def State.behindHeld (s : State) (sid seq : Nat) (a : Acc) : Bool :=
  (s.strand sid).log.any (fun p => p.2.seq < seq && 2 ≤ p.2.state
    && p.2.accs.any (fun b => b.pendingAcc && b.status != 4 && s.meets (s.who sid) a b))

/-- A failed access: translation, protection and heap exhaustion go to a function, in the mode that it has now (R454), the other classes
do not. -/
def State.failAcc (s : State) (a : Acc) (cls : Nat) : Acc :=
  { a with status := if cls = 8 ∨ cls = 9 ∨ cls = 12 then 2 else 6, cls := cls, byHost := s.hostMode (if cls = 12 then 2 else 1) }

/-- Tell the host of a request to fault triage or heap growth in host-assisted mode (R199, R435). -/
def State.askTriage (s : State) (cls : Nat) : State :=
  if (cls = 12 ∧ s.hostMode 2) ∨ ((cls = 8 ∨ cls = 9) ∧ s.hostMode 1) then s.vector 2 else s

/-- A strand that waits to take a trap may have drained (R202). -/
def State.wakeTrap (s : State) (sid : Nat) : State :=
  match (s.strand sid).waiting with
  | .trap => s.push (.trapEntry sid)
  | _ => s

/-- Put an instruction into the log as it issues (R198): its destinations are empty, and with block nothing younger
issues before the entry is done. -/
def State.logged (s : State) (sid : Nat) (r : Raw) (accs : List Acc) (empty : List Nat) (block : Bool) : Nat × State :=
  let (seq, s) := s.nextSeq
  let st := s.strand sid
  let slot := st.freeSlot.getD 0
  let e := (newEntry st r seq accs).refresh
  let st := (st.emptyAll empty).next r.bytes
  let st := { st with log := kvPut st.log slot e, waiting := if block then .entry slot else st.waiting }
  let s := s.setStrand sid st
  (slot, if 2 ≤ e.state then s.askTriage e.cls else s)

/-- The instruction at the strand's PC waits, with its uniform destination empty (R28, R150, R176, R384, R385). -/
def State.again (s : State) (sid d : Nat) : State :=
  s.modStrand sid (fun st => { st.markEmpty (keyS d) with waiting := .again d })

/-- The strand as it stood before an instruction that so waits: it counts as not issued (R201). -/
def Strand.unheld (st : Strand) : Strand :=
  match st.waiting with
  | .again d => { st.markFull (keyS d) with waiting := .nothing }
  | _ => st

/-- The loop stack in the registers of a log entry, from a key on, for an instruction that may come to count as not issued. -/
def loopRegs (k : Nat) (l : List LoopEnt) : KV DWord :=
  match l with
  | [] => []
  | e :: t => (k, e.start.setWidth 64) :: (k + 1, e.last.setWidth 64) :: (k + 2, e.count.setWidth 64) :: loopRegs (k + 3) t
def loopsFrom (n k : Nat) (m : KV DWord) : List LoopEnt :=
  match n with
  | 0 => []
  | n + 1 =>
    match kvFind m k, kvFind m (k + 1), kvFind m (k + 2) with
    | some a, some b, some c => ⟨a.setWidth 56, b.setWidth 56, c.setWidth 32⟩ :: loopsFrom n (k + 3) m
    | _, _, _ => []

/-- The strand as it stood before the instruction of an entry, which nothing younger has followed: it counts as not issued. -/
def State.unissue (s : State) (sid slot : Nat) (e : LogEnt) (keys : List Nat) : State :=
  s.modStrand sid (fun st => { st.fullAll keys with
    pc := BitVec.ofNat 56 e.pc, loops := loopsFrom 4 1000 e.sregs, waiting := .nothing, log := kvDel st.log slot })

/-- The entry is done: it leaves the log, and what waited for it goes on. -/
def State.finishEntry (s : State) (sid slot : Nat) : State :=
  let s := s.freeEntry sid slot
  let s := s.modStrand sid (fun st => if st.waiting = .entry slot then { st with waiting := .nothing } else st)
  let st := s.strand sid
  if st.life = .ended then ((s.releaseEnded sid).regionCheck st.rid).pushPlacement else s.wakeTrap sid

/-! ## Taking a trap (R201 to R205, R471) -/

/-- The frame address of a strand (R355). -/
def State.frameVa (s : State) (st : Strand) : Nat := (s.regionOf st).rcb.spill + 65536 * st.spill

/-- The class word of a frame, its bits [255:192] (R204). -/
def classWord (st : Strand) (ti : TrapInfo) : Nat :=
  let siden := (st.log.filter (fun p => p.2.state == 2)).length
  ti.cls % 32 + ti.info % 256 * 2 ^ 8 + ti.thread % 64 * 2 ^ 16 + b2n ti.tvalid * 2 ^ 22
    + (ti.oplog.getD 0) % 8 * 2 ^ 24 + b2n ti.oplog.isSome * 2 ^ 27 + siden * 2 ^ 32

/-- The 192 bits of a loop entry (R23). -/
def loopBytes (e : LoopEnt) : List Byte := leBytes 8 e.start.toNat ++ leBytes 8 e.last.toNat ++ leBytes 8 e.count.toNat

/-- The frame (R204). -/
def frameBytes (s : State) (st : Strand) (ti : TrapInfo) : List Byte :=
  let top := st.divs.headD ⟨0#64, 0#56⟩
  let loops := (st.loops.reverse.map loopBytes).flatten
  let inst := (ti.words.map (fun w => leBytes 4 w.toNat)).flatten
  leBytes 8 ti.rpc ++ leBytes 8 ti.fpc ++ leBytes 8 ti.faddr ++ leBytes 8 (classWord st ti) ++ leBytes 8 st.amask.toNat
    ++ leBytes 8 ti.fmask ++ leBytes 8 top.joinpc.toNat ++ leBytes 8 top.rmask.toNat ++ leBytes 8 st.depths
    ++ leBytes 8 (st.s 60) ++ leBytes 8 (st.s 61) ++ leBytes 8 0
    ++ leBytes 96 (ofLe (loops.take 96)) ++ leBytes 16 (ofLe (inst.take 12)) ++ leBytes 8 s.ns ++ leBytes 40 0

/-- ADDR of an entry's image: in state 4 the address of the fault that was returned (R470), else that of the lowest thread
still pending, or the first unperformed byte of a collective instruction (R205). -/
def LogEnt.imageAddr (e : LogEnt) : Nat :=
  if e.state = 4 then e.addr
  else match e.accs.find? Acc.pendingAcc with
    | some a => a.va
    | none => e.addr

/-- An entry of the log image (R205). -/
def imageBytes (st : Strand) (i : Nat) : List Byte :=
  match kvFind st.log i with
  | none => leBytes 24 0 ++ leBytes 8 (2 ^ 7)
  | some e =>
    leBytes 8 (e.pc % 2 ^ 56) ++ leBytes 8 (if e.collective then 0 else e.pmask) ++ leBytes 8 (e.imageAddr % 2 ^ 56)
      ++ leBytes 8 (e.state + 2 ^ 7 + (if 2 ≤ e.state then e.cls % 32 else 0) * 2 ^ 8 + e.raw.op.toNat * 2 ^ 16)

/-- The log image. -/
def logImage (st : Strand) : List Byte := ((nats 8).map (imageBytes st)).flatten

/-- A LAUNCH or REL that has been re-issued from the log while an entry that it waits for has failed (R201). -/
def Strand.overtaken (st : Strand) (e : LogEnt) : Bool :=
  (e.raw.op == 0x0B#8 || e.raw.op == 0xA1#8) && e.accs.all (fun a => a.status == 0)
    && st.log.any (fun p => decide (p.2.seq < e.seq) && p.2.accs.any Acc.dead)

/-- A LAUNCH that so waits counts as not issued (R201). A REL that was re-issued may have younger instructions behind it that have
issued: it stays in the log, and trap entry does not wait for it (log 52). -/
def State.unlaunch (s : State) (sid : Nat) : State :=
  match (s.strand sid).waiting with
  | .entry slot => (match s.entry sid slot with
      | some e => if e.raw.op == 0x0B#8 && (s.strand sid).overtaken e then s.unissue sid slot e [keyS e.raw.d.toNat] else s
      | none => s)
  | _ => s

/-- The size of an access of a walk that waits and may still be anywhere, and what its got says when it waits behind an access that is
held. -/
def anySize : Nat := 2 ^ 56
def behindOne : Nat := 1

/-- An entry that trap entry does not wait for (R202): held, deferred or failed, behind such an entry on the same bytes,
a WAIT that only its monitors hold, a REL that waits for a failed entry, or a fill that its queue has accepted. -/
def State.settled (s : State) (sid : Nat) (e : LogEnt) : Bool :=
  let behind (a : Acc) : Bool := s.behindHeld sid e.seq a && (a.size != anySize || a.got == behindOne)
  2 ≤ e.state || e.collective || (s.strand sid).overtaken e || e.accs.all (fun a =>
    a.status == 1 || a.status == 4 || behind a || (a.status == 0 && a.size == 0 && e.accs.any (fun b => b.size == anySize && behind b)))

/-- The strand has drained (R202). -/
def State.drained (s : State) (sid : Nat) : Bool :=
  (s.strand sid).fills.isEmpty && (s.strand sid).log.all (fun p => s.settled sid p.2)

/-- Whether a frame can be written: the physical address, a wait, or the first address that cannot be (R471). -/
def State.frameAt (s : State) (sid va n : Nat) : Except (Option Nat) Nat × State :=
  let st := s.strand sid
  match s.access (s.who sid) va needW 2 with
  | (.wait, s) => (.error none, s)
  | (.fault _, s) => (.error (some va), s)
  | (.hit pa _, s) =>
    if isWindow pa then (.error (some va), s)
    else match (nats (n / 64)).find? (fun i => s.poisoned (pa + 64 * i) 64) with
      | some i => (.error (some (va + 64 * i)), s)
      | none =>
        if (linesOf pa n).any (fun l => s.goPending l || s.writeBlocked l (some sid) (some st.core) false false) then
          (.error none, forEach (linesOf pa n) s (fun s l => s.noteBlocked l (some st.core)))
        else (.ok pa, s)

/-- Hold a strand for the host with a fault record (R201). -/
def State.holdForHost (s : State) (sid : Nat) (ti : TrapInfo) : State :=
  (s.modStrand sid (fun st => { st with hostHeld := true, waiting := .nothing, trap := none })).trapRecord
    sid ti.cls ti.fpc ti.faddr

/-- The class goes to the user handler (R201). -/
def State.delivers (s : State) (st : Strand) (cls : Nat) : Bool :=
  let r := (s.regionOf st).rcb
  bit r.dmask cls && r.handler != 0 && !st.hmode

/-- The classes that await delivery at an instruction boundary (R201): the program position of each, with the log slot of a
held or failed entry, or none for a class of kind A that is delivered later. -/
def Strand.classes (st : Strand) : List (Nat × Option Nat) :=
  (st.log.filter (fun p => p.2.accs.any Acc.dead)).map (fun p => (p.2.seq, some p.1)) ++ st.afters.map (fun a => (a.seq, none))

/-- Enter a trap of a drained strand: write the frame and the log image, then run the handler, or hold the strand for
the host (R201, R202). -/
def State.enterTrap (s : State) (sid : Nat) (ti : TrapInfo) : State :=
  let va := s.frameVa (s.strand sid)
  match s.frameAt sid va 512 with
  | (.error none, s) =>
    (s.modStrand sid (fun st => { st with trap := some ti, waiting := .trap }))
  | (.error (some bad), s) => s.terminate (s.strand sid).rid 6 ti.cls ti.fpc bad
  | (.ok _, s) =>
    let st := s.strand sid
    let img := frameBytes s st ti ++ logImage st
    match s.homeStore (s.who sid) va img 2 with
    | (.fault _, s) => s.terminate (s.strand sid).rid 6 ti.cls ti.fpc va
    | (_, s) =>
      let st := s.strand sid
      let st := { st with trapDepth := st.divs.length, frameLog := ti.oplog, trap := none, waiting := .nothing }
      let st := { st with stayed := st.classes.map Prod.fst }
      if s.delivers st ti.cls then
        let h := (s.regionOf st).rcb.handler
        s.setStrand sid { (st.setS 60 va).setS 61 (classWord st ti) with pc := BitVec.ofNat 56 h, hmode := true }
      else (s.setStrand sid st).holdForHost sid ti

/-- Take a trap: at once when the strand has drained, else when it has (TRAP_ENTRY); one raised in handler mode goes to
the host and writes no frame (R203). -/
def State.takeTrap (s : State) (sid : Nat) (ti : TrapInfo) : State :=
  let st := s.strand sid
  if st.hmode then s.holdForHost sid ti
  else if s.drained sid then s.enterTrap sid ti
  else (s.setStrand sid { st with trap := some ti, waiting := .trap }).push (.trapEntry sid)

/-- A trap of kind P at the strand's PC: the instruction has had no effect (R197). -/
def preciseTrap (st : Strand) (r : Raw) (cls info faddr : Nat) (thread : Option Nat) (fmask : Nat) : TrapInfo :=
  { cls := cls, info := info, rpc := st.pc.toNat, fpc := st.pc.toNat, faddr := faddr, tvalid := thread.isSome,
    thread := thread.getD 0, fmask := fmask, oplog := none, words := rawWords r }

def State.precise (s : State) (sid : Nat) (r : Raw) (cls info faddr : Nat) (thread : Option Nat) (fmask : Nat) : State :=
  s.takeTrap sid (preciseTrap (s.strand sid) r cls info faddr thread fmask)

/-- A precise fault of the strand as a whole. -/
def State.fault (s : State) (sid : Nat) (r : Raw) (cls faddr : Nat) : State := s.precise sid r cls 0 faddr none 0

/-- A trap of kind A of an instruction that has completed (R197): fpc is its address, and the strand's PC is already the
next. -/
def State.after (s : State) (sid : Nat) (cls fpc faddr : Nat) (words : List (BitVec 32)) : State :=
  s.takeTrap sid { cls := cls, info := 0, rpc := (s.strand sid).pc.toNat, fpc := fpc, faddr := faddr, tvalid := false,
                   thread := 0, fmask := 0, oplog := none, words := words }

/-! ## Delivery at an instruction boundary (R201) -/

/-- The trap of a class that a log entry delivers. -/
def Strand.entryTrap (st : Strand) (slot : Nat) (e : LogEnt) : TrapInfo :=
  let uni := e.single
  let fm := e.accs.foldl (fun m a => if a.status = 2 ∨ a.dead then m ||| 2 ^ (a.thread % 64) else m) 0
  { cls := e.cls, info := 0, rpc := st.pc.toNat, fpc := e.pc, faddr := e.addr % 2 ^ 56, tvalid := !uni, thread := if uni then 0
      else e.thread, fmask := if e.collective then 0 else fm, oplog := some slot, words := rawWords e.raw }

/-- The trap of a class of kind A that is delivered later. -/
def Strand.afterTrap (st : Strand) (a : After) : TrapInfo :=
  { cls := a.cls, info := 0, rpc := st.pc.toNat, fpc := a.fpc, faddr := a.faddr, tvalid := false, thread := 0,
    fmask := 0, oplog := none, words := a.words }

/-- The oldest class that awaits delivery, as a trap at the strand's PC. In handler mode the classes that awaited when the
handler was entered stay for the boundaries after RETT; another one is taken, and goes to the host (DEDUCED, log 48). -/
def Strand.awaiting (st : Strand) : Option (TrapInfo × Strand) :=
  let due := st.classes.filter (fun c => !(st.hmode && st.stayed.contains c.1))
  let first := due.foldl (fun (b : Option (Nat × Option Nat)) c =>
    match b with | none => some c | some q => if c.1 < q.1 then some c else some q) none
  match first with
  | none => none
  | some (_, some slot) => (kvFind st.log slot).map (fun e => (st.entryTrap slot e, st))
  | some (seq, none) => (st.afters.find? (fun a => a.seq == seq)).map (fun a =>
      (st.afterTrap a, { st with afters := st.afters.filter (· != a) }))

/-- A class of kind A for later delivery; one whose strand has ended goes to the host at once (R89, R201). -/
def State.laterClass (s : State) (sid cls fpc faddr seq : Nat) (words : List (BitVec 32)) : State :=
  let st := s.strand sid
  if st.life = .ended then s.trapRecord sid cls fpc faddr
  else s.setStrand sid { st with afters := st.afters ++ [⟨cls, fpc, faddr, seq, words⟩] }

/-! ## The return from a trap (R207) -/

/-- Read n words of 8 bytes from an address, each a strong read; p says what it asks of a packed page. -/
def State.readWords (s : State) (w : Who) (va n p : Nat) : Except MemR (List Nat) × State :=
  match n with
  | 0 => (.ok [], s)
  | n + 1 =>
    match s.strongRead w va 8 p with
    | (.ok x, s) =>
      (match s.readWords w (add56 va 8) n p with
        | (.ok l, s) => (.ok (x :: l), s)
        | r => r)
    | (r, s) => (.error r, s)

/-- Read n words of the strand's frame from an offset, after the strand's own stores to them (R159, R207): one that is still
pending in the log comes first. -/
def State.frameWords (s : State) (sid off n : Nat) : Except MemR (List Nat) × State :=
  let va := s.frameVa (s.strand sid) + off
  if s.behind sid s.seq (newAcc 0 va (8 * n) 0 false) then (.error .wait, s) else s.readWords (s.who sid) va n 2

/-- An instruction's address in a word of a frame: a handler may have stored any value there, and bits [1:0] of a PC are 0 (R41), so
they are reloaded as 0 (DESIGN CHOICE, log 54). -/
def pcWord (x : Nat) : BitVec 56 := BitVec.ofNat 56 (x / 4 * 4)

/-- The loop entry in three words of a frame. -/
def loopOf (ws : List Nat) : LoopEnt :=
  ⟨pcWord (listAt 0 ws 0), BitVec.ofNat 56 (listAt 0 ws 1), BitVec.ofNat 32 (listAt 0 ws 2)⟩

/-- What RETT or RESUME finds. -/
inductive FrameR where
  | wait
  | fault (cls : Nat)
  | depths
  | done (replay : Bool)
  deriving DecidableEq, Repr

/-- Reload the strand's state from its frame (R207), and leave handler mode; the answer says whether the delivered log
entry is to be replayed. -/
def State.restoreFrame (s : State) (sid : Nat) : FrameR × State :=
  match s.frameWords sid 0 24 with
  | (.error .wait, s) => (.wait, s)
  | (.error (.fault c), s) => (.fault c, s)
  | (.error _, s) => (.fault clsProt, s)
  | (.ok ws, s) =>
    let w (i : Nat) : Nat := listAt 0 ws i
    let st := s.strand sid
    let div := bits (w 8) 12 8
    let ld := bits (w 8) 2 0
    if st.trapDepth < div ∨ 4 < ld then (.depths, s)
    else
      let (rb, s) := match st.frameLog with
        | some i => s.frameWords sid (0x100 + 32 * i + 24) 1
        | none => (.ok [0], s)
      match rb with
      | .error .wait => (.wait, s)
      | .error (.fault c) => (.fault c, s)
      | .error _ => (.fault clsProt, s)
      | .ok imgs =>
        let img := imgs.headD 0
        let st := (st.setS 60 (w 9)).setS 61 (w 10)
        let divs := if div = st.trapDepth then
            (match st.divs with
              | _ :: t => if 0 < div then ⟨BitVec.ofNat 64 (w 7), pcWord (w 6)⟩ :: t else st.divs
              | [] => [])
          else st.divs.drop (st.divs.length - div)
        let loops := ((nats ld).map (fun i => loopOf (ws.drop (12 + 3 * i)))).reverse
        let st := { st with amask := BitVec.ofNat 64 (w 4), divs := divs, loops := loops, hmode := false, stayed := [],
                            pc := pcWord (w 0) }
        (.done (bit img 7), s.setStrand sid st)

end Sys2Proof.Machine
end

