-- ==== Sys2Proof/Machine/Flags.lean ====
section
/-! DEFINITION. Flags and modes: the rounding mode in force (R33, R62), the sticky flags (R34), guards (R9, R21),
predicates as results (R91), and results on their way (R96, R108). -/

namespace Sys2Proof.Machine

/-- The rounding mode in force: RM = 111 reads FRM (R33, R62). -/
def Strand.rmOf (st : Strand) (r : Raw) : Nat := if r.rm = 7 then st.frm.toNat else r.rm

/-- FRM stores a mode of 0 to 4, and 0 for a value that names none (R33). -/
def frmOf (x : Nat) : BitVec 3 := if 5 ≤ x % 8 then 0#3 else BitVec.ofNat 3 x

/-- Merge flags into FSTAT (R34). -/
def Strand.addFlags (st : Strand) (fl : Nat) : Strand := { st with fstat := st.fstat ||| BitVec.ofNat 5 fl }

/-- The guard holds in a thread (R9). -/
def Strand.guard (st : Strand) (g : BitVec 4) (t : Nat) : Bool := bit (st.p (g.toNat % 8)) t != bit g.toNat 3

/-- The active threads whose guard holds (R21). -/
def Strand.guarded (st : Strand) (g : BitVec 4) : List Nat := st.active.filter (st.guard g)

/-- A uniform instruction's guard: that of the lowest-numbered active thread (R101, R158). -/
def Strand.uniGuard (st : Strand) (g : BitVec 4) : Bool := st.guard g st.lowest

/-- Write a predicate in threads, each with its own value. -/
def Strand.putPreds (st : Strand) (p : Nat) (l : List (Nat × Bool)) : Strand :=
  forEach l st (fun st x => st.setPBit p x.1 x.2)

/-- Write one value into a predicate of every active thread (R91). -/
def Strand.putPred (st : Strand) (p : Nat) (b : Bool) : Strand := st.putPreds p (st.active.map (fun t => (t, b)))

/-- The registers of a result on its way are filled, and its flags merged (R28, R34). -/
def Strand.fill (st : Strand) (f : Fill) : Strand :=
  let st := forEach f.lanes st (fun st x => st.setV (x.1 / 64) (x.1 % 64) x.2.toNat)
  let st := forEach f.uregs st (fun st x => st.setS x.1 x.2.toNat)
  (st.fullAll f.regs).addFlags f.flags.toNat

/-- The result with a number reaches its destination (R96, R108). -/
def Strand.arrive (st : Strand) (seq : Nat) : Strand :=
  match st.fills.find? (fun f => f.seq == seq) with
  | some f => { st.fill f with fills := st.fills.filter (fun g => g.seq != seq) }
  | none => st

/-- An event of the conversion record (R85): NaNs, saturations and flushes counted by one instruction. -/
def addEvent (c : Nat × Nat × Nat) (event : Nat) : Nat × Nat × Nat :=
  match event with
  | 1 => (c.1 + 1, c.2.1, c.2.2)
  | 2 => (c.1, c.2.1 + 1, c.2.2)
  | 3 => (c.1, c.2.1, c.2.2 + 1)
  | _ => c

end Sys2Proof.Machine
end

