-- ==== Sys2Proof/Machine/Operands.lean ====
section
/-! DEFINITION. Operands: the registers an instruction reads and writes (R19, R58, R92), the gate of steps 6 and 7 of R67
with the rules of full and empty registers (R29, R132), operand values and results (R13, R91), elements (R72) and
effective addresses (R51). -/

namespace Sys2Proof

open Sys2Proof.Machine

/-! ## What the words alone say -/

/-- One word with a source B: D supplies source A, and A source B (R92). -/
def Raw.oneBin (r : Raw) (oi : OpInfo) : Bool := r.len == 0#2 && oi.one == 1 && oi.base == .a && r.clsB oi != .none

/-- The instruction reads its D field (R155, R164, R171, R175, R240, R262, R285, R320). -/
def Raw.readsD (r : Raw) (oi : OpInfo) : Bool :=
  let op := r.op.toNat
  r.oneBin oi || op == 0x91 || op == 0x93 || op == 0x99 || op == 0x9A || op == 0x9D || (op == 0x9E && r.f == 3#3)
    || op == 0xA2 || (0xB0 ≤ op && op ≤ 0xB2) || op == 0xD6 || oi.base == .x || (op == 0xBD && bit r.mod 0)

/-- The instruction only reads its D field. -/
def Raw.keepsD (r : Raw) (oi : OpInfo) : Bool :=
  let op := r.op.toNat
  op == 0x91 || op == 0x93 || (op == 0x9E && r.f == 3#3) || op == 0xD6 || oi.base == .x

/-- Instructions that take an operand-log entry (R198). -/
def Raw.needsLog (r : Raw) : Bool :=
  let op := r.op.toNat
  op == 0x0B || (0x90 ≤ op && op ≤ 0x92) || (0x95 ≤ op && op ≤ 0x9D) || (0xA0 ≤ op && op ≤ 0xA2) || (0xB0 ≤ op && op ≤ 0xB5)
    || (0xB8 ≤ op && op ≤ 0xC4 && op != 0xC0) || (op == 0xD0 && r.f == 0#3) || op == 0xD5

/-- The entry of an opcode; the decoder lets no other through. -/
def Raw.info (r : Raw) : OpInfo := (opInfo r.op.toNat).getD (infoW1 1 false .none .none)

/-- A type of two registers, or one whole uniform register. -/
def Raw.wide (r : Raw) : Bool := r.ty == 2 || r.ty == 3

/-- The immediate of a third word at the width of the type (R12, R92): signed and floating types extend by the sign. -/
def Raw.immVal (r : Raw) (wide : Bool) : Nat :=
  if wide ∧ (r.ty = 0 ∨ r.ty = 2 ∨ 8 ≤ r.ty) then wrapN 64 (sInt 32 r.imm32) else r.imm32

/-- The width of a load or store (R157), and of an atomic or WAIT (R164, R168), whose F names the operation. -/
def Raw.accWidth (r : Raw) : Nat :=
  if r.f = 1#3 then 1 else if r.f = 2#3 then 2 else if r.ty = 13 then 3 else if r.wide then 8 else 4
def Raw.atomWidth (r : Raw) : Nat := if r.wide then 8 else 4

/-- The alignment that R156 asks of a load or store: none for l6x4. -/
def Raw.accAlign (r : Raw) : Nat := if r.ty = 13 then 1 else r.accWidth

/-- The displacement: DISP10, or IMM32 in the three-word form, signed. -/
def Raw.dispM (r : Raw) : Int := if r.len = 2#2 then sInt 32 r.imm32 else sInt 10 r.disp10

end Sys2Proof

namespace Sys2Proof.Machine

/-! ## The register fields of an instruction -/

/-- A register field: its first full/empty key (a predicate n is 300 + n), the registers of its run, whether R19 bounds
it, whether its effective number must be even, whether it is read, written, and read with its FE bit. -/
structure Fld where
  key : Nat
  cnt : Nat
  vec : Bool
  even : Bool
  src : Bool
  dst : Bool
  fe : Bool
  deriving DecidableEq, Repr

/-- A field of a class; runs counts units, each of two registers for a pair of vector registers. -/
def fldOf (st : Strand) (r : Raw) (c : Cls) (uni q : Bool) (num runs : Nat) (pair idx : Bool) (src dst fe : Bool) :
    List Fld :=
  match c with
  | .none => []
  | .v =>
    if uni then [⟨keyS num, runs, false, false, src, dst, fe⟩]
    else [⟨num + (if idx then st.j r.js else 0), if pair then 2 * runs else runs, true, pair, src, dst, fe⟩]
  | .s => [⟨keyS num, runs, false, false, src, dst, fe⟩]
  | .p => [⟨300 + num, 1, false, false, src, dst, false⟩]
  | .k => [⟨if q then keyQ num else keyK num, 1, false, false, src, dst, fe⟩]

/-- The rows of the run that MRD and MWR name: 1 where the count is no count of R290 (0, or above 16), so that only the
register of the D field is checked, and 1 also while the count register is empty (R285, R290). -/
def Strand.rowsOf (st : Strand) (r : Raw) : Nat :=
  let c := if r.bImm then r.imm32 else if st.isEmpty (keyS r.b) then 1 else st.s r.b
  if c = 0 ∨ 16 < c then 1 else c

/-- The units of the D field's run. -/
def Strand.runD (st : Strand) (r : Raw) (uni : Bool) : Nat :=
  let op := r.op.toNat
  if op = 0x6E then r.cvtUnits.2
  else if op = 0xB0 then 4
  else if op = 0xB1 ∧ r.f = 1#3 then 2
  else if (op = 0x99 ∨ op = 0x9A) ∧ r.f = 7#3 then 2
  else if op = 0xD5 ∨ op = 0xD6 then 2 * st.rowsOf r
  else if op = 0xDA then 4 * (r.f.toNat + 1)
  else if uni then 1 else r.uniRunD

/-- The fields of an instruction. -/
def Strand.flds (st : Strand) (r : Raw) (oi : OpInfo) : List Fld :=
  let uni := r.uniform oi
  let op := r.op.toNat
  let one := r.len == 0#2
  let idx := !one && (oi.base == .a || oi.base == .m || oi.base == .k)
  let fe (i : Nat) : Bool := idx && bit r.fe i
  let d := r.d.toNat
  let a := r.a.toNat
  let vcls : Cls := if uni then .s else .v
  let cd := r.clsD oi
  -- a uniform instruction's D run counts whole registers, a vector one's units may be pairs
  let pd := r.pair oi 0
  let cas := (op == 0x99 || op == 0x9A) && r.f == 7#3
  let fD := if cas then
      (if uni then fldOf st r .s true false d 1 false idx true true false
          ++ fldOf st r .s true false (d + 1) 1 false idx true false false
       else fldOf st r .v false false d 1 pd idx true true false
          ++ fldOf st r .v false false (d + (if pd then 2 else 1)) 1 pd idx true false false
          ++ (if pd then [] else [⟨d + st.j r.js, 1, true, true, false, false, false⟩]))
    else if r.oneBin oi && cd == .p then
      fldOf st r .p false false d 1 false false false true false ++ fldOf st r vcls uni false d 1 false false true false false
    else fldOf st r cd uni r.qd d (st.runD r uni) pd (idx || op == 0xDA) (r.readsD oi) (!r.keepsD oi) false
  -- SPAWN reads four argument registers (R145), CVT its source run (R111)
  let nA := if op = 0x0A then 4 else if op = 0x6E then r.cvtUnits.1 else if uni || r.clsA oi == .s then r.uniRunA else 1
  let fA := fldOf st r (r.clsA oi) uni r.qa a nA (r.pair oi 1) idx true (op == 0xBD || op == 0xBE) (fe 0)
  let fB := if one then [] else fldOf st r (r.clsB oi) uni r.qb r.b 1 (r.pair oi 2) idx true (op == 0xBD) (fe 1)
  let fC := if one then [] else
    if op = 0xBD then fldOf st r .p false false r.c 1 false false false true false
    else fldOf st r (r.clsC oi) uni false r.c 1 (r.pair oi 3) idx true false false
  let fI := if oi.base == .m && r.ix then fldOf st r .v uni false r.i 1 false true true false (fe 1) else []
  let fX := if oi.base = .y then fldOf st r .s true false r.ab 1 false false true false false
    else if oi.base = .x then
      fldOf st r .s true false r.spb 1 false false true false false ++ fldOf st r .s true false r.sv 1 false false true false false
    else if op = 0x04 then fldOf st r .s true false 62 1 false false false true false
    else if op = 0x07 then fldOf st r .s true false 63 1 false false true false false
    else []
  let fP := if oi.base = .k ∧ op ≠ 0xC3 ∧ op ≠ 0xC4 ∧ op ≠ 0xC5 then
      fldOf st r .p false false r.pd 1 false false false true false
    else []
  let fG := if r.g.toNat % 8 = 7 then [] else [⟨300 + r.g.toNat % 8, 1, false, false, true, false, false⟩]
  fD ++ fA ++ fB ++ fC ++ fI ++ fX ++ fP ++ fG

/-- The keys of a field. -/
def Fld.keys (f : Fld) : List Nat := natsFrom f.key f.cnt

/-- The field holds an empty register; predicates wait for the cursor instruction that will write them (R231). -/
def Strand.fldEmpty (st : Strand) (f : Fld) : Bool :=
  if 300 ≤ f.key then st.emptyPreds.contains (f.key - 300) else f.keys.any (fun k => st.isEmpty k)

/-- The 32-bit words that a register of a strand has for its active threads (R448). -/
def Strand.wordsOf (st : Strand) (k : Nat) : List Nat :=
  if k < 128 then st.active.map (fun t => k * 64 + t)
  else if k < 192 then [8192 + 2 * (k - 128), 8193 + 2 * (k - 128)] else []

/-! ## The gate -/

/-- What stands before an instruction's own effect: it is held, it traps, or it issues. -/
inductive Gate where
  | hold
  | trap (cls : Nat)
  | go
  deriving DecidableEq, Repr

/-- Step 6 of R67: a field that R19 forbids. -/
def Strand.outOfBounds (st : Strand) (fs : List Fld) : Bool :=
  fs.any (fun f => f.vec && (st.allot < f.key + f.cnt || (f.even && f.key % 2 == 1)))

/-- A register that holds the instruction at issue (R29). -/
def Strand.heldBy (st : Strand) (fs : List Fld) : Bool :=
  fs.any (fun f => ((f.src && !f.fe) || f.dst) && st.fldEmpty f)

/-- Steps 6 and 7 of R67, then the waits of R29 and R198: an empty source read with FE traps whatever else is empty, as
the table under R30 has it of `FADD.f32 v5, v4^, v4` (DEDUCED, log 48). A register word that an error struck traps at the
reading instruction, after them (R448). -/
def Strand.gate (st : Strand) (r : Raw) (oi : OpInfo) : Gate :=
  let fs := st.flds r oi
  if st.outOfBounds fs then .trap clsBounds
  else if fs.any (fun f => f.src && f.fe && st.fldEmpty f) then .trap clsEmpty
  else if st.heldBy fs then .hold
  else if r.needsLog && st.freeSlot.isNone then .hold
  else if !st.bad.isEmpty && fs.any (fun f => f.src && f.keys.any (fun k => (st.wordsOf k).any (fun w => st.bad.contains w)))
    then .trap clsUncorr
  else .go

/-- Issue an instruction of the issuing strand: held, it changes nothing; trapping, it takes its precise trap; else its
own effect follows. -/
def State.issue (s : State) (r : Raw) (effect : Nat → State → State) : Res :=
  match (s.strand s.cur).gate r r.info with
  | .hold => .next s
  | .trap c =>
    -- a struck register also writes an error record and counts (R435, R448, R459)
    let s' := if c = clsUncorr then
        (s.errorRecord (some (s.strand s.cur).rid) clsUncorr 0).lifeAdd 1 1 else s
    .next (s'.fault s.cur r c 0)
  | .go => .next (effect s.cur s)

/-! ## Values -/

/-- A source in a thread: a vector register or pair, or with U = 1 a uniform register, whole or its bits [31:0]. -/
def Strand.read (st : Strand) (r : Raw) (uni wide : Bool) (n t : Nat) : Nat :=
  if uni then (if wide then st.s n else st.s n % 2 ^ 32)
  else st.val (st.eff r n) t wide

/-- Source A (R92). -/
def Strand.srcA (st : Strand) (r : Raw) (t : Nat) : Nat :=
  let oi := r.info
  let n := if r.oneBin oi then r.d.toNat else r.a.toNat
  st.read r (r.uniform oi) r.wide n t

/-- Source B. -/
def Strand.srcB (st : Strand) (r : Raw) (t : Nat) : Nat :=
  let oi := r.info
  if r.bImm then r.immVal r.wide
  else if r.oneBin oi then st.read r (r.uniform oi) r.wide r.a.toNat t
  else st.read r (r.uniform oi) r.wide r.b t

/-- Source C. -/
def Strand.srcC (st : Strand) (r : Raw) (t : Nat) : Nat :=
  let oi := r.info
  st.read r (r.uniform oi) r.wide (if r.oneBin oi then r.d.toNat else r.c) t

/-- Write a result (R91): a uniform 32-bit result extends by its sign for i32, by zeros otherwise. -/
def Strand.putRes (st : Strand) (r : Raw) (uni wide : Bool) (n t x : Nat) : Strand :=
  if uni then st.setS n (if wide then x else if r.ty = 0 then wrapN 64 (sInt 32 x) else x % 2 ^ 32)
  else st.setVal (st.eff r n) t wide x

/-- Write the results of the threads to D. -/
def Strand.putAll (st : Strand) (r : Raw) (wide : Bool) (l : List (Nat × Nat)) : Strand :=
  forEach l st (fun st x => st.putRes r (r.uniform r.info) wide r.d.toNat x.1 x.2)

/-- The threads that execute: every active one, or the strand once. -/
def Strand.doers (st : Strand) (r : Raw) : List Nat := if r.uniform r.info then [st.lowest] else st.active

/-- The results of every thread, all sources read first (R13). -/
def Strand.results (st : Strand) (r : Raw) (f : Nat → Nat) : List (Nat × Nat) := (st.doers r).map (fun t => (t, f t))

/-! ## Elements (R72) -/

/-- The width of an element of a type. -/
def tyWidth (ty : Nat) : Nat :=
  match ty with
  | 2 | 3 => 64
  | 4 | 5 | 9 | 10 => 16
  | 6 | 7 | 11 | 12 => 8
  | 13 => 6
  | 14 => 40
  | _ => 32

/-- A signed integer type. -/
def tySigned (ty : Nat) : Bool := ty == 0 || ty == 2 || ty == 4 || ty == 6

/-- The elements of a value, the first at its low end. -/
def elems (w n x : Nat) : List Nat :=
  match n with
  | 0 => []
  | n + 1 => x % 2 ^ w :: elems w n (x / 2 ^ w)

/-- The value that elements form. -/
def joinElems (w : Nat) (l : List Nat) : Nat :=
  match l with
  | [] => 0
  | a :: t => a % 2 ^ w + 2 ^ w * joinElems w t

/-- Apply an operation to the elements of up to three values. -/
def mapElems (ty : Nat) (f : Nat → Nat → Nat → Nat) (a b c : Nat) : Nat :=
  let w := tyWidth ty
  let n := tyElems ty
  joinElems w ((nats n).map (fun i => f (a / 2 ^ (w * i) % 2 ^ w) (b / 2 ^ (w * i) % 2 ^ w) (c / 2 ^ (w * i) % 2 ^ w)))

/-! ## Effective addresses (R51, R56) -/

/-- The index of a thread, zero-extended from 32 bits. -/
def Strand.index (st : Strand) (r : Raw) (t : Nat) : Nat :=
  if r.ix then (if r.u = 1#1 then st.s r.i % 2 ^ 32 else st.v (st.eff r r.i) t) else 0

/-- The sum of base, scaled index and displacement: a scratchpad offset as it is. -/
def Strand.offset (st : Strand) (r : Raw) (t : Nat) : Int := (st.s r.a.toNat : Int) + st.index r t * 2 ^ r.sc + r.dispM

/-- The effective address of a thread in global memory, modulo 2^56. -/
def Strand.ea (st : Strand) (r : Raw) (t : Nat) : Nat := wrapN 56 (st.offset r t)

/-- The threads of a memory instruction: with U = 1 the strand acts as one thread (R158). -/
def Strand.memThreads (st : Strand) (r : Raw) : List Nat := if r.u = 1#1 then [st.lowest] else st.active

end Sys2Proof.Machine
end

