-- ==== Sys2Proof/Machine/Convert.lean ====
section
/-! DEFINITION. Conversion between types (R81 to R84, R112), the elements of floating types, and the conversion record
with its thresholds (R85 to R88, R356). -/

namespace Sys2Proof.Machine

/-! ## Elements as exact values and back -/

/-- The floating format of a type code (R68). -/
def tyFmt (ty : Nat) : FFmt :=
  match ty with
  | 9 => fmtF16
  | 10 => fmtBf16
  | 11 => fmtF8a
  | 12 => fmtF8b
  | 14 => fmtFa40
  | _ => fmtF32

/-- The exact value of an element of a type; sigma scales LNS6 (R75, R81). -/
def elemEx (ty sigma x : Nat) : Ex :=
  if ty < 8 then Ex.ofInt (if tySigned ty then sInt (tyWidth ty) x else (x % 2 ^ tyWidth ty : Nat)) 0
  else if ty = 13 then lnsEx sigma x
  else (tyFmt ty).value x

/-- Deliver an exact value into a floating type (R82, R83). -/
def deliverF (ty sigma rm pol : Nat) (x : Ex) : Rounded :=
  if ty = 13 then roundLns sigma rm pol x else roundEx (tyFmt ty) rm pol x

/-- Convert an element of a type into another (R112): an integer from an integer wraps or, with .SAT, clamps. -/
def convert (st dt sigma rm pol x : Nat) : Rounded :=
  if dt < 8 then
    if st < 8 then
      let v : Int := if tySigned st then sInt (tyWidth st) x else (x % 2 ^ tyWidth st : Nat)
      let w := tyWidth dt
      let lo := intLo (tySigned dt) w
      let hi := intHi (tySigned dt) w
      ⟨wrapN w (if pol = 1 then max lo (min v hi) else v), 0, 0⟩
    else exToInt (tySigned dt) (tyWidth dt) rm (elemEx st sigma x)
  else deliverF dt sigma rm pol (elemEx st sigma x)

/-- A conversion into this type counts events (R85). -/
def counts (dt : Nat) : Bool := 9 ≤ dt && dt ≤ 13

/-- What the conversion of a list of elements delivers: elements, flags, and the events as NaNs, saturations, flushes. -/
def convertAll (st dt sigma rm pol : Nat) (l : List Nat) : List Nat × Nat × (Nat × Nat × Nat) :=
  let rs := l.map (convert st dt sigma rm pol)
  (rs.map Rounded.bits, rs.foldl (fun f x => f ||| x.flags) 0,
   if counts dt then rs.foldl (fun c x => addEvent c x.event) (0, 0, 0) else (0, 0, 0))

/-- Add two counts of events. -/
def addEvents (a b : Nat × Nat × Nat) : Nat × Nat × Nat := (a.1 + b.1, a.2.1 + b.2.1, a.2.2 + b.2.2)

/-! ## The conversion record (R86 to R88, R356) -/

/-- The greatest count. -/
def cvMax : Nat := 2 ^ 40 - 1

/-- Add n to the count at bit c with its limit at bit l and its flag at bit f: the block after, and whether the limit
was crossed (R88). -/
def cvAdd (x c l f n : Nat) : Nat × Bool :=
  let old := bits x (c + 39) c
  let new := min (old + n) cvMax
  let lim := bits x (l + 39) l
  let cross := lim ≠ 0 ∧ old < lim ∧ lim ≤ new
  let x := setBits x (c + 39) c new
  (if cross then setBits x f f 1 else x, decide cross)

/-- Add an instruction's or a command's events to the record of a region as one addition (R87): whether a threshold was
crossed. -/
def State.countEvents (s : State) (rid : Nat) (ev : Nat × Nat × Nat) : Bool × State :=
  if ev = (0, 0, 0) then (false, s)
  else
    let pa := (s.region rid).cvrecPa
    let x := s.cvRec pa
    let (x, a) := cvAdd x 64 256 448 ev.2.1
    let (x, b) := cvAdd x 128 320 449 ev.2.2
    let (x, c) := cvAdd x 192 384 450 ev.1
    (a || b || c, s.setCvRec pa (some x))

/-- The bit at which a conversion-record CSR's field begins in the record, and its width (R86, R356). -/
def cvField (csr : Nat) : Option (Nat × Nat) :=
  match csr with
  | 0x100 => some (64, 40)
  | 0x101 => some (128, 40)
  | 0x102 => some (192, 40)
  | 0x110 => some (256, 40)
  | 0x111 => some (320, 40)
  | 0x112 => some (384, 40)
  | 0x120 => some (448, 3)
  | _ => none

end Sys2Proof.Machine
end

