-- ==== Sys2Proof/Machine/Control.lean ====
section
/-! DEFINITION. NOP, branches and calls (R121 to R123), BRC (R124), LOOP (R126) and EXIT (R140). -/

namespace Sys2Proof.Machine

/-- Go on after an instruction that has taken its effect. -/
def State.done (s : State) (sid : Nat) (r : Raw) : State := s.modStrand sid (fun st => st.next r.bytes)

/-- Issue an instruction that changes only its strand and goes on sequentially. -/
def State.issueStrand (s : State) (r : Raw) (f : Strand → Strand) : Res :=
  s.issue r (fun sid s => s.setStrand sid ((f (s.strand sid)).next r.bytes))

/-- NOP (R121). -/
def execNop (o : W1Ops) (s : State) : Res := s.issueStrand (rawW1 0x00 o) id

/-- Address of an instruction plus 4 times a signed offset of w bits (R49, R122). -/
def branchTo (pc : BitVec 56) (w off : Nat) : BitVec 56 := BitVec.ofNat 56 (add56 pc.toNat (4 * sInt w off))

/-- The target of a branch: OFF32A in three words, OFF17 in one, S(A) for a register branch (R122). -/
def Strand.target (st : Strand) (r : Raw) : BitVec 56 :=
  if r.op = 0x01#8 ∨ r.op = 0x04#8 then
    (if r.len = 2#2 then branchTo st.pc 32 r.w1.toNat else branchTo st.pc 17 r.off17)
  else BitVec.ofNat 56 (st.s r.a.toNat)

/-- A call writes the address of the next instruction into s62, or S(D) for CALLX, and never unwinds (R122, R128). -/
def Strand.callTo (st : Strand) (r : Raw) (x : BitVec 56) : Strand :=
  let link := (st.pc + BitVec.ofNat 56 r.bytes).toNat
  { st.setS (if r.op = 0x04#8 then 62 else r.d.toNat) link with pc := x }

/-- A branch or call (R122, R123): taken when the guard holds in every active thread, not taken when it holds in none. -/
def State.branch (s : State) (r : Raw) : Res :=
  s.issue r (fun sid s =>
    let st := s.strand sid
    let g := st.guarded r.g
    if g = [] ∧ st.amask ≠ 0 then s.done sid r
    else if g ≠ st.active then s.fault sid r clsConverge 0
    else
      let x := st.target r
      if x.toNat % 4 ≠ 0 then s.fault sid r clsAlign x.toNat
      else if r.op = 0x04#8 ∨ r.op = 0x05#8 then s.setStrand sid (st.callTo r x)
      else s.setStrand sid (st.jump x))

/-- BRA, in one word and in three (R122). -/
def execBraW1b (o : BOps) (s : State) : Res := s.branch (rawB 0x01 o)
def execBra (o : BWOps) (s : State) : Res := s.branch (rawBW 0x01 o)
/-- BRX (R122). -/
def execBrx (o : W1Ops) (s : State) : Res := s.branch (rawW1 0x03 o)
/-- CALL, in one word and in three (R122). -/
def execCallW1b (o : BOps) (s : State) : Res := s.branch (rawB 0x04 o)
def execCall (o : BWOps) (s : State) : Res := s.branch (rawBW 0x04 o)
/-- CALLX (R122). -/
def execCallx (o : W1Ops) (s : State) : Res := s.branch (rawW1 0x05 o)
/-- RET (R122). -/
def execRet (o : W1Ops) (s : State) : Res := s.branch (rawW1 0x06 o)

/-- The mask of a list of threads. -/
def maskOf (l : List Nat) : Nat := l.foldl (fun m t => m ||| 2 ^ t) 0

/-- BRC (R124). -/
def execBrc (o : BWOps) (s : State) : Res :=
  let r := rawBW 0x02 o
  s.issue r (fun sid s =>
    let st := s.strand sid
    let e := BitVec.ofNat 64 (maskOf (st.guarded r.g))
    let n := st.amask &&& ~~~e
    let t := branchTo st.pc 32 r.w1.toNat
    let j := branchTo st.pc 32 r.w2.toNat
    if e = 0 then s.setStrand sid (st.jump j)
    else if n = 0 then s.setStrand sid (st.jump t)
    else if 16 ≤ st.divs.length then s.fault sid r clsDivOvf 0
    else s.setStrand sid { st.jump t with divs := ⟨n, j⟩ :: st.divs, amask := e })

/-- LOOP (R126); in handler mode it raises the loop-overflow trap (R203). -/
def execLoop (o : BWOps) (s : State) : Res :=
  let r := rawBW 0x07 o
  s.issue r (fun sid s =>
    let st := s.strand sid
    let n := st.s 63 % 2 ^ 32
    let start := st.pc + 12#56
    let last := branchTo st.pc 32 r.w1.toNat
    if st.hmode then s.fault sid r clsLoopOvf 0
    else if n = 0 ∨ last < start then s.setStrand sid { st with pc := branchTo st.pc 32 r.w2.toNat }
    else if 4 ≤ st.loops.length then s.fault sid r clsLoopOvf 0
    else s.setStrand sid { st with pc := start, loops := ⟨start, last, BitVec.ofNat 32 n⟩ :: st.loops })

/-- EXIT (R140): every active thread ends, and the divergence stack resumes or the strand ends. -/
def execExit (o : W1Ops) (s : State) : Res := s.issue (rawW1 0x08 o) (fun sid s => s.endThreads sid)

end Sys2Proof.Machine
end

