-- ==== Sys2Proof/Machine/Integer.lean ====
section
/-! DEFINITION. Integer and bit instructions (R94 to R97), LEA (R99), CMP (R100), SEL (R101) and the moves (R102). -/

namespace Sys2Proof.Machine

/-! ## Element results (R94, R97) -/

/-- An exact integer into w bits: clamped first where the instruction saturates. -/
def fitInt (w : Nat) (sg sat : Bool) (x : Int) : Nat :=
  wrapN w (if sat then max (intLo sg w) (min x (intHi sg w)) else x)

/-- The bits of a element from the top down: bit k of the result is bit n - 1 - k. -/
def revBits (n x : Nat) : Nat :=
  match n with
  | 0 => 0
  | n + 1 => x % 2 * 2 ^ n + revBits n (x / 2)

/-- BFX of R97: pos in b[7:0], len in b[15:8]. -/
def bfxBits (w : Nat) (sg : Bool) (a b : Nat) : Nat :=
  let pos := b % 256
  let len := min (b / 256 % 256) w
  let x : Int := (if sg then sInt w a else (a : Int)) / (2 ^ pos : Nat)
  if len = 0 then 0
  else if sg then wrapN w (sInt len (wrapN len x)) else wrapN len x

/-- BFI of R97: pos in c[7:0], len in c[15:8]. -/
def bfiBits (w a b c : Nat) : Nat :=
  let pos := c % 256
  let m := (2 ^ (c / 256 % 256) - 1) * 2 ^ pos % 2 ^ w
  (a &&& (2 ^ w - 1 - m)) ||| (b * 2 ^ pos &&& m)

/-- PERM of R97: result byte i by nibble i of c. -/
def permBytes (a b c : Nat) : Nat :=
  joinElems 8 ((nats 4).map (fun i =>
    let n := c / 16 ^ i % 16
    if 8 ≤ n then 0 else (a + 2 ^ 32 * b) / 256 ^ n % 256))

/-- The element result of an opcode, for width w and signed or natural elements (R94). -/
def intElem (op w : Nat) (sg sat : Bool) (a b c : Nat) : Nat :=
  let ia : Int := if sg then sInt w a else a
  let ib : Int := if sg then sInt w b else b
  let ic : Int := if sg then sInt w c else c
  match op with
  | 0x20 => fitInt w sg sat (ia + ib)
  | 0x21 => fitInt w sg sat (ia - ib)
  | 0x22 => wrapN w (ia * ib)
  | 0x23 => wrapN w (ia * ib / (2 ^ w : Nat))
  | 0x24 => wrapN w (ia * ib + ic)
  | 0x27 => wrapN w (min ia ib)
  | 0x28 => wrapN w (max ia ib)
  | 0x29 => fitInt w sg sat ia.natAbs
  | 0x2A => a &&& b
  | 0x2B => a ||| b
  | 0x2C => a ^^^ b
  | 0x2D => a &&& (2 ^ w - 1 - b)
  | 0x2E => a * 2 ^ (b % w) % 2 ^ w
  | 0x2F => a / 2 ^ (b % w)
  | 0x30 => wrapN w (sInt w a / (2 ^ (b % w) : Nat))
  | 0x31 => (a * 2 ^ (b % w) + a / 2 ^ (w - b % w)) % 2 ^ w
  | 0x32 => popN w a
  | 0x33 => w - bitLen a
  | 0x34 => revBits w a
  | 0x35 => bfxBits w sg a b
  | 0x36 => bfiBits w a b c
  | 0x37 => permBytes a b c
  | _ => 0

/-- The result of an instruction of R94 in a thread. -/
def Strand.aluAt (st : Strand) (r : Raw) (t : Nat) : Nat :=
  mapElems r.ty (intElem r.op.toNat (tyWidth r.ty) (tySigned r.ty) (bit r.mod 0)) (st.srcA r t) (st.srcB r t) (st.srcC r t)

/-- An instruction of R94 but DIV and REM (R95). -/
def State.runAlu (s : State) (r : Raw) : Res :=
  s.issueStrand r (fun st => st.putAll r r.wide (st.results r (st.aluAt r)))

/-! One meaning for each row: one-word and longer forms of the integer and bit instructions (R94). -/

def execAddW1a (o : W1Ops) (s : State) : Res := s.runAlu (rawW1 0x20 o)
def execAdd (o : AOps) (s : State) : Res := s.runAlu (rawA 0x20 o)
def execSubW1a (o : W1Ops) (s : State) : Res := s.runAlu (rawW1 0x21 o)
def execSub (o : AOps) (s : State) : Res := s.runAlu (rawA 0x21 o)
def execMulW1a (o : W1Ops) (s : State) : Res := s.runAlu (rawW1 0x22 o)
def execMul (o : AOps) (s : State) : Res := s.runAlu (rawA 0x22 o)
def execMulhW1a (o : W1Ops) (s : State) : Res := s.runAlu (rawW1 0x23 o)
def execMulh (o : AOps) (s : State) : Res := s.runAlu (rawA 0x23 o)
def execMadW1a (o : W1Ops) (s : State) : Res := s.runAlu (rawW1 0x24 o)
def execMad (o : AOps) (s : State) : Res := s.runAlu (rawA 0x24 o)
def execMinW1a (o : W1Ops) (s : State) : Res := s.runAlu (rawW1 0x27 o)
def execMin (o : AOps) (s : State) : Res := s.runAlu (rawA 0x27 o)
def execMaxW1a (o : W1Ops) (s : State) : Res := s.runAlu (rawW1 0x28 o)
def execMax (o : AOps) (s : State) : Res := s.runAlu (rawA 0x28 o)
def execAbsW1a (o : W1Ops) (s : State) : Res := s.runAlu (rawW1 0x29 o)
def execAbs (o : AOps) (s : State) : Res := s.runAlu (rawA 0x29 o)
def execAndW1a (o : W1Ops) (s : State) : Res := s.runAlu (rawW1 0x2A o)
def execAnd (o : AOps) (s : State) : Res := s.runAlu (rawA 0x2A o)
def execOrW1a (o : W1Ops) (s : State) : Res := s.runAlu (rawW1 0x2B o)
def execOr (o : AOps) (s : State) : Res := s.runAlu (rawA 0x2B o)
def execXorW1a (o : W1Ops) (s : State) : Res := s.runAlu (rawW1 0x2C o)
def execXor (o : AOps) (s : State) : Res := s.runAlu (rawA 0x2C o)
def execAndnW1a (o : W1Ops) (s : State) : Res := s.runAlu (rawW1 0x2D o)
def execAndn (o : AOps) (s : State) : Res := s.runAlu (rawA 0x2D o)
def execShlW1a (o : W1Ops) (s : State) : Res := s.runAlu (rawW1 0x2E o)
def execShl (o : AOps) (s : State) : Res := s.runAlu (rawA 0x2E o)
def execShrW1a (o : W1Ops) (s : State) : Res := s.runAlu (rawW1 0x2F o)
def execShr (o : AOps) (s : State) : Res := s.runAlu (rawA 0x2F o)
def execSarW1a (o : W1Ops) (s : State) : Res := s.runAlu (rawW1 0x30 o)
def execSar (o : AOps) (s : State) : Res := s.runAlu (rawA 0x30 o)
def execRolW1a (o : W1Ops) (s : State) : Res := s.runAlu (rawW1 0x31 o)
def execRol (o : AOps) (s : State) : Res := s.runAlu (rawA 0x31 o)
def execPopcW1a (o : W1Ops) (s : State) : Res := s.runAlu (rawW1 0x32 o)
def execPopc (o : AOps) (s : State) : Res := s.runAlu (rawA 0x32 o)
def execClzW1a (o : W1Ops) (s : State) : Res := s.runAlu (rawW1 0x33 o)
def execClz (o : AOps) (s : State) : Res := s.runAlu (rawA 0x33 o)
def execBrevW1a (o : W1Ops) (s : State) : Res := s.runAlu (rawW1 0x34 o)
def execBrev (o : AOps) (s : State) : Res := s.runAlu (rawA 0x34 o)
def execBfxW1a (o : W1Ops) (s : State) : Res := s.runAlu (rawW1 0x35 o)
def execBfx (o : AOps) (s : State) : Res := s.runAlu (rawA 0x35 o)
def execBfiW1a (o : W1Ops) (s : State) : Res := s.runAlu (rawW1 0x36 o)
def execBfi (o : AOps) (s : State) : Res := s.runAlu (rawA 0x36 o)
def execPermW1a (o : W1Ops) (s : State) : Res := s.runAlu (rawW1 0x37 o)
def execPerm (o : AOps) (s : State) : Res := s.runAlu (rawA 0x37 o)
/-! ## DIV and REM (R96) -/

/-- A result that reaches its destination later: the destination is empty until then (R28). -/
def State.later (s : State) (sid : Nat) (r : Raw) (wide : Bool) (l : List (Nat × Nat)) (fl : Nat) (transc : Bool) : State :=
  let (seq, s) := s.nextSeq
  let st := s.strand sid
  let uni := r.u == 1#1
  let d := st.eff r r.d.toNat
  let lane (x : Nat × Nat) : List (Nat × Word) :=
    (d * 64 + x.1, BitVec.ofNat 32 x.2) :: (if wide then [((d + 1) * 64 + x.1, BitVec.ofNat 32 (x.2 / 2 ^ 32))] else [])
  let whole (x : Nat × Nat) : Nat × DWord :=
    (r.d.toNat, BitVec.ofNat 64 (if wide then x.2 else if r.ty = 0 then wrapN 64 (sInt 32 x.2) else x.2 % 2 ^ 32))
  let f : Fill := { seq := seq, regs := st.destKeys r, lanes := if uni then [] else l.flatMap lane,
                    uregs := if uni then l.map whole else [], flags := BitVec.ofNat 5 fl, kind := if transc then .transc else .division }
  let s := s.setStrand sid { (st.emptyAll f.regs).next r.bytes with fills := st.fills ++ [f] }
  s.push (if transc then .transcendentalComplete sid seq else .divisionComplete sid seq)

/-- The quotient or remainder of one element (R96). -/
def divElem (rem sg : Bool) (w a b : Nat) : Nat :=
  let ia : Int := if sg then sInt w a else a
  let ib : Int := if sg then sInt w b else b
  if ib = 0 then (if rem then a else 2 ^ w - 1)
  else wrapN w (if rem then Int.tmod ia ib else Int.tdiv ia ib)

def State.runDiv (s : State) (r : Raw) (rem : Bool) : Res :=
  s.issue r (fun sid s =>
    let st := s.strand sid
    let w := tyWidth r.ty
    s.later sid r r.wide (st.results r (fun t => divElem rem (tySigned r.ty) w (st.srcA r t % 2 ^ w) (st.srcB r t % 2 ^ w)))
      0 false)

/-- DIV (R96). -/
def execDivW1a (o : W1Ops) (s : State) : Res := s.runDiv (rawW1 0x25 o) false
def execDiv (o : AOps) (s : State) : Res := s.runDiv (rawA 0x25 o) false
/-- REM (R96). -/
def execRemW1a (o : W1Ops) (s : State) : Res := s.runDiv (rawW1 0x26 o) true
def execRem (o : AOps) (s : State) : Res := s.runDiv (rawA 0x26 o) true

/-- A result on its way arrives (R28): DIVISION_COMPLETE (R96), TRANSCENDENTAL_COMPLETE (R108), and the rows of MLDT (R329). -/
def State.arrival (s : State) (sid seq : Nat) (kind : FillKind) : Res :=
  if (s.strand sid).fills.any (fun f => f.seq == seq && f.kind == kind) then
    .next ((s.modStrand sid (fun st => st.arrive seq)).wakeTrap sid)
  else .next s

def execDivisionComplete (sid seq : Nat) (s : State) : Res := s.arrival sid seq .division

/-! ## LEA, CMP, SEL -/

/-- LEA (R99). -/
def execLea (o : MOps) (s : State) : Res :=
  let r := rawM 0x38 o
  s.issueStrand r (fun st => st.putAll r r.wide (st.results r (fun t =>
    let a := wrapN 56 (st.offset r t)
    if r.wide then a else a % 2 ^ 32)))

/-- The conditions EQ, NE, LT, LE, GT, GE by code (R100). -/
def condHolds (f : Nat) (eq lt : Bool) : Bool :=
  match f with
  | 0 => eq
  | 1 => !eq
  | 2 => lt
  | 3 => lt || eq
  | 4 => !(lt || eq)
  | _ => !lt

/-- A predicate result: per thread, or the strand's one value in every active thread (R91). -/
def Strand.putCond (st : Strand) (r : Raw) (f : Nat → Bool) : Strand :=
  if r.u = 1#1 then st.putPred r.d.toNat (f st.lowest)
  else st.putPreds r.d.toNat (st.active.map (fun t => (t, f t)))

/-- CMP in a thread (R100). -/
def Strand.cmpAt (st : Strand) (r : Raw) (t : Nat) : Bool :=
  let w := tyWidth r.ty
  let a := st.srcA r t % 2 ^ w
  let b := st.srcB r t % 2 ^ w
  condHolds r.f.toNat (a == b) (if tySigned r.ty then decide (sInt w a < sInt w b) else decide (a < b))

/-- CMP (R100). -/
def execCmp (o : AOps) (s : State) : Res :=
  let r := rawA 0x39 o
  s.issueStrand r (fun st => st.putCond r (st.cmpAt r))

/-- SEL (R101): the guard selects and never narrows execution. -/
def execSel (o : AOps) (s : State) : Res :=
  let r := rawA 0x3A o
  s.issueStrand r (fun st => st.putAll r r.wide (st.results r (fun t =>
    if (if r.u = 1#1 then st.uniGuard r.g else st.guard r.g t) then st.srcA r t else st.srcB r t)))

/-! ## Moves (R102) -/

/-- MOV: raw bits. -/
def State.runMov (s : State) (r : Raw) : Res := s.issueStrand r (fun st => st.putAll r r.wide (st.results r (st.srcA r)))
def execMovW1a (o : W1Ops) (s : State) : Res := s.runMov (rawW1 0x3B o)
def execMov (o : AOps) (s : State) : Res := s.runMov (rawA 0x3B o)

/-- MOVI of a 10-bit immediate: its type is i32, so it extends by its sign (R12, R93). -/
def execMoviW1i (o : IOps) (s : State) : Res :=
  let r := rawI 0x3C o
  s.issueStrand r (fun st => st.putAll r false (st.results r (fun _ => wrapN 32 (sInt 10 o.imm.toNat))))
/-- MOVI of a 32-bit immediate. -/
def execMovi (o : AOps) (s : State) : Res :=
  let r := rawA 0x3C o
  s.issueStrand r (fun st => st.putAll r r.wide (st.results r (fun _ => r.immVal r.wide)))

/-- MOVS: a uniform register into every active thread. -/
def State.runMovs (s : State) (r : Raw) : Res :=
  s.issueStrand r (fun st => st.putAll r r.wide (st.results r (fun _ =>
    if r.wide then st.s r.a.toNat else st.s r.a.toNat % 2 ^ 32)))
def execMovsW1a (o : W1Ops) (s : State) : Res := s.runMovs (rawW1 0x3D o)
def execMovs (o : AOps) (s : State) : Res := s.runMovs (rawA 0x3D o)

end Sys2Proof.Machine
end

