-- ==== Sys2Proof/Machine/Floating.lean ====
section
/-! DEFINITION. Floating-point instructions (R104 to R109) and CVT (R110 to R112). -/

namespace Sys2Proof.Machine

/-! ## Element results -/

/-- FRND (R109): a whole value of the same format; NX alone when it differs. -/
def frndElem (f : FFmt) (rm : Nat) (a : Ex) : Rounded :=
  match a with
  | .fin neg m e =>
    let (n, exact) := roundAt rm neg m e 0
    ⟨(roundEx f 0 0 (.fin neg n 0)).bits, if exact then 0 else flNX, 0⟩
  | x => ⟨(roundEx f 0 0 x).bits, 0, 0⟩

/-- The rounded result of an opcode for elements of a format (R105, R106, R109). -/
def floatElem (op : Nat) (f : FFmt) (rm a b c : Nat) : Rounded :=
  let va := f.value a
  let vb := f.value b
  let give (x : Ex × Bool) : Rounded :=
    let y := roundEx f rm 0 x.1
    { y with flags := if x.2 then y.flags ||| flNV else y.flags }
  match op with
  | 0x60 => give (exAdd rm va vb)
  | 0x61 => give (exAdd rm va vb.neg)
  | 0x62 => give (exMul va vb)
  | 0x63 => give (exFma rm va vb (f.value c))
  | 0x64 => ⟨(roundEx f rm 0 (exMin va vb)).bits, 0, 0⟩
  | 0x65 => ⟨(roundEx f rm 0 (exMax va vb)).bits, 0, 0⟩
  | _ => frndElem f rm va

/-- The elements of three values through an operation: the value they form and the flags. -/
def floatElems (op ty rm a b c : Nat) : Nat × Nat :=
  let w := tyWidth ty
  let l := (nats (tyElems ty)).map (fun i =>
    floatElem op (tyFmt ty) rm (a / 2 ^ (w * i) % 2 ^ w) (b / 2 ^ (w * i) % 2 ^ w) (c / 2 ^ (w * i) % 2 ^ w))
  (joinElems w (l.map Rounded.bits), l.foldl (fun fl x => fl ||| x.flags) 0)

/-- Write results with their flags (R34). -/
def Strand.putFlagged (st : Strand) (r : Raw) (l : List (Nat × Nat × Nat)) : Strand :=
  (st.putAll r false (l.map (fun x => (x.1, x.2.1)))).addFlags (l.foldl (fun fl x => fl ||| x.2.2) 0)

/-- A floating instruction that writes its destination at once (R105). -/
def State.runFloat (s : State) (r : Raw) : Res :=
  s.issueStrand r (fun st =>
    let rm := st.rmOf r
    st.putFlagged r ((st.doers r).map (fun t =>
      (t, floatElems r.op.toNat r.ty rm (st.srcA r t) (st.srcB r t) (st.srcC r t)))))

/-! One meaning for each row (R104). -/

def execFaddW1a (o : W1Ops) (s : State) : Res := s.runFloat (rawW1 0x60 o)
def execFadd (o : AOps) (s : State) : Res := s.runFloat (rawA 0x60 o)
def execFsubW1a (o : W1Ops) (s : State) : Res := s.runFloat (rawW1 0x61 o)
def execFsub (o : AOps) (s : State) : Res := s.runFloat (rawA 0x61 o)
def execFmulW1a (o : W1Ops) (s : State) : Res := s.runFloat (rawW1 0x62 o)
def execFmul (o : AOps) (s : State) : Res := s.runFloat (rawA 0x62 o)
def execFfmaW1a (o : W1Ops) (s : State) : Res := s.runFloat (rawW1 0x63 o)
def execFfma (o : AOps) (s : State) : Res := s.runFloat (rawA 0x63 o)
def execFminW1a (o : W1Ops) (s : State) : Res := s.runFloat (rawW1 0x64 o)
def execFmin (o : AOps) (s : State) : Res := s.runFloat (rawA 0x64 o)
def execFmaxW1a (o : W1Ops) (s : State) : Res := s.runFloat (rawW1 0x65 o)
def execFmax (o : AOps) (s : State) : Res := s.runFloat (rawA 0x65 o)
def execFrndW1a (o : W1Ops) (s : State) : Res := s.runFloat (rawW1 0x6D o)
def execFrnd (o : AOps) (s : State) : Res := s.runFloat (rawA 0x6D o)
/-! ## FCMP and FCLASS (R107) -/

/-- The conditions of R100 and UN on two FP32 values. -/
def fcmpHolds (f a b : Nat) : Bool :=
  let va := fmtF32.value a
  let vb := fmtF32.value b
  if va.isNan || vb.isNan then f == 1 || f == 6
  else f != 6 && condHolds f (exCmp va vb == 0) (decide (exCmp va vb < 0))

def State.runFcmp (s : State) (r : Raw) : Res :=
  s.issueStrand r (fun st => st.putCond r (fun t => fcmpHolds r.f.toNat (st.srcA r t) (st.srcB r t)))
def execFcmpW1a (o : W1Ops) (s : State) : Res := s.runFcmp (rawW1 0x66 o)
def execFcmp (o : AOps) (s : State) : Res := s.runFcmp (rawA 0x66 o)

/-- The class of an FP32 value as the number of its bit. -/
def fclassBit (x : Nat) : Nat :=
  match fmtF32.value x with
  | .nan => 8
  | .inf neg => if neg then 0 else 7
  | .fin neg m _ =>
    if m = 0 then (if neg then 3 else 4)
    else if m < 2 ^ 23 then (if neg then 2 else 5)
    else if neg then 1 else 6

def State.runFclass (s : State) (r : Raw) : Res :=
  s.issueStrand r (fun st => st.putAll r false (st.results r (fun t => 2 ^ fclassBit (st.srcA r t))))
def execFclassW1a (o : W1Ops) (s : State) : Res := s.runFclass (rawW1 0x67 o)
def execFclass (o : AOps) (s : State) : Res := s.runFclass (rawA 0x67 o)

/-! ## Transcendental functions (R108) -/

/-- The rounded result of an opcode, with its flags. -/
def transcElem (op rm a : Nat) : Rounded :=
  let v := fmtF32.value a
  let (x, fl) := match op with
    | 0x68 => exRcp v
    | 0x69 => exRsqrt v
    | 0x6A => exSqrt v
    | 0x6B => exExp2 v
    | _ => exLog2 v
  let y := roundEx fmtF32 rm 0 x
  { y with flags := y.flags ||| fl }

/-- A transcendental function: its destination is empty, and its flags wait, until it arrives. -/
def State.runTransc (s : State) (r : Raw) : Res :=
  s.issue r (fun sid s =>
    let st := s.strand sid
    let l := (st.doers r).map (fun t => (t, transcElem r.op.toNat (st.rmOf r) (st.srcA r t)))
    s.later sid r false (l.map (fun x => (x.1, x.2.bits))) (l.foldl (fun fl x => fl ||| x.2.flags) 0) true)

def execFrcpW1a (o : W1Ops) (s : State) : Res := s.runTransc (rawW1 0x68 o)
def execFrcp (o : AOps) (s : State) : Res := s.runTransc (rawA 0x68 o)
def execFrsqW1a (o : W1Ops) (s : State) : Res := s.runTransc (rawW1 0x69 o)
def execFrsq (o : AOps) (s : State) : Res := s.runTransc (rawA 0x69 o)
def execFsqrtW1a (o : W1Ops) (s : State) : Res := s.runTransc (rawW1 0x6A o)
def execFsqrt (o : AOps) (s : State) : Res := s.runTransc (rawA 0x6A o)
def execFexp2W1a (o : W1Ops) (s : State) : Res := s.runTransc (rawW1 0x6B o)
def execFexp2 (o : AOps) (s : State) : Res := s.runTransc (rawA 0x6B o)
def execFlog2W1a (o : W1Ops) (s : State) : Res := s.runTransc (rawW1 0x6C o)
def execFlog2 (o : AOps) (s : State) : Res := s.runTransc (rawA 0x6C o)
/-- TRANSCENDENTAL_COMPLETE (R108). -/
def execTranscendentalComplete (sid seq : Nat) (s : State) : Res := s.arrival sid seq .transc

/-! ## CVT (R110 to R112) -/

/-- The value of unit u of a run of a type that begins at a register field. -/
def Strand.unitAt (st : Strand) (r : Raw) (field ty u t : Nat) : Nat :=
  let wide := ty == 2 || ty == 3
  if r.u = 1#1 then (if wide then st.s (field + u) else st.s (field + u) % 2 ^ 32)
  else st.val (st.eff r field + (if wide then 2 * u else u)) t wide

/-- Write unit u of the run of destinations. -/
def Strand.putUnit (st : Strand) (r : Raw) (u t x : Nat) : Strand :=
  if r.u = 1#1 then st.putRes r true r.wide (r.d.toNat + u) t x
  else st.setVal (st.eff r r.d.toNat + (if r.wide then 2 * u else u)) t r.wide x

/-- The scale of an LNS6 side. -/
def Strand.sigma (st : Strand) (r : Raw) (t : Nat) : Nat :=
  if r.bImm then r.imm32 % 256 else if r.clsB r.info = .none then 0 else st.srcB r t % 256

/-- What CVT delivers in a thread: the units it writes, its flags and events. -/
def Strand.cvtAt (st : Strand) (r : Raw) (t : Nat) : List Nat × Nat × (Nat × Nat × Nat) :=
  let sty := if r.len = 0#2 then 0 else r.mod % 16
  let dty := r.ty
  let pol := if bit r.mod 4 then 1 else if bit r.mod 5 then 2 else 0
  let src := (nats r.cvtUnits.1).flatMap (fun u => elems (tyWidth sty) (tyElems sty) (st.unitAt r r.a.toNat sty u t))
  let (l, fl, ev) := convertAll sty dty (st.sigma r t) (st.rmOf r) pol src
  let e := tyElems dty
  ((nats r.cvtUnits.2).map (fun u => joinElems (tyWidth dty) ((l.drop (e * u)).take e)), fl, ev)

/-- A trap of kind A of an instruction that has completed (R197, R201): taken at this boundary when no older class
awaits delivery, else left to a later one. -/
def State.raiseAfter (s : State) (sid cls fpc faddr seq : Nat) (words : List (BitVec 32)) : State :=
  let st := s.strand sid
  if st.life = .resident ∧ (st.hmode ∨ st.awaiting.isNone) then s.after sid cls fpc faddr words
  else s.laterClass sid cls fpc faddr seq words

/-- CVT: all threads read, then written, flags merged and events counted in one addition (R87); a crossed threshold
raises class 15 after completion (R89). -/
def State.runCvt (s : State) (r : Raw) : Res :=
  s.issue r (fun sid s =>
    let (seq, s) := s.nextSeq
    let st := s.strand sid
    let l := (st.doers r).map (fun t => (t, st.cvtAt r t))
    let st' := forEach l st (fun st x =>
      (forEach ((nats r.cvtUnits.2).zip x.2.1) st (fun st y => st.putUnit r y.1 x.1 y.2)).addFlags x.2.2.1)
    let ev := l.foldl (fun e x => addEvents e x.2.2.2) (0, 0, 0)
    let (cross, s) := (s.setStrand sid (st'.next r.bytes)).countEvents st.rid ev
    if cross then s.raiseAfter sid clsThresh st.pc.toNat 0 seq (rawWords r) else s)

def execCvtW1a (o : W1Ops) (s : State) : Res := s.runCvt (rawW1 0x6E o)
def execCvt (o : AOps) (s : State) : Res := s.runCvt (rawA 0x6E o)

end Sys2Proof.Machine
end

