-- ==== Sys2Proof/Machine/CrossLane.lean ====
section
/-! DEFINITION. Cross-lane instructions (R115 to R119). -/

namespace Sys2Proof.Machine

/-- The source thread of SHFL as an integer (R116). -/
def shflFrom (f size t b : Nat) : Int :=
  match f with
  | 0 => ((t / size * size + b % size : Nat) : Int)
  | 1 => (t : Int) - b
  | 2 => (t : Int) + b
  | _ => ((t ^^^ b : Nat) : Int)

/-- SHFL in a thread: A of thread u when u lies in the segment and is active, else the thread's own. -/
def Strand.shflAt (st : Strand) (r : Raw) (t : Nat) : Nat :=
  let m := r.mod % 8
  let size := if m = 0 then 64 else 2 ^ m
  let b := if r.bImm then r.imm32 else st.read r false false r.b t
  let u := shflFrom r.f.toNat size t b
  let start := t / size * size
  if (start : Int) ≤ u ∧ u < start + size ∧ st.active.contains u.toNat then st.srcA r u.toNat else st.srcA r t

/-- SHFL (R116). -/
def execShfl (o : AOps) (s : State) : Res :=
  let r := rawA 0x80 o
  s.issueStrand r (fun st => st.putAll r r.wide (st.results r (st.shflAt r)))

/-- The value of VOTE over the active threads: ALL, ANY, UNI. -/
def Strand.voteOf (st : Strand) (r : Raw) : Bool :=
  let l := st.active.map (fun t => bit (st.p r.a.toNat) t)
  match r.f.toNat with
  | 0 => l.all id
  | 1 => l.any id
  | _ => l.all id || !l.any id

/-- VOTE (R117). -/
def execVote (o : AOps) (s : State) : Res :=
  let r := rawA 0x81 o
  s.issueStrand r (fun st => st.putPred r.d.toNat (st.voteOf r))

/-- BALLOT (R117). -/
def execBallot (o : AOps) (s : State) : Res :=
  let r := rawA 0x82 o
  s.issueStrand r (fun st => st.setS r.d.toNat (st.amask.toNat &&& st.p r.a.toNat))

/-- The combination of integers (R118). -/
def combInt (op ty : Nat) (l : List Nat) : Nat :=
  let w := tyWidth ty
  let sg := tySigned ty
  let v (x : Nat) : Int := if sg then sInt w x else (x : Int)
  match op with
  | 0 => l.foldl (fun a x => (a + x) % 2 ^ w) 0
  | 1 => wrapN w (l.foldl (fun a x => min a (v x)) (intHi sg w))
  | 2 => wrapN w (l.foldl (fun a x => max a (v x)) (intLo sg w))
  | 3 => l.foldl (fun a x => a &&& x) (2 ^ w - 1)
  | 4 => l.foldl (fun a x => a ||| x) 0
  | _ => l.foldl (fun a x => a ^^^ x) 0

/-- The combination of FP32 values: an exact sum rounded once, or R106. -/
def combFloat (op rm : Nat) (l : List Nat) : Rounded :=
  let vs := l.map fmtF32.value
  match op with
  | 0 =>
    let (x, nv) := exSum rm vs
    let y := roundEx fmtF32 rm 0 x
    { y with flags := if nv then y.flags ||| flNV else y.flags }
  | 1 => (match vs with
      | [] => ⟨fmtF32.infBits, 0, 0⟩
      | a :: t => ⟨(roundEx fmtF32 0 0 (t.foldl exMin a)).bits, 0, 0⟩)
  | _ => (match vs with
      | [] => ⟨fmtF32.signBit + fmtF32.infBits, 0, 0⟩
      | a :: t => ⟨(roundEx fmtF32 0 0 (t.foldl exMax a)).bits, 0, 0⟩)

/-- A combination of the instruction's type, with its flags. -/
def Strand.comb (st : Strand) (r : Raw) (l : List Nat) : Nat × Nat :=
  if r.ty = 8 then
    let y := combFloat r.f.toNat (st.rmOf r) l
    (y.bits, y.flags)
  else (combInt r.f.toNat r.ty l, 0)

/-- REDX (R118). -/
def execRedx (o : AOps) (s : State) : Res :=
  let r := rawA 0x83 o
  s.issueStrand r (fun st =>
    let (x, fl) := st.comb r (st.active.map (st.srcA r))
    (st.setS r.d.toNat (if r.ty = 0 then wrapN 64 (sInt 32 x) else x)).addFlags fl)

/-- SCAN in a thread: the combination over the active threads up to it, or below it with .EXCL. -/
def Strand.scanAt (st : Strand) (r : Raw) (t : Nat) : Nat × Nat :=
  st.comb r ((st.active.filter (fun u => if bit r.mod 0 then decide (u < t) else decide (u ≤ t))).map (st.srcA r))

/-- SCAN (R118). -/
def execScan (o : AOps) (s : State) : Res :=
  let r := rawA 0x84 o
  s.issueStrand r (fun st =>
    let l := st.active.map (fun t => (t, st.scanAt r t))
    (st.putAll r r.wide (l.map (fun x => (x.1, x.2.1)))).addFlags (l.foldl (fun fl x => fl ||| x.2.2) 0))

/-- MATCH (R119). -/
def execMatch (o : AOps) (s : State) : Res :=
  let r := rawA 0x85 o
  s.issueStrand r (fun st => st.putAll r true (st.results r (fun t =>
    maskOf (st.active.filter (fun u => st.srcA r u == st.srcA r t)))))

end Sys2Proof.Machine
end

