-- ==== Sys2Proof/Machine/Launch.lean ====
section
/-! DEFINITION. Launching and placing regions: the RCB with its checks and inheritance (R349 to R352, R472), budgets
(R353, R354), room on a core and residency (R18, R135, R144, R355), the placement of tiles (R136, R137, R360, R362). -/

namespace Sys2Proof.Machine

/-! ## The RCB (R349) -/

/-- The bits of RCB word i that the table names; the status area is the device's own. -/
def rcbMask (i : Nat) : Nat :=
  match i with
  | 0 => 0xFFFFFFFF00FF03E7
  | 1 => 0x7FF
  | 4 => 2 ^ 63 - 1
  | 5 => 2 ^ 22 - 1
  | 7 => 2 ^ 16 - 1
  | 9 => 2 ^ 22 - 1
  | 10 => 2 ^ 16 - 1
  | 13 => 2 ^ 43 - 1
  | 14 => 2 ^ 54 - 1
  | 15 => 2 ^ 48 - 1
  | 16 => 0xFFFF01FF
  | 19 => 2 ^ 16 - 1
  | 21 => 2 ^ 16 - 1
  | _ => if i = 2 ∨ i = 3 ∨ i = 6 ∨ i = 8 ∨ i = 11 ∨ i = 12 ∨ i = 17 ∨ i = 18 ∨ i = 20 then 2 ^ 56 - 1
         else if 32 ≤ i ∧ i < 38 then 2 ^ 64 - 1 else 0

/-- Every bit that the table does not name is 0. -/
def rcbZeros (ws : List Nat) : Bool := (nats 64).all (fun i => listAt 0 ws i % 2 ^ 64 &&& (2 ^ 64 - 1 - rcbMask i) == 0)

/-- The override bits. -/
def rcbOvr (ws : List Nat) : Nat := listAt 0 ws 1 % 2 ^ 11

/-- The effective fields: a group's own values where its override bit is 1, else the parent's (R351). -/
def rcbOf (ws : List Nat) (ovr : Nat) (p : Rcb) : Rcb :=
  let w (i : Nat) : Nat := listAt 0 ws i
  let own (b x y : Nat) : Nat := if bit ovr b then x else y
  let ownB (b : Nat) (x y : Bool) : Bool := if bit ovr b then x else y
  let shut := bits (w 13) 42 26
  let spint := bits (w 13) 25 16
  { salt := own 7 (bits (w 0) 63 32) p.salt, allot := 8 * (bits (w 0) 23 20 + 1), nstr := bits (w 0) 19 16 + 1,
    swz := bit (w 0) 9, ww := ownB 10 (bit (w 0) 8) p.ww, dbg := ownB 8 (bit (w 0) 7) p.dbg,
    die := own 7 (bits (w 0) 6 6) p.die, both := ownB 7 (bit (w 0) 5) p.both, prio := own 0 (bits (w 0) 2 0) p.prio,
    entry := bits (w 2) 55 0, datab := bits (w 3) 55 0, gx := bits (w 4) 20 0, gy := bits (w 4) 41 21,
    gz := bits (w 4) 62 42, rows := bits (w 5) 21 12, tiles := bits (w 5) 11 0,
    ltbase := own 4 (bits (w 6) 55 0) p.ltbase, ltlen := own 4 (bits (w 7) 15 0) p.ltlen,
    handler := own 2 (bits (w 8) 55 0) p.handler, dmask := own 2 (bits (w 9) 21 0) p.dmask,
    fdom := own 1 (bits (w 10) 15 0) p.fdom, fdbase := own 1 (bits (w 11) 55 0) p.fdbase,
    cvrec := own 3 (bits (w 12) 55 0) p.cvrec, shut := own 9 (if shut = 0 then 1000 else shut) p.shut,
    spint := own 6 (if spint = 0 then 20 else spint) p.spint, age := own 0 (bits (w 13) 15 0) p.age,
    rowb := own 5 (bits (w 14) 53 36) p.rowb, tileb := own 5 (bits (w 14) 35 16) p.tileb,
    slotb := own 5 (bits (w 14) 15 0) p.slotb, heapb := own 5 (bits (w 15) 47 0) p.heapb,
    leaveb := own 5 (bits (w 16) 31 16) p.leaveb, atsb := own 5 (bits (w 16) 8 0) p.atsb, spill := bits (w 17) 55 0,
    savea := bits (w 18) 55 0, wsg := own 10 (bits (w 19) 15 0) p.wsg, bars := [] }

/-- Strands of a cohort that quadrant i after the first gets. -/
def shareOf (n i : Nat) : Nat := (n + 3 - i) / 4

/-- The checks of R350 that the fields alone decide. -/
def Rcb.fieldsOk (r : Rcb) (ws : List Nat) : Bool :=
  let dim (x : Nat) : Bool := decide (1 ≤ x) && decide (x ≤ 2 ^ 20)
  let bn := bits (listAt 0 ws 21) 15 0
  let ba := bits (listAt 0 ws 20) 55 0
  rcbZeros ws && decide (16 ≤ r.allot) && r.entry % 4 == 0 && dim r.gx && dim r.gy && dim r.gz && decide (r.rows ≤ 512)
    && decide (r.tiles ≤ 2048) && r.ltbase % 64 == 0 && r.handler % 4 == 0 && r.fdbase % 4096 == 0 && r.cvrec % 64 == 0
    && decide (10 ≤ r.shut) && decide (r.shut ≤ 100000) && decide (r.spint ≤ 1000) && decide (1 ≤ r.slotb)
    && decide (r.slotb ≤ 12288) && decide (1 ≤ r.atsb) && decide (r.atsb ≤ 256) && r.spill % 65536 == 0
    && r.savea % 64 == 0 && decide (bn ≤ 32768) && ba % 8 == 0 && (bn != 0 || ba == 0)
    && decide (shareOf r.nstr 0 ≤ 16) && decide (shareOf r.nstr 0 * (r.allot / 8) ≤ 64)

/-- An entry of the barrier list as offset and count, if it keeps R472. -/
def barEntry (tiles x : Nat) : Option (Nat × Nat) :=
  let off := bits x 18 0
  let n := bits x 36 32
  if bits x 63 37 = 0 ∧ bits x 31 19 = 0 ∧ off % 16 = 0 ∧ off + 16 ≤ tiles * 256 ∧ 1 ≤ n ∧ n ≤ 16 then some (off, n) else none

/-- The barrier list, if every entry keeps R472 and no two name one offset. -/
def barList (tiles : Nat) (l : List Nat) : Option (List (Nat × Nat)) :=
  match l with
  | [] => some []
  | x :: t =>
    match barEntry tiles x, barList tiles t with
    | some e, some r => if r.any (fun y => y.1 == e.1) then none else some (e :: r)
    | _, _ => none

/-! ## Budgets (R353) -/

/-- A strand holds its slot: it lives in it, or it has ended and its side log is not empty for good: a write of it is deferred, or has
still to pass its checks and may be (R138, R198, R199). -/
def Strand.holdsSlot (st : Strand) : Bool :=
  st.life == .resident || (st.life == .ended && st.log.any (fun p => decide (2 ≤ p.2.state) || (p.2.isWrite && decide (p.1 < freedSlot))))

/-- The use of a pool: slots, tiles and rows. -/
def State.poolUse (s : State) (pool : Nat) : Nat × Nat × Nat :=
  let mine (rid : Nat) : Bool := (s.region rid).pool == pool
  let cs := s.allCohorts.filter (fun p => p.2.alive && mine p.2.rid)
  let slots := (s.allStrands.filter (fun p => mine p.2.rid && (p.2.holdsSlot || p.2.life == .swapped))).length
  let kids := s.allRegions.filter (fun p => p.2.owner && p.1 != pool && 1 ≤ p.2.state && p.2.state ≤ 4
    && (match p.2.parent with | some q => mine q | none => false))
  (kids.foldl (fun n p => n + p.2.rcb.slotb) slots,
   kids.foldl (fun n p => n + p.2.rcb.tileb) (cs.foldl (fun n p => n + p.2.bytes / 256) 0),
   kids.foldl (fun n p => n + p.2.rcb.rowb) (cs.foldl (fun n p => n + p.2.rows) 0))

/-- A pool has room for so many slots, tiles and rows (R354). -/
def State.poolRoom (s : State) (pool slots tiles rows : Nat) : Bool :=
  let b := (s.region pool).rcb
  let (a, t, r) := s.poolUse pool
  decide (a + slots ≤ b.slotb) && decide (t + tiles ≤ b.tileb) && decide (r + rows ≤ b.rowb)

/-! ## Launching (R350, R359) -/

/-- Regions in states 1 to 3. -/
def State.liveRegions (s : State) : Nat := (s.allRegions.filter (fun p => 1 ≤ p.2.state && p.2.state ≤ 3)).length

/-- The region that a launch of an RCB from state 4 takes up again. -/
def State.preempted (s : State) (asid rcb : Nat) : Option (Nat × Region) :=
  s.allRegions.find? (fun p => p.2.asid == asid && p.2.rcbVa == rcb && p.2.state == 4)

/-- What reading an RCB for a launch gives: its words, its state, the effective fields, where it and its conversion
record lie, and its barriers where they can be read. -/
structure LaunchInfo where
  words : List Nat
  rcb : Rcb
  pa : Nat
  cvrec : Option Nat
  bars : Option (List (Nat × Nat))
  deriving DecidableEq, Repr

/-- The STATE field as launch finds it. -/
def LaunchInfo.state (l : LaunchInfo) : Nat := listAt 0 l.words 32 % 16

/-- STATE allows no launch: only 0 and 4 to 9 do (R350). The values 10 to 15, which never occur unless a program has stored
them, are refused as 1 to 3 are (DEDUCED, log 48). -/
def LaunchInfo.refused (l : LaunchInfo) : Bool := (1 ≤ l.state && l.state ≤ 3) || 10 ≤ l.state

/-- Strong loads of n words for a launch; those of a strand come after its own stores before a place in program order (R159), and
their wts is noted (R410). -/
def State.launchWords (s : State) (w : Who) (before : Option Nat) (va n : Nat) : Except MemR (List Nat) × State :=
  match w.sid, before with
  | some sid, some seq =>
    if s.behind sid seq (newAcc 0 va (8 * n) 0 false) then (.error .wait, s)
    else match s.readWords w va n 0 with
      | (.ok ws, s) => (.ok ws, s.noteRead w va (8 * n))
      | r => r
  | _, _ => s.readWords w va n 0

/-- Read an RCB with strong loads, its barrier list, and find its conversion record (R349, R350, R472); before is the place in program
order of the LAUNCH that reads it. -/
def State.readRcb (s : State) (w : Who) (rcb : Nat) (parent before : Option Nat) : Except MemR LaunchInfo × State :=
  match s.launchWords w before rcb 64 with
  | (.error e, s) => (.error e, s)
  | (.ok ws, s) =>
    match s.access w rcb needR 0 with
    | (.wait, s) => (.error .wait, s)
    | (.fault c, s) => (.error (.fault c), s)
    | (.hit pa _, s) =>
      let p := match parent with | some q => (s.region q).rcb | none => Rcb.empty
      let ovr := if parent.isSome then rcbOvr ws else 2 ^ 11 - 1
      let r := rcbOf ws ovr p
      let bn := bits (listAt 0 ws 21) 15 0
      let (bl, s) := if bn = 0 ∨ 32768 < bn then (.ok [], s) else s.launchWords w before (bits (listAt 0 ws 20) 55 0) bn
      match bl with
      | .error .wait => (.error .wait, s)
      | .error _ =>
        (.ok { words := ws, rcb := r, pa := pa, cvrec := none, bars := none }, s)
      | .ok l =>
        match s.access w r.cvrec needRW 2 with
        | (.wait, s) => (.error .wait, s)
        | (.fault _, s) => (.ok { words := ws, rcb := r, pa := pa, cvrec := none, bars := barList r.tiles l }, s)
        | (.hit cv _, s) =>
          (.ok { words := ws, rcb := r, pa := pa, cvrec := if isHbm cv then some cv else none, bars := barList r.tiles l }, s)

/-- The region is valid (R350). -/
def LaunchInfo.valid (l : LaunchInfo) (owner : Bool) (pool : Rcb) : Bool :=
  let r := l.rcb
  let b := if owner then r else pool
  r.fieldsOk l.words && l.cvrec.isSome && l.bars.isSome && decide (r.nstr ≤ b.slotb) && decide (r.tiles ≤ b.tileb)
    && decide (r.rows ≤ b.rowb)

/-- Queue a region (R350, R359, R360): an invalid one ends at once in state 9, and one whose tiles have all been placed before
its pre-emption stands in no queue and completes (R139). The answer is its number. -/
def State.enqueue (s : State) (asid rcbVa : Nat) (l : LaunchInfo) (parent : Option Nat) : Nat × State :=
  let owner := match parent with | some _ => bit (rcbOvr l.words) 5 | none => true
  let again := if l.state = 4 then s.preempted asid rcbVa else none
  let (rid, s) := match again with
    | some (i, _) => (i, s)
    | none => s.nextId
  let pool := match parent with
    | some q => if owner then rid else (s.region q).pool
    | none => rid
  let keep (i : Nat) : Nat := if l.state = 4 then listAt 0 l.words i else 0
  let (order, s) := s.nextSeq
  let r : Region :=
    { asid := asid, rcbVa := rcbVa, rcb := { l.rcb with bars := l.bars.getD [] }, cvrecPa := l.cvrec.getD 0,
      parent := parent, pool := pool, owner := owner, state := 1, nextt := keep 33 % 2 ^ 60, cdone := keep 34 % 2 ^ 60,
      heapused := keep 35 % 2 ^ 48, qtime := s.ns, etime := 0,
      queue := if keep 33 % 2 ^ 60 < l.rcb.tilesTotal then some l.rcb.prio else none, queueSeq := order, waitSince := s.ns, aged := false,
      shutAt := none, sheets := 0, sheeting := false, drainAt := none, leaveHeld := 0, ending := none }
  let s := match l.cvrec with | some cv => s.cvHold cv | none => s
  let s := s.setRegion rid r
  let s := { s with pkg := { s.pkg with launched := true } }
  let s := s.rcbPut rid 0x108 r.nextt
  let s := s.rcbPut rid 0x110 r.cdone
  let s := s.rcbPut rid 0x118 r.heapused
  let s := s.rcbPut rid 0x120 s.ns
  let s := s.rcbPut rid 0x128 0
  let s := (s.rcbPut rid 0x100 1).grantCount rid true
  if l.valid owner (if owner then l.rcb else (s.region pool).rcb) then
    (if r.queue.isSome then (rid, s.pushPlacement)
     else (rid, (s.setRegion rid { s.region rid with ending := some (5, noClass, 0, 0) }).settle rid))
  else (rid, (s.setRegion rid { s.region rid with ending := some (9, clsProt, 0, rcbVa) }).settle rid)

/-! ## Room on a core (R18, R135) -/

/-- Strands that hold a slot of a quadrant, and the register granules they hold. -/
def State.quadLoad (s : State) (core quad : Nat) : Nat × Nat :=
  let l := s.allStrands.filter (fun p => p.2.core == core && p.2.quad == quad && p.2.holdsSlot)
  (l.length, l.foldl (fun n p => n + p.2.allot / 8) 0)

/-- The quadrant with the fewest strands, the lowest on a tie. -/
def State.leastQuad (s : State) (core : Nat) : Nat :=
  ((nats 4).foldl (fun (b : Nat × Nat) q =>
    let n := (s.quadLoad core q).1
    if n < b.2 then (q, n) else b) (0, (s.quadLoad core 0).1)).1

/-- Scratchpad tiles and accumulator rows that a core's living cohorts hold. -/
def State.coreLoad (s : State) (core : Nat) : Nat × Nat :=
  (s.allCohorts.filter (fun p => p.2.alive && p.2.core == core)).foldl
    (fun n p => (n.1 + p.2.bytes / 256, n.2 + p.2.rows)) (0, 0)

/-- A core has room for a cohort of n strands. -/
def State.hasRoom (s : State) (core n allot tiles rows : Nat) : Bool :=
  let q := s.leastQuad core
  let (t, r) := s.coreLoad core
  decide (t + tiles ≤ 2048) && decide (r + rows ≤ 512) && (nats 4).all (fun i =>
    let (k, g) := s.quadLoad core ((q + i) % 4)
    decide (k + shareOf n i ≤ 16) && decide (g + shareOf n i * (allot / 8) ≤ 64))

/-- The lowest free slot of a quadrant. -/
def State.slotFor (s : State) (core quad : Nat) : Nat :=
  ((nats 16).find? (fun i => !s.allStrands.any (fun p =>
    p.2.core == core && p.2.quad == quad && p.2.slot == i && p.2.holdsSlot))).getD 0

/-- The lowest spill index that no live strand of a pool holds (R355). -/
def State.spillFor (s : State) (pool : Nat) : Nat :=
  let used := (s.allStrands.filter (fun p => p.2.life != .ended && (s.region p.2.rid).pool == pool)).map (fun p => p.2.spill)
  ((nats (used.length + 1)).find? (fun i => !used.contains i)).getD 0

/-! ## Residency (R39, R135, R144) -/

/-- A strand of a region at creation (R39), put into a quadrant's lowest free slot. -/
def State.newStrand (s : State) (rid cid core quad cidx entry allot : Nat) (spawned : Bool) (regs : KV Word)
    (amask s2 : Nat) : Nat × State :=
  let (sid, s) := (s.wake core).nextId
  let r := s.region rid
  let st := { Strand.empty with
    life := .resident, rid := rid, cid := cid, spawned := spawned, cidx := cidx, core := core, quad := quad,
    slot := s.slotFor core quad, spill := s.spillFor r.pool, allot := allot, pc := BitVec.ofNat 56 entry,
    amask := BitVec.ofNat 64 amask, vregs := forEach regs ((natsFrom 1 63).map (fun t => (t, BitVec.ofNat 32 t)))
      (fun m x => kvSet 0#32 m x.1 x.2) }
  let st := ((((st.setS 1 r.rcb.datab).setS 2 s2).setS 3 r.rcbVa).setS 4 cidx)
  (sid, s.setStrand sid st)

/-- The bytes of a fresh barrier: EXPECT, everything else 0 (R472). -/
def barBytes (b : Nat × Nat) : List (Nat × Byte) := cellsOf b.1 (leBytes 16 b.2)

/-- The strands of a new cohort from index i on, n of them; q is the first quadrant. -/
def State.newStrands (s : State) (rid cid core q i n s2 : Nat) : List Nat × State :=
  match n with
  | 0 => ([], s)
  | n + 1 =>
    let r := (s.region rid).rcb
    let (sid, s) := s.newStrand rid cid core ((q + i) % 4) i r.entry r.allot false [] (2 ^ 64 - 1) s2
    let (l, s) := s.newStrands rid cid core q (i + 1) n s2
    (sid :: l, s)

/-- A tile's coordinates as s2 holds them (R39). -/
def Rcb.tileCoord (r : Rcb) (t : Nat) : Nat := t % r.gx + t / r.gx % r.gy * 2 ^ 20 + t / (r.gx * r.gy) * 2 ^ 40

/-- Place a region's next tile on a core (R135, R472). Its strands observe every write that the launch released and every
host write before its window write (R150, R154, R183, R358): no copy that the core holds from before answers a read of theirs
unrenewed. -/
def State.placeTile (s : State) (rid core : Nat) : State :=
  let s := s.expireCopies core
  let r := s.region rid
  let c := r.rcb
  let (cid, s) := s.nextId
  let q := s.leastQuad core
  let spad := forEach c.bars [] (fun (m : KV Byte) b => Memory.put m (barBytes b))
  let s := s.setCohort cid { Cohort.empty with
    alive := true, rid := rid, tile := r.nextt, core := core, age := s.cycle, bytes := c.tiles * 256, swz := c.swz,
    spad := spad, rows := c.rows }
  let (sids, s) := s.newStrands rid cid core q 0 c.nstr (c.tileCoord r.nextt)
  let s := s.setCohort cid { s.cohort cid with strands := sids }
  let left := r.nextt + 1 < c.tilesTotal
  let (order, s) := s.nextSeq
  let s := s.setRegion rid { s.region rid with
    state := 2, nextt := r.nextt + 1, queue := if left then some c.prio else none,
    queueSeq := if r.queue = some c.prio then r.queueSeq else order, waitSince := s.ns, aged := false }
  let s := s.rcbPut rid 0x108 (r.nextt + 1)
  if r.state = 1 then s.rcbPut rid 0x100 2 else s

/-- A formed strand becomes a spawn cohort on its core (R144), whose timed copies from before answer it no read (R341, R358, R434). -/
def State.placeSpawned (s : State) (core : Nat) (k : BinKey) (ts : List BinThread) : State :=
  let (cid, s) := s.nextId
  let s := s.setCohort cid { Cohort.empty with
    alive := true, rid := k.rid, spawned := true, core := core, age := s.cycle, bytes := k.tiles * 256, swz := k.swz }
  let regs := ((nats ts.length).zip ts).flatMap (fun x =>
    ((nats 4).zip x.2.args).map (fun y => ((y.1 + 1) * 64 + x.1, y.2)))
  let (sid, s) := s.newStrand k.rid cid core (s.leastQuad core) 0 k.entry k.allot true regs (2 ^ ts.length - 1) 0
  (s.setCohort cid { s.cohort cid with strands := [sid] }).expireCopies core

/-! ## Placement of tiles (R136, R360, R362) -/

/-- The die and slice of a tile's home (R136). -/
def Rcb.home (r : Rcb) (t : Nat) : Nat × Nat :=
  let f := ((t % r.gx) ^^^ (t / r.gx % r.gy * 2 ^ 6) ^^^ (t / (r.gx * r.gy) * 2 ^ 12)) % 2 ^ 32
  let g := f ^^^ r.salt
  let h := (g % 2 ^ 16) ^^^ (g / 2 ^ 16 % 2 ^ 16)
  if r.both then (h % 96 / 48, h % 48) else (r.die, h % 48)

/-- The cores of a tile's home die in the order they are tried. -/
def homeCores (die slice : Nat) : List Nat :=
  let home := slice / 4
  let first := (nats 8).map (fun i => die * 96 + home * 8 + (2 * (slice % 4) + i) % 8)
  first ++ ((natsFrom 1 11).flatMap (fun j => (nats 8).map (fun i => die * 96 + (home + j) % 12 * 8 + i)))

/-- The accesses of memory that a strand issued before a place in program order are performed, as far as its log tells (R148, R150,
R184). -/
def State.logClear (s : State) (sid seq : Nat) : Bool := !(s.strand sid).log.any (fun p => p.2.accesses && p.2.seq < seq)

/-- Perform the bytes that some strands of a core have left dirty there: whether all are performed. A line under the lease of another
strand holds none of theirs; one under a lease of their own is performed when the lease ends (R167). A store that its home refuses is a
deferred one (R199), which is still to be performed. -/
def State.performCore (s : State) (core : Nat) (sids : List Nat) : Bool × State :=
  let (ok, s) := s.writeBackAll core sids
  (ok && s.goClear core && !s.homes.refused.any (fun a => sids.contains a.sid), s)

/-- A formed strand of a core can become resident now: there is room for it on the core and in its pool (R135, R354), and what
its spawners wrote before is performed (R148). -/
def State.formedFits (s : State) (core : Nat) (k : BinKey) (ts : List BinThread) : Bool :=
  s.hasRoom core 1 k.allot k.tiles 0 && s.poolRoom (s.region k.rid).pool 1 k.tiles 0
    && ts.all (fun t => s.logClear t.parent t.seq) && (s.performCore core (ts.map BinThread.parent)).1

/-- A formed strand of a region of at least this priority can become resident on the core, and goes before a new cohort
(R137). -/
def State.spawnedFirst (s : State) (core prio : Nat) : Bool :=
  (s.core core).bins.any (fun b => match b.2.formed with
    | some f => decide (prio ≤ (s.region f.1.rid).rcb.prio) && s.formedFits core f.1 f.2
    | none => false)

/-- The first candidate core with room for a region's next tile, when its pool has room too (R136, R354). -/
def State.roomCore (s : State) (rid : Nat) : Option Nat :=
  let r := s.region rid
  let (die, slice) := r.rcb.home r.nextt
  if s.poolRoom r.pool r.rcb.nstr r.rcb.tiles r.rcb.rows then
    (homeCores die slice).find? (fun c => s.hasRoom c r.rcb.nstr r.rcb.allot r.rcb.tiles r.rcb.rows)
  else none

/-- The core on which a region's next tile is placed now: the first with room, once no formed strand there goes first. -/
def State.fitCore (s : State) (rid : Nat) : Option Nat :=
  match s.roomCore rid with
  | some c => if s.spawnedFirst c (s.region rid).rcb.prio then none else some c
  | none => none

/-- The regions with an unplaced tile homed on a die, in the order the engine considers them: queues from 7 down, each in
order of entry. -/
def State.waitingRegions (s : State) (die : Nat) : List Nat :=
  let l := s.allRegions.filter (fun p => (p.2.rcb.home p.2.nextt).1 == die && p.2.ending.isNone && !p.2.sheeting)
  (nats 8).reverse.flatMap (fun q =>
    let m := l.filter (fun p => p.2.queue == some q)
    (m.foldl (fun acc p =>
      acc.takeWhile (fun x => x.2.queueSeq ≤ p.2.queueSeq) ++ [p]
        ++ acc.dropWhile (fun x => x.2.queueSeq ≤ p.2.queueSeq)) []).map Prod.fst)

/-- The blocker of a die (R362): the oldest region that aged to queue 6 and whose next tile does not fit. -/
def State.blocker (s : State) (die : Nat) : Option Nat :=
  (s.waitingRegions die).foldl (fun (b : Option Nat) rid =>
    let r := s.region rid
    if r.queue = some 6 ∧ r.aged ∧ (s.roomCore rid).isNone then
      (match b with | none => some rid | some c => if r.qtime < (s.region c).qtime then some rid else b)
    else b) none

/-- The regions whose next tile the engine of a die may place, with the core each would take: while a blocker exists, only
its own tiles and those of system regions (R362). -/
def State.placements (s : State) (die : Nat) (core : Nat → Option Nat) : List (Nat × Nat) :=
  let blk := s.blocker die
  (s.waitingRegions die).filterMap (fun rid =>
    if blk.isSome && blk != some rid && !(s.region rid).isSystem then none else (core rid).map (fun c => (rid, c)))

/-- The first tile that the engine places now, as region and core. -/
def State.nextPlacement (s : State) (die : Nat) : Option (Nat × Nat) := (s.placements die s.fitCore).head?

/-- A waiting new cohort of a higher region priority than a formed strand takes room on its core first (R137). -/
def State.tileFirst (s : State) (core prio : Nat) : Bool :=
  (s.placements (dieOf core) s.fitCore).any (fun p => p.2 == core && decide (prio < (s.region p.1).rcb.prio))

end Sys2Proof.Machine
end

