-- ==== Sys2Proof/Machine/Work.lean ====
section
/-! DEFINITION. YIELD (R141), SPAWN and the spawn bins (R142 to R148), LAUNCH (R150), JOIN (R151). -/

namespace Sys2Proof.Machine

/-! ## YIELD (R141) -/

/-- Strands of a strand's quadrant with the same region priority, apart from itself, among some strands. -/
def State.peersOf (s : State) (sid : Nat) (l : List Nat) : List Nat :=
  let st := s.strand sid
  l.filter (fun i => i != sid && (s.strand i).core == st.core && (s.strand i).quad == st.quad
    && (s.regionOf (s.strand i)).rcb.prio == (s.regionOf st).rcb.prio)

/-- YIELD: which strands it lets go first, the ready ones, is known where its turn is booked (State.issued). -/
def execYield (o : W1Ops) (s : State) : Res :=
  let r := rawW1 0x09 o
  s.issue r (fun sid s =>
    s.modStrand sid (fun st => { st.next r.bytes with waiting := .yield (s.cycle + 64) none }))

/-- YIELD_TIMEOUT: 64 cycles have passed. -/
def execYieldTimeout (sid : Nat) (s : State) : Res :=
  match (s.strand sid).waiting with
  | .yield d _ => .next (if d ≤ s.cycle then s.modStrand sid (fun st => { st with waiting := .nothing }) else s)
  | _ => .next s

/-! ## Spawn bins (R142, R143) -/

/-- The bin of an entry address. -/
def binOf (e : Nat) : Nat := bits e 5 2 ^^^ bits e 9 6 ^^^ bits e 13 10 ^^^ bits e 17 14

/-- One thread enters a bin (R146): status 0, or 4 when it finds no place. -/
def State.enterBin (s : State) (core b : Nat) (k : BinKey) (t : BinThread) : Nat × State :=
  let x := s.bin core b
  let other := !x.pending.isEmpty && (x.key != some k || x.pending.length == 64)
  if other && x.formed.isSome then (4, s)
  else
    let s := if other then s.closeBin core b else s
    let x := s.bin core b
    let timer := if x.pending.isEmpty then some (s.time + (s.region k.rid).rcb.spint * 4700) else x.timer
    let x := { x with key := some k, pending := x.pending ++ [t], timer := timer }
    let s := s.setBin core b x
    (0, if x.pending.length = 64 ∧ x.formed.isNone then s.closeBin core b else s)

/-- Threads enter a bin one after another. -/
def State.enterAll (s : State) (core b : Nat) (k : BinKey) (l : List (Nat × BinThread)) : List (Nat × Nat) × State :=
  match l with
  | [] => ([], s)
  | x :: rest =>
    let (c, s) := s.enterBin core b k x.2
    let (cs, s) := s.enterAll core b k rest
    ((x.1, c) :: cs, s)

/-- SPAWN (R145, R146). Of an entry address in a register the bits above 55 count nowhere: the model's choice (DESIGN CHOICE,
log 41). -/
def execSpawn (o : AOps) (s : State) : Res :=
  let r := rawA 0x0A o
  s.issue r (fun sid s =>
    let (seq, s) := s.nextSeq
    let st := s.strand sid
    let e := if r.len = 2#2 then (branchTo st.pc 32 r.imm32).toNat else st.s r.b % 2 ^ 56
    let n := st.s r.c
    if e % 4 ≠ 0 then s.fault sid r clsAlign e
    else if 2048 < n then s.setStrand sid ((st.putAll r false (st.active.map (fun t => (t, 8)))).next r.bytes)
    else
      let k : BinKey := { rid := st.rid, entry := e, allot := 8 * (r.mod % 16 + 1), tiles := n, swz := bit r.mod 4 }
      let arg (t : Nat) : BinThread :=
        { args := (nats 4).map (fun i => BitVec.ofNat 32 (st.v (st.eff r (r.a.toNat + i)) t)), parent := sid, seq := seq }
      let (cs, s) := s.enterAll st.core (binOf e) k (st.active.map (fun t => (t, arg t)))
      s.setStrand sid (((s.strand sid).putAll r false cs).next r.bytes))

/-- SPAWN_BIN_TIMER: the interval has run out and the formed place is empty. -/
def execSpawnBinTimer (core bin : Nat) (s : State) : Res :=
  let x := s.bin core bin
  match x.timer with
  | some t => .next (if t ≤ s.time ∧ x.formed.isNone ∧ !x.pending.isEmpty then s.closeBin core bin else s)
  | none => .next s

/-- Another formed strand of the core goes first (R137): one of a higher region priority, or of the same priority and formed
earlier, that can become resident now. -/
def State.formedBefore (s : State) (core bin prio : Nat) : Bool :=
  (s.core core).bins.any (fun b => b.1 != bin && (match b.2.formed with
    | some f =>
      let p := (s.region f.1.rid).rcb.prio
      (decide (prio < p) || (p == prio && decide (b.2.formedSeq < (s.bin core bin).formedSeq))) && s.formedFits core f.1 f.2
    | none => false))

/-- SPAWN_RESIDENCY (R137, R144, R148): a formed strand becomes resident once there is room, the writes that its spawners
issued before are performed, and nothing goes before it. -/
def execSpawnResidency (core bin : Nat) (s : State) : Res :=
  match (s.bin core bin).formed with
  | none => .next s
  | some (k, ts) =>
    let prio := (s.region k.rid).rcb.prio
    let room := s.hasRoom core 1 k.allot k.tiles 0 && s.poolRoom (s.region k.rid).pool 1 k.tiles 0
      && !s.formedBefore core bin prio && !s.tileFirst core prio
    if !room || ts.any (fun t => !s.logClear t.parent t.seq) then .next s
    else
      let (ok, s) := s.performCore core (ts.map BinThread.parent)
      if !ok then .next s
      else
        let s := s.placeSpawned core k ts
        let s := s.setBin core bin { s.bin core bin with formed := none }
        .next (s.placeEmptied core bin).pushPlacement

/-! ## LAUNCH (R150) -/

/-- What a LAUNCH comes to: it waits, it faults precisely, it meets a fault of its read, or it has its status. -/
inductive LaunchR where
  | wait
  | precise (cls addr : Nat)
  | held (cls : Nat)
  | status (code : Nat)
  deriving DecidableEq, Repr

/-- The effect of LAUNCH for the RCB at an address, apart from the status register; before says where in program order
the writes to be released end. -/
def State.launchAt (s : State) (sid a before : Nat) : LaunchR × State :=
  let st := s.strand sid
  if a % 512 ≠ 0 then (.precise clsAlign a, s)
  else
    match s.readRcb (s.who sid) a (some st.rid) (some before) with
    | (.error .wait, s) => (.wait, s)
    | (.error (.fault c), s) => (.held c, s)
    | (.error _, s) => (.held clsProt, s)
    | (.ok l, s) =>
      let st := s.strand sid
      if l.rcb.prio = 7 ∧ !s.isSystem st then (.precise clsProt a, s)
      else if 64 ≤ st.joins.length ∨ l.refused then (.status 4, s)
      else if 1024 ≤ s.liveRegions then (.wait, s)
      else if bit (rcbOvr l.words) 5 ∧ !s.poolRoom (s.regionOf st).pool l.rcb.slotb l.rcb.tileb l.rcb.rowb then (.status 2, s)
      else
        let (ok, s) := s.performCore st.core [sid]
        if !ok || !s.logClear sid before then (.wait, s)
        else
          let (rid, s) := s.enqueue (s.asidOf st) a l (some st.rid)
          (.status 0, s.modStrand sid (fun st => { st with joins := if st.joins.contains rid then st.joins else st.joins ++ [rid] }))

/-- The RCB address of a LAUNCH, formed modulo 2^56 before its alignment is looked at: the model's choice (DESIGN CHOICE, log 41). -/
def Strand.rcbAddr (st : Strand) (r : Raw) : Nat :=
  wrapN 56 ((st.s r.a.toNat : Int) + (if r.len = 2#2 then sInt 32 r.imm32 else 0))

/-- LAUNCH: it blocks the strand until its status is written; while it waits its status register is empty (R150). -/
def execLaunch (o : AOps) (s : State) : Res :=
  let r := rawA 0x0B o
  s.issue r (fun sid s =>
    let a := (s.strand sid).rcbAddr r
    match s.launchAt sid a s.seq with
    | (.wait, s) => s.again sid r.d.toNat
    | (.precise c x, s) => s.fault sid r c x
    | (.held c, s) =>
      let loops := (s.strand sid).loops
      let (slot, s) := s.logged sid r [s.failAcc (newAcc 0 a 512 0 false) c] [keyS r.d.toNat] true
      (match s.entry sid slot with
        | some e => s.putEntry sid slot { e with sregs := loopRegs 1000 loops }
        | none => s)
    | (.status k, s) => s.modStrand sid (fun st => (st.setS r.d.toNat k).next r.bytes))

/-- A LAUNCH that is re-issued from the log. -/
def State.launchEntry (s : State) (sid slot : Nat) (e : LogEnt) : State :=
  let a := (e.accs.map Acc.va).headD 0
  match s.launchAt sid a e.seq with
  | (.wait, s) => s
  | (.precise c x, s) =>
    -- a class of kind P: the LAUNCH, behind which nothing has issued, counts as not issued (R197)
    if (s.strand sid).waiting = .entry slot then (s.unissue sid slot e [keyS e.raw.d.toNat]).fault sid e.raw c x else s
  | (.held c, s) => (s.putEntry sid slot ({ e with accs := e.accs.map (fun x => s.failAcc x c) }).refresh).askTriage c
  | (.status k, s) =>
    (s.modStrand sid (fun st => (st.setS e.raw.d.toNat k).markFull (keyS e.raw.d.toNat))).finishEntry sid slot

/-! ## JOIN (R151) -/

/-- JOIN. -/
def execJoin (o : AOps) (s : State) : Res :=
  let r := rawA 0x0C o
  s.issue r (fun sid s =>
    let st := s.strand sid
    let d := r.d.toNat
    match s.joinResult st with
    | some (a, b) => (s.setStrand sid ((st.finishJoin d a b).next r.bytes)).expireCopies st.core
    | none =>
      if r.len = 2#2 ∧ r.imm32 = 0 then s.setStrand sid ((st.finishJoin d 1 (s.runningChildren st)).next r.bytes)
      else
        let limit := if r.len = 2#2 then some (s.time + r.imm32 * 47000) else none
        s.setStrand sid { (st.emptyAll [keyS d, keyS (d + 1)]).next r.bytes with
          waiting := .join d limit, waitSince := s.time })

/-- JOIN_TIMEOUT: the timeout elapses first. -/
def execJoinTimeout (sid : Nat) (s : State) : Res :=
  let st := s.strand sid
  match st.waiting with
  | .join d (some t) =>
    if s.time < t then .next s
    else if st.life = .swapped then .next (s.push (.strandRestore sid))
    else (match s.joinResult st with
      | some (a, b) => .next ((s.setStrand sid (st.finishJoin d a b)).expireCopies st.core)
      | none => .next (s.setStrand sid (st.finishJoin d 1 (s.runningChildren st))))
  | _ => .next s

end Sys2Proof.Machine
end

