-- ==== Sys2Proof/Machine/Peer.lean ====
section
/-! DEFINITION. Accesses to fabric windows (R438 to R442): the window and group tables, flits sent, contributions to a
multicast-reduce line and their combination by the rank tree. -/

namespace Sys2Proof.Machine

/-! ## The tables (R438, R439) -/

/-- The window-table entry of a window, 16 bytes. -/
def State.winWord (s : State) (w : Nat) : Nat := s.numAt (s.reg 0x9A0 % 2 ^ 52 + 16 * w) 16
/-- The window and offset of a physical address. -/
def winOf (pa : Nat) : Nat := bits pa 49 40
def winOff (pa : Nat) : Nat := pa % 2 ^ 40
def winValid (x : Nat) : Bool := bit x 127
def winKind (x : Nat) : Nat := bits x 126 125
def winGroup (x : Nat) : Nat := bits x 111 100
def winPeer (x : Nat) : Nat := bits x 95 80
def winBase (x : Nat) : Nat := bits x 51 0

/-- The group-table entry of a group, 256 bytes, and where it lies. -/
def State.grpAt (s : State) (g : Nat) : Nat := s.reg 0x9A1 % 2 ^ 52 + 256 * g
def State.grp (s : State) (g : Nat) : Nat := s.numAt (s.grpAt g) 256
def grpMember (x r : Nat) : Nat := bits x (1024 + 16 * r + 15) (1024 + 16 * r)
def grpCsig (x : Nat) : Nat := bits x 319 256
def grpFailed (x r : Nat) : Bool := bit x (64 + r)
def grpGen (x : Nat) : Nat := bits x 47 32
def grpRank (x : Nat) : Nat := bits x 18 13
def grpNm1 (x : Nat) : Nat := bits x 12 7
def grpOp (x : Nat) : Nat := bits x 6 3
def grpMode (x : Nat) : Nat := bits x 2 1

/-- The surviving ranks, ascending. -/
def grpRanks (x : Nat) : List Nat := (nats (grpNm1 x + 1)).filter (fun r => !grpFailed x r)

/-! ## Flits (R436) -/

/-- One bit of a CRC-64 with the polynomial of R436, most significant bit first. -/
def crcBit (c : Nat) : Nat :=
  if bit c 63 then (2 * c % 2 ^ 64) ^^^ 0x42F0E1EBA9EA3693 else 2 * c

/-- A byte of a CRC-64. -/
def crcByte (c : Nat) (b : Byte) : Nat :=
  crcBit (crcBit (crcBit (crcBit (crcBit (crcBit (crcBit (crcBit (c ^^^ (b.toNat * 2 ^ 56)))))))))

/-- The CRC-64 of bytes, from a CRC before them (log 47); the match has each byte's CRC computed before the next byte. -/
def crc64 (c : Nat) (bs : List Byte) : Nat :=
  match bs with
  | [] => c
  | b :: t =>
    match crcByte c b with
    | 0 => crc64 0 t
    | n + 1 => crc64 (n + 1) t

/-- Bytes 0 to 247 of a flit: its header of 24 bytes and its payload of 224. -/
def flitBody (f : Flit) : List Byte :=
  leBytes 24 (f.tstamp % 2 ^ 48 + f.seq % 2 ^ 12 * 2 ^ 48 + f.ack % 2 ^ 12 * 2 ^ 60 + f.kind % 2 ^ 8 * 2 ^ 72
    + f.dest % 2 ^ 16 * 2 ^ 80 + f.src % 2 ^ 16 * 2 ^ 96 + f.gen % 2 ^ 16 * 2 ^ 112 + f.addr % 2 ^ 64 * 2 ^ 128)
    ++ (f.payload ++ List.replicate (224 - f.payload.length) 0#8).take 224

/-- The flit passes its CRC. -/
def flitCrcOk (f : Flit) : Bool := f.crc == crc64 0 (flitBody f)

/-- The flit with its CRC. -/
def flitSealed (f : Flit) : Flit := { f with crc := crc64 0 (flitBody f) }

/-! ## Flits sent (R437) -/

/-- The port towards a peer: the manual gives no routing, so the peer id chooses among the twelve (log 25). -/
def portOf (peer : Nat) : Nat := peer % 12

def State.port (s : State) (p : Nat) : Port := kvGet Port.empty s.fabric.ports p
def State.setPort (s : State) (p : Nat) (x : Port) : State :=
  { s with fabric := { s.fabric with ports := kvSet Port.empty s.fabric.ports p x } }

/-- The replay buffer of a port is full, or flits wait for room in it. -/
def State.portFull (s : State) (i : Nat) : Bool :=
  decide (512 ≤ (s.port i).replay.length) || s.fabric.outbox.any (fun o => o.port == i)

/-- No flit to a peer can be sent at once. -/
def State.portBusy (s : State) (peer : Nat) : Bool := s.portFull (portOf peer)

/-- Send a flit by its port, with the port's next sequence number; it is kept for replay. -/
def State.sendNow (s : State) (o : OutFlit) : State :=
  let p := s.port o.port
  let f : Flit := { port := o.port, crc := 0, tstamp := s.ns % 2 ^ 48, seq := p.txSeq, ack := (p.rxSeq + 4095) % 4096,
                    kind := o.kind, dest := o.peer, src := Config.peerId.toNat, gen := o.gen, addr := o.addr, payload := o.payload }
  let f := flitSealed f
  let s := s.setPort o.port { p with txSeq := (p.txSeq + 1) % 4096, replay := p.replay ++ [f] }
  { s with fabric := { s.fabric with sent := s.fabric.sent ++ [f] } }

/-- Send a flit of a type to a peer by a port: at once, or as soon as its replay buffer has room. -/
def State.sendOn (s : State) (i kind peer gen addr : Nat) (payload : List Byte) : State :=
  let o : OutFlit := ⟨i, kind, peer, gen, addr, payload⟩
  if s.portFull i then { s with fabric := { s.fabric with outbox := s.fabric.outbox ++ [o] } } else s.sendNow o

/-- The flits that wait are sent in order, as far as their ports have room now. -/
def State.flushOut (s : State) : State :=
  forEach s.fabric.outbox { s with fabric := { s.fabric with outbox := [] } } (fun s o =>
    s.sendOn o.port o.kind o.peer o.gen o.addr o.payload)

/-- Send a flit of a type to a peer. -/
def State.sendFlit (s : State) (kind peer gen addr : Nat) (payload : List Byte) : State :=
  s.sendOn (portOf peer) kind peer gen addr payload

/-- The payload of a read or write flit: the peer's physical address, the number of bytes, the request's number, the
data (log 25). -/
def peerPayload (pa n ident : Nat) (data : List Byte) : List Byte := leBytes 8 pa ++ leBytes 8 n ++ leBytes 8 ident ++ data

/-! ## Multicast-reduce (R440, R441) -/

/-- The store's type and width match OP of the group: f32, bf16x2, i32, i64, f32. -/
def mcrAccepts (op ty n : Nat) : Bool :=
  match op with
  | 0 => ty == 8 && n == 4
  | 1 => ty == 10 && n == 4
  | 2 => ty == 0 && n == 4
  | 3 => ty == 2 && n == 8
  | 4 => ty == 8 && n == 4
  | _ => false

/-- Bytes of an element of OP. -/
def mcrWidth (op : Nat) : Nat := if op = 1 then 2 else if op = 3 then 8 else 4

/-- The combination of two elements. -/
def mcrPair (op a b : Nat) : Nat :=
  match op with
  | 0 => (roundEx fmtF32 0 0 (exAdd 0 (fmtF32.value a) (fmtF32.value b)).1).bits
  | 1 => (roundEx fmtBf16 0 0 (exAdd 0 (fmtBf16.value a) (fmtBf16.value b)).1).bits
  | 2 => (a + b) % 2 ^ 32
  | 3 => (a + b) % 2 ^ 64
  | _ => (roundEx fmtF32 0 0 (exMax (fmtF32.value a) (fmtF32.value b))).bits

/-- One level of the rank tree: pairs combine, an unpaired last element passes up. -/
def treeLevel (op : Nat) (l : List Nat) : List Nat :=
  match l with
  | a :: b :: t => mcrPair op a b :: treeLevel op t
  | l => l

/-- The rank tree, at most fuel levels. -/
def rankTree (op fuel : Nat) (l : List Nat) : Nat :=
  match fuel with
  | 0 => l.headD 0
  | fuel + 1 => if l.length ≤ 1 then l.headD 0 else rankTree op fuel (treeLevel op l)

/-- A single element too is rounded into its format: NaNs are canonical. -/
def mcrOne (op a : Nat) : Nat :=
  match op with
  | 0 | 4 => (roundEx fmtF32 0 0 (fmtF32.value a)).bits
  | 1 => (roundEx fmtBf16 0 0 (fmtBf16.value a)).bits
  | _ => a

/-- The bytes that a member contributed, by offset in the line. -/
def McrLine.part (l : McrLine) (rank : Nat) : List (Nat × Byte) :=
  match l.parts.find? (fun p => p.1 == rank) with
  | some p => p.2
  | none => []
def McrLine.byteOf (l : McrLine) (rank i : Nat) : Option Byte := ((l.part rank).find? (fun c => c.1 == i)).map Prod.snd

/-- Every surviving member has contributed every byte. -/
def McrLine.complete (l : McrLine) (ranks : List Nat) : Bool :=
  ranks.all (fun r => (nats 128).all (fun i => (l.byteOf r i).isSome))

/-- The combined line. -/
def McrLine.combine (l : McrLine) (op : Nat) (ranks : List Nat) : List Byte :=
  let w := mcrWidth op
  let elem (r k : Nat) : Nat := ofLe ((nats w).map (fun i => (l.byteOf r (k * w + i)).getD 0))
  ((nats (128 / w)).map (fun k =>
    let xs := ranks.map (fun r => elem r k)
    leBytes w (if xs.length = 1 then mcrOne op (xs.headD 0) else rankTree op 7 xs))).flatten

/-- Bytes of a member replace those it contributed before. -/
def mergePart (old new : List (Nat × Byte)) : List (Nat × Byte) := new ++ old.filter (fun c => !new.any (fun d => d.1 == c.1))

/-- The record is of this line of a group's window. -/
def McrLine.isOf (l : McrLine) (g w line : Nat) : Bool := l.group == g && l.window == w && l.line == line

/-- A rank has not contributed all of these bytes to the line. -/
def McrLine.lacks (l : McrLine) (rank : Nat) (cells : List (Nat × Byte)) : Bool := cells.any (fun c => (l.byteOf rank c.1).isNone)

/-- The line with more bytes of a rank, which replace those it contributed before. -/
def McrLine.add (l : McrLine) (rank : Nat) (cells : List (Nat × Byte)) : McrLine :=
  { l with parts := (rank, mergePart (l.part rank) cells) :: l.parts.filter (fun p => p.1 != rank) }

/-- The first word of the payload of a contribution or a delivery: the group, and the window (log 25). -/
def groupPayload (g w : Nat) : List Byte := leBytes 8 (g + 2 ^ 16 * w)

/-- The delivery of a complete line by this device to itself, by no port; SEQ tells apart deliveries of one line. -/
def State.ownDelivery (s : State) (l : McrLine) : Flit :=
  let x := s.grp l.group
  let nth := (s.fabric.lines.filter (fun y => y.isOf l.group l.window l.line && y.full)).length
  ⟨12, 0, s.ns % 2 ^ 48, nth, 0, 0x11, Config.peerId.toNat, Config.peerId.toNat, grpGen x, l.line * 128,
    groupPayload l.group l.window ++ l.combine (grpOp x) (grpRanks x)⟩

/-- Put a line in place of an open one, or after all others. A line that is complete takes no more contributions, and its delivery is due
(R440 to R442). -/
def State.putLine (s : State) (old : Option McrLine) (l : McrLine) : State :=
  let done := l.complete (grpRanks (s.grp l.group))
  let l' := { l with full := done }
  let ls := match old with
    | some o => s.fabric.lines.replace o l'
    | none => s.fabric.lines ++ [l']
  let t := { s with fabric := { s.fabric with lines := ls } }
  if done then t.push (.flitDelivery (s.ownDelivery l)) else t

/-- Record a contribution of a rank to a line of a window (R440): in the oldest record that is not complete and lacks those bytes, else in the
latest that is not complete, else in a new one. -/
def State.contribute (s : State) (g w line rank : Nat) (cells : List (Nat × Byte)) : State :=
  let opens := s.fabric.lines.filter (fun l => l.isOf g w line && !l.full)
  let old := match opens.find? (fun l => l.lacks rank cells) with
    | some l => some l
    | none => opens.getLast?
  s.putLine old ((old.getD ⟨g, w, line, [], false⟩).add rank cells)

/-- The rank that a store of a core contributes for: with the die bridge its die, else this device's own. -/
def contributor (x core : Nat) : Nat := if grpMode x = 1 then dieOf core else grpRank x

/-- A store to a multicast-reduce window (R440). -/
def State.mcrStore (s : State) (core pa ty : Nat) (bs : List Byte) : MemR × State :=
  let ww := s.winWord (winOf pa)
  let g := winGroup ww
  let x := s.grp g
  if !bit x 0 || grpMode x == 3 || !mcrAccepts (grpOp x) ty bs.length then (.fault clsProt, s)
  else
    let rank := contributor x core
    let others := if grpMode x = 1 then [] else (grpRanks x).filter (· != rank)
    if others.any (fun r => s.portBusy (grpMember x r)) then (.wait, s)
    else
      let off := winOff pa
      let s := forEach others s (fun s r =>
        s.sendFlit 0x10 (grpMember x r) (grpGen x) off (groupPayload g (winOf pa) ++ leBytes 8 rank ++ bs))
      (.ok 0, s.contribute g (winOf pa) (off / 128) rank (cellsOf (off % 128) bs))

/-- The bytes of the answer to a request with this number word. -/
def answerSize (n : Nat) (write : Bool) : Nat := if write && decide (n < 2 ^ 32) then 0 else n % 2 ^ 32

/-- Send a request of a log entry to the peer that serves a window: a write or not, the number word of its payload and its data. -/
def State.askPeer (s : State) (sid slot thread pa n : Nat) (write : Bool) (data : List Byte) : MemR × State :=
  let ww := s.winWord (winOf pa)
  if s.portBusy (winPeer ww) then (.wait, s)
  else
    let id := s.fabric.nextReq
    let s := s.sendFlit (if write then 2 else 1) (winPeer ww) 0 (winOff pa) (peerPayload (winBase ww + winOff pa) n id data)
    (.remote pa, { s with fabric := { s.fabric with nextReq := id + 1, peers := s.fabric.peers ++ [⟨id, sid, slot, thread, write, answerSize n write⟩] } })

/-- Where the number word of a request for an atomic holds its function, type and width (DESIGN CHOICE, log 25). -/
def atomWord (n f ty : Nat) : Nat := n + 2 ^ 32 * (1 + f % 8 + 8 * (ty % 16))

/-- An atomic of a log entry to a window (R438): a fault, or a request of TYPE write sent to the peer. -/
def State.windowAtomic (s : State) (sid slot thread pa n f ty x y : Nat) : MemR × State :=
  let ww := s.winWord (winOf pa)
  if !winValid ww || winKind ww != 0 then (.fault clsProt, s)
  else s.askPeer sid slot thread pa (atomWord n f ty) true (leBytes 8 x ++ leBytes 8 y)

/-- CLEAN and DROP of a window's line, which no cache holds: nothing is to be done in a peer window, and any other is refused
(R438, R440). -/
def State.windowClean (s : State) (pa : Nat) : MemR :=
  let ww := s.winWord (winOf pa)
  if winValid ww && winKind ww == 0 then .ok 0 else .fault clsProt

/-- An access of a log entry to a window: a fault, a contribution made, or a request sent to the peer. -/
def State.windowAccess (s : State) (sid slot thread core pa n ty : Nat) (write : Option (List Byte)) : MemR × State :=
  let ww := s.winWord (winOf pa)
  if !winValid ww then (.fault clsProt, s)
  else if winKind ww = 1 then
    (match write with
      | some bs => s.mcrStore core pa ty bs
      | none => (.fault clsProt, s))
  else if winKind ww ≠ 0 then (.fault clsProt, s)
  else s.askPeer sid slot thread pa n write.isSome (write.getD [])

end Sys2Proof.Machine
end

