-- ==== Sys2Proof/Machine/Spad.lean ====
section
/-! DEFINITION. The scratchpad of a cohort (R155, R156, R160, R187): bytes, tile owners, struck words, and its monitors. -/

namespace Sys2Proof.Machine

def State.spadByte (s : State) (cid off : Nat) : Byte := kvGet 0#8 (s.cohort cid).spad off
def State.spadBytes (s : State) (cid off n : Nat) : List Byte := (nats n).map (fun i => s.spadByte cid (off + i))
def State.spadNum (s : State) (cid off n : Nat) : Nat := ofLe (s.spadBytes cid off n)

/-- The tiles of 256 bytes that a range touches. -/
def tilesOf (off n : Nat) : List Nat := if n = 0 then [] else natsFrom (off / 256) ((off + n - 1) / 256 + 1 - off / 256)

/-- An engine owns a byte of the range. -/
def State.engineOwns (s : State) (cid off n : Nat) : Bool :=
  (tilesOf off n).any (fun t => (s.cohort cid).owners.any (fun o => o.1 == t))

/-- An uncorrectable error struck one of the range's words of 8 bytes (R448). -/
def State.spadStruck (s : State) (cid off n : Nat) : Bool :=
  (s.cohort cid).spadBad.any (fun w => overlaps (8 * w) 8 off n)

/-- Write bytes at their bank: a struck word that is written whole is good again, and the waits on the words look at the
new value (R168). -/
def State.spadWrite (s : State) (cid off : Nat) (bs : List Byte) : State :=
  let c := s.cohort cid
  let n := bs.length
  let whole (w : Nat) : Bool := decide (off ≤ 8 * w) && decide (8 * w + 8 ≤ off + n)
  let s := s.setCohort cid { c with
    spad := forEach (cellsOf off bs) c.spad (fun m x => kvSet 0#8 m x.1 x.2),
    spadBad := c.spadBad.filter (fun w => !whole w) }
  s.notify (fun st r => st.cid == cid && decide (4 ≤ r.f.toNat)) off n (fun a k => s.spadNum cid a k)

/-- The precise checks of a scratchpad access of n bytes at an offset (R156): alignment (none where al is 0), the
cohort's allocation, the tile's owner. -/
def State.spadCheck (s : State) (cid : Nat) (off : Int) (n al : Nat) : Option Nat :=
  if al ≠ 0 ∧ off % (al : Nat) ≠ 0 then some clsAlign
  else if off < 0 ∨ (s.cohort cid).bytes < off.toNat + n then some clsProt
  else if s.engineOwns cid off.toNat n then some clsTile
  else none

/-- The precise fault of the lowest thread that fails a check, with the mask of the threads that fail one. -/
def firstFault (l : List (Nat × Option Nat × Nat)) : Option (Nat × Nat × Nat × Nat) :=
  let bad := l.filter (fun x => x.2.1.isSome)
  match bad with
  | [] => none
  | x :: _ => some (x.1, x.2.1.getD 0, x.2.2, maskOf (bad.map Prod.fst))

/-- Raise a thread's precise fault: with U = 1 it names no thread (R204). -/
def State.threadFault (s : State) (sid : Nat) (r : Raw) (x : Nat × Nat × Nat × Nat) : State :=
  let uni := r.u == 1#1
  s.precise sid r x.2.1 0 x.2.2.1 (if uni then none else some x.1) (if uni then 0 else x.2.2.2)

end Sys2Proof.Machine
end

