-- ==== Sys2Proof/Machine/Access.lean ====
section
/-! DEFINITION. Loads, stores, cache control, pins and atomics (R155 to R165), with the engine that runs the accesses of a
log entry (R181, R198 to R200, R470). -/

namespace Sys2Proof.Machine

/-! ## Running the accesses of a log entry -/

/-- An access fails with a class: a write to a protected block has its fault returned (R174, R197), an uncorrectable
error writes its record (R422), the rest goes to its function (R199, R200). -/
def State.failed (s : State) (sid : Nat) (a : Acc) (cls : Nat) : Acc × State :=
  let w := s.who sid
  let guarded : Bool := match (s.access w a.va 0 2).1 with
    | .hit pa _ => a.write && (s.isProtected pa || s.isProtected (pa + a.size - 1))
    | _ => false
  if cls = clsUncorr then (s.failAcc a cls, s.errorRecord (some (s.strand sid).rid) clsUncorr (a.va % 2 ^ 56))
  else if cls = clsProt ∧ guarded then ({ a with status := 3, cls := cls }, s)
  else (s.failAcc a cls, s.askTriage cls)

/-- Run the accesses still to be performed, in ascending thread order; one that stands behind an earlier access to the
same bytes waits (R159, R200). -/
def runAccs (f : State → Acc → MemR × State) (sid seq : Nat) (l done : List Acc) (s : State) : List Acc × State :=
  match l with
  | [] => (done.reverse, s)
  | a :: t =>
    if a.status ≠ 0 || done.any (fun b => b.pendingAcc && s.meets (s.who sid) a b) || s.behind sid seq a then
      runAccs f sid seq t (a :: done) s
    else match f s a with
      | (.ok x, s) => runAccs f sid seq t ({ a with status := 1, got := x } :: done) s
      | (.wait, s) => runAccs f sid seq t (a :: done) s
      | (.remote _, s) => runAccs f sid seq t ({ a with status := 5 } :: done) s
      | (.fault c, s) =>
        let (a, s) := s.failed sid a c
        runAccs f sid seq t (a :: done) s

/-- The class of a failed entry whose strand has ended goes to the host, and the entry is discarded (R199, R201). -/
def State.entryFailed (s : State) (sid slot : Nat) : State :=
  match s.entry sid slot with
  | some e =>
    if (s.strand sid).life = .ended ∧ e.accs.any Acc.dead then
      (s.trapRecord sid e.cls e.pc (e.addr % 2 ^ 56)).finishEntry sid slot
    else s.wakeTrap sid
  | none => s

/-- The accesses that a store still has to make have passed every check of R156 as its pages are mapped now: only a home or a peer
holds them up. -/
def State.checked (s : State) (sid : Nat) (e : LogEnt) : Bool :=
  let need := if e.raw.op = 0x95#8 then needR else needW
  e.accs.all (fun a => a.status == 1 || a.status == 5 || (a.status == 0 && (pieces (a.va % 2 ^ 56) (min a.size 16)).all (fun p =>
    match (s.access (s.who sid) p.1 need 0).1 with
    | .hit pa _ => !isWindow pa && (a.size == 128 || !(s.isProtected pa || s.isProtected (pa + p.2 - 1)))
    | _ => false)))

/-- Stores, CLEAN and DROP, whose entries are freed so (R198). -/
def Raw.stores (r : Raw) : Bool := r.op == 0x91#8 || r.op == 0x95#8 || r.op == 0x96#8

/-- Put an entry back that is not done. One of a store whose threads have passed their checks frees its place in the log (R198); where a
check fails after all it takes a place again. -/
def State.keepEntry (s : State) (sid slot : Nat) (e : LogEnt) : State :=
  let e := e.refresh
  if slot < freedSlot then
    (if Raw.stores e.raw && s.checked sid e then s.moveEntry sid slot (s.strand sid).sideSlot e
     else (s.putEntry sid slot e).entryFailed sid slot)
  else if e.state = 1 then s.putEntry sid slot e
  else match (s.strand sid).freeSlot with
    | some k => (s.moveEntry sid slot k e).entryFailed sid k
    | none => s.putEntry sid slot e

/-- Put an entry back with its accesses: once all are performed its results are written and it leaves the log. -/
def State.settleEntry (s : State) (sid slot : Nat) (e : LogEnt) (finish : Strand → LogEnt → Strand) : State :=
  if e.accs.all (fun a => a.status == 1) then
    (s.modStrand sid (fun st => if st.life = .ended then st else finish st e)).finishEntry sid slot
  else s.keepEntry sid slot e

/-- Run an entry with a meaning of one access and of its completion. A store that has freed its place in the log and would fail a check
now waits until there is a place again. -/
def State.runEntry (s : State) (sid slot : Nat) (e : LogEnt) (f : State → Acc → MemR × State)
    (finish : Strand → LogEnt → Strand) : State :=
  if freedSlot ≤ slot && (s.strand sid).freeSlot.isNone && !s.checked sid e then s
  else
    let (accs, s) := runAccs f sid e.seq e.accs [] s
    s.settleEntry sid slot { e with accs := accs } finish

/-- Run only the first access of an entry that is still to be made: other parties may see the threads' accesses one by one (R181,
R189). -/
def State.runFirst (s : State) (sid slot : Nat) (e : LogEnt) (f : State → Acc → MemR × State)
    (finish : Strand → LogEnt → Strand) : State :=
  match e.accs.dropWhile (fun a => a.status != 0) with
  | [] => s
  | a :: rest =>
    if freedSlot ≤ slot && (s.strand sid).freeSlot.isNone && !s.checked sid e then s
    else
      let before := e.accs.takeWhile (fun a => a.status != 0)
      let (accs, s) := runAccs f sid e.seq [a] before.reverse s
      s.settleEntry sid slot { e with accs := accs ++ rest } finish

/-- The values of every thread reach D, extended to the register's width (R157, R158). -/
def Strand.finishLoad (st : Strand) (e : LogEnt) : Strand :=
  let st := forEach e.accs st (fun st a => st.setDest e.raw e.dnum a.thread (extendTo e.raw a.size a.got))
  st.fullAll (destKeysAt e.raw e.dnum)

/-- Nothing is written. -/
def Strand.finishNone (st : Strand) (_ : LogEnt) : Strand := st

/-- The physical address of an access that has just been made. -/
def State.paOf (s : State) (sid va : Nat) : Nat :=
  let w := s.who sid
  match (s.access w va 0 2).1 with
  | .hit pa _ => pa
  | _ => 0

/-- Make an access, and ask the peer when it lies in a window (R438). -/
def State.orRemote (x : MemR × State) (sid slot : Nat) (a : Acc) (ty : Nat) (write : Option (List Byte)) : MemR × State :=
  match x with
  | (.remote pa, s) => s.windowAccess sid slot a.thread (s.strand sid).core pa a.size ty write
  | y => y

/-! ## LD and ST (R157 to R159) -/

/-- The cache that serves a strand's weak loads: L1, or with U = 1 its quadrant's uniform data cache (R380). -/
def Strand.loadCache (st : Strand) (r : Raw) : Nat := if r.u = 1#1 then 1 + st.quad else 0

/-- One thread's load. -/
def State.loadAcc (r : Raw) (sid slot : Nat) (s : State) (a : Acc) : MemR × State :=
  if r.kind = 1 then
    if s.negBlocks sid then (.wait, s)
    else match State.orRemote (s.strongRead (s.who sid) a.va a.size 0) sid slot a r.ty none with
      | (.ok x, s) => (.ok x, (s.noteRead (s.who sid) a.va a.size).negativeAt sid (s.seqAt sid slot) 4 a.va (s.paOf sid a.va) x)
      | y => y
  else State.orRemote (s.weakRead (s.who sid) ((s.strand sid).loadCache r) a.va a.size 0) sid slot a r.ty none

/-- The bytes that a thread's store has left dirty in the L1 are signed (R174). -/
def State.signStore (s : State) (sid slot : Nat) (a : Acc) : State :=
  match s.entry sid slot with
  | some e =>
    let x : Author := { sid := sid, pc := e.pc, seq := e.seq, raw := e.raw, amask := e.amask, thread := a.thread, va := 0,
                        off := 0, size := 0, data := 0 }
    forEach (pieces (a.va % 2 ^ 56) a.size) s (fun s p => s.signPiece (s.who sid) x p.1 p.2)
  | none => s

/-- One thread's store. -/
def State.storeAcc (r : Raw) (sid slot : Nat) (s : State) (a : Acc) : MemR × State :=
  let bs := leBytes a.size a.data
  if r.kind = 1 then
    if s.negBlocks sid then (.wait, s)
    else match State.orRemote (s.strongWrite (s.who sid) a.va bs) sid slot a r.ty (some bs) with
      | (.ok x, s) => (.ok x, (s.signStore sid slot a).negativeAt sid (s.seqAt sid slot) 5 a.va (s.paOf sid a.va) a.data)
      | y => y
  else match State.orRemote (s.weakStore (s.who sid) a.va bs) sid slot a r.ty (some bs) with
    | (.ok x, s) => (.ok x, s.signStore sid slot a)
    | y => y

/-- A store that could not reach L1 as it issued is due again. -/
def State.stillDue (s : State) (sid slot : Nat) : State :=
  match s.entry sid slot with
  | some e => if e.accs.any (fun a => a.status == 0) then s.push (.writePerformed sid slot) else s
  | none => s

/-- Threads of a global access whose address is not aligned. -/
def Strand.misaligned (st : Strand) (r : Raw) (ts : List Nat) (al : Nat) : Option (Nat × Nat × Nat × Nat) :=
  firstFault (ts.map (fun t => (t, if st.ea r t % al = 0 then none else some clsAlign, st.ea r t)))

/-- LD (R158): the destination is empty until the data of every active thread has arrived. -/
def execLd (o : MOps) (s : State) : Res :=
  let r := rawM 0x90 o
  s.issue r (fun sid s =>
    let st := s.strand sid
    let ts := st.memThreads r
    match st.misaligned r ts r.accAlign with
    | some x => s.threadFault sid r x
    | none =>
      let accs := ts.map (fun t => newAcc t (st.ea r t) r.accWidth 0 false)
      let (slot, s) := s.logged sid r accs (st.destKeys r) false
      s.push (if r.kind = 1 then .strongReadAtHome sid slot else .loadDataArrival sid slot))

/-- The value of D that a thread stores or operates with. -/
def Strand.dataOf (st : Strand) (r : Raw) (t : Nat) : Nat :=
  if r.u = 1#1 then st.s r.d.toNat else st.val (st.eff r r.d.toNat) t r.wide

/-- The threads of a guarded memory instruction (R158). -/
def Strand.guardThreads (st : Strand) (r : Raw) : List Nat :=
  if r.u = 1#1 then (if st.uniGuard r.g then [st.lowest] else []) else st.guarded r.g

/-- ST (R158). A weak store reaches L1 as it issues; a strong one is performed at its home. -/
def execSt (o : MOps) (s : State) : Res :=
  let r := rawM 0x91 o
  s.issue r (fun sid s =>
    let st := s.strand sid
    let ts := st.guardThreads r
    match st.misaligned r ts r.accAlign with
    | some x => s.threadFault sid r x
    | none =>
      let n := r.accWidth
      let accs := ts.map (fun t => newAcc t (st.ea r t) n (st.dataOf r t % 2 ^ (8 * n)) true)
      let (slot, s) := s.logged sid r accs [] false
      if r.kind = 1 ∧ accs ≠ [] then s.push (.writePerformed sid slot)
      else match s.entry sid slot with
        | some e => (s.runEntry sid slot e (State.storeAcc r sid slot) Strand.finishNone).stillDue sid slot
        | none => s)

/-! ## LDL and STL (R157, R158, R160) -/

/-- Threads of a scratchpad access that fail a precise check. -/
def State.spadFaults (s : State) (st : Strand) (r : Raw) (ts : List Nat) (n al : Nat) : Option (Nat × Nat × Nat × Nat) :=
  firstFault (ts.map (fun t => (t, s.spadCheck st.cid (st.offset r t) n al, wrapN 56 (st.offset r t))))

/-- LDL: the bank gives the value as the instruction issues, and it reaches D when it arrives; a word that an error
struck fails then (R448). -/
def execLdl (o : MOps) (s : State) : Res :=
  let r := rawM 0x92 o
  s.issue r (fun sid s =>
    let st := s.strand sid
    let ts := st.memThreads r
    match s.spadFaults st r ts r.accWidth r.accAlign with
    | some x => s.threadFault sid r x
    | none =>
      let n := r.accWidth
      let one (t : Nat) : Acc :=
        let off := (st.offset r t).toNat
        { newAcc t (spadVa + off) n (b2n (s.spadStruck st.cid off n)) false with got := s.spadNum st.cid off n }
      if st.behindBank (ts.map one) then s
      else
        let (slot, s) := s.logged sid r (ts.map one) (st.destKeys r) false
        s.push (.loadDataArrival sid slot))

/-- One thread's scratchpad load arrives. -/
def State.arriveLdl (s : State) (a : Acc) : MemR × State :=
  if a.data = 1 then (.fault clsUncorr, s.lifeAdd 2 1) else (.ok a.got, s)

/-- STL. -/
def execStl (o : MOps) (s : State) : Res :=
  let r := rawM 0x93 o
  s.issue r (fun sid s =>
    let st := s.strand sid
    let ts := st.guardThreads r
    let n := r.accWidth
    match s.spadFaults st r ts n r.accAlign with
    | some x => s.threadFault sid r x
    | none =>
      if st.behindBank (ts.map (fun t => newAcc t (spadVa + (st.offset r t).toNat) n 0 true)) then s
      else
        let s := forEach ts s (fun s t =>
          s.spadWrite st.cid (st.offset r t).toNat (leBytes n (st.dataOf r t % 2 ^ (8 * n))))
        s.done sid r)

/-! ## PREF, CLEAN and DROP (R161) -/

/-- One thread for each distinct line that the active threads address. -/
def Strand.lineThreads (st : Strand) (r : Raw) : List Nat :=
  (st.memThreads r).foldl (fun acc t => if acc.any (fun u => st.ea r u / 128 == st.ea r t / 128) then acc else acc ++ [t]) []

/-- Prefetch one line: into the L1 or the uniform data cache if the line is there or a slot is free; one that would fault or
wait does nothing. -/
def State.prefetch (s : State) (sid : Nat) (r : Raw) (va : Nat) (llc : Bool) : State :=
  let w := s.who sid
  match (s.access w va needR 0).1 with
  | .hit pa _ =>
    if isWindow pa then s
    else if llc then (if isHbm pa then s.llcRead (pa / 128) else s)
    else
      let cache := (s.strand sid).loadCache r
      if (s.copyOf w.core (fun c => c.isAt cache w.asid (va / 128))).isSome || s.slotFree w.core cache (va / 128) then
        (s.ensure w cache va (2 ^ 128 - 1) needR 0).2
      else s
  | _ => s

def State.runPref (s : State) (r : Raw) (llc : Bool) : Res :=
  s.issue r (fun sid s =>
    let st := s.strand sid
    (forEach (st.lineThreads r) s (fun s t => s.prefetch sid r (st.ea r t) llc)).done sid r)

def execPrefL1 (o : MOps) (s : State) : Res := s.runPref (rawM 0x94 o) false
def execPrefLlc (o : MOps) (s : State) : Res := s.runPref (rawM 0x94 o) true

/-- One line cleaned or dropped at its home, which waits for any lease of it: what the holder has written stays in L1 until the lease ends
(R167). -/
def State.cleanAcc (r : Raw) (sid : Nat) (s : State) (a : Acc) : MemR × State :=
  let w := s.who sid
  let drop := r.op = 0x96#8
  match s.l1Access w a.va (if drop then needW else needR) 0 with
  | (.wait, s) => (.wait, s)
  | (.fault c, s) => (.fault c, s)
  | (.hit pa _, s) =>
    let line := pa / 128
    if isWindow pa then (s.windowClean pa, s)
    else if s.homeWaits line none false then (.wait, s)
    else
      let (done, s) := s.writeBack w.core line
      if !done || s.goPending line then (.wait, s)
      else
        let s := if r.f = 1#3 ∧ isHbm pa then (if drop then s.llcDrop line else s.llcClean line) else s
        (.ok 0, if drop then s.dropCopies w.core (fun c => c.cache == 0 && c.pline == line) else s)

def State.runClean (s : State) (r : Raw) : Res :=
  s.issue r (fun sid s =>
    let st := s.strand sid
    let accs := (st.lineThreads r).map (fun t => newAcc t (st.ea r t) 128 0 true)
    let (slot, s) := s.logged sid r accs [] false
    match s.entry sid slot with
    | some e => (s.runEntry sid slot e (State.cleanAcc r sid) Strand.finishNone).stillDue sid slot
    | none => s)

def execCleanL1 (o : MOps) (s : State) : Res := s.runClean (rawM 0x95 o)
def execCleanMem (o : MOps) (s : State) : Res := s.runClean (rawM 0x95 o)
def execDropL1 (o : MOps) (s : State) : Res := s.runClean (rawM 0x96 o)
def execDropLlc (o : MOps) (s : State) : Res := s.runClean (rawM 0x96 o)

/-! ## LOCK and UNLOCK (R162, R163, R400) -/

/-- The lines that a context has pinned on a die. -/
def State.pinsOf (s : State) (asid die : Nat) : Nat :=
  (s.homes.tags.filter (fun p => match s.tag p.1 with
    | some t => t.pin == some asid && sliceOf t.line / 48 == die
    | none => false)).length

/-- The lock quota of a context on a die (R368). -/
def State.lockQuota (s : State) (asid die : Nat) : Nat := s.numAt (s.ctxEntry asid + 16 + 4 * die) 4

/-- Pin a line, with room for its reservation of 4 sectors; one that is not resident takes its way after that room is made (R400). -/
def State.pinLine (s : State) (asid line : Nat) : State :=
  match s.findTag line with
  | some (k, _) =>
    let s := (s.makeRoom line k 4 16 0).1
    (match s.tag k with
      | some t => s.setTag k (some { t with pin := some asid })
      | none => s)
  | none =>
    let s := ((s.makeRoom line (setKey line + 16) 4 16 0).1).fillWith line (s.lineBytes line)
    (match s.findTag line with
      | some (k, t) => s.setTag k (some { t with pin := some asid })
      | none => s)

/-- LOCK of a line: its status. -/
def State.lockLine (s : State) (asid line : Nat) : Nat × State :=
  let s := s.recoverSet line
  let pinned := (s.findTag line).bind (fun p => p.2.pin)
  if !isHbm (line * 128) then (8, s)
  else match pinned with
    | some a => (if a = asid then 0 else 6, s)
    | none =>
      let die := sliceOf line / 48
      if s.lockQuota asid die ≤ s.pinsOf asid die then (2, s)
      else if 8 ≤ ((s.setTags line).filter (fun p => p.2.pin.isSome)).length then (4, s)
      else (0, s.pinLine asid line)

/-- UNLOCK of a line: its status. -/
def State.unlockLine (s : State) (asid line : Nat) : Nat × State :=
  let s := s.recoverSet line
  if !isHbm (line * 128) then (8, s)
  else match s.findTag line with
    | some (k, t) => (match t.pin with
        | some a => if a = asid then (0, s.setTag k (some { t with pin := none })) else (6, s)
        | none => (7, s))
    | none => (7, s)

/-- One thread's LOCK or UNLOCK: no permission of the page is asked for (log 26). -/
def State.pinAcc (r : Raw) (sid : Nat) (s : State) (a : Acc) : MemR × State :=
  let w := s.who sid
  match s.access w a.va 0 0 with
  | (.wait, s) => (.wait, s)
  | (.fault c, s) => (.fault c, s)
  | (.hit pa _, s) =>
    let (k, s) := if r.op = 0x97#8 then s.lockLine w.asid (pa / 128) else s.unlockLine w.asid (pa / 128)
    (.ok k, s)

/-- The statuses of LOCK and UNLOCK reach v(D). -/
def Strand.finishPin (st : Strand) (e : LogEnt) : Strand :=
  let st := forEach e.accs st (fun st a => st.setDest e.raw e.dnum a.thread a.got)
  st.fullAll (destKeysAt e.raw e.dnum)

/-- LOCK and UNLOCK take effect thread by thread as they issue. -/
def State.runPin (s : State) (r : Raw) : Res :=
  s.issue r (fun sid s =>
    let st := s.strand sid
    let accs := st.active.map (fun t => newAcc t (st.ea r t) 0 0 false)
    let (slot, s) := s.logged sid r accs (st.destKeys r) false
    match s.entry sid slot with
    | some e => s.runEntry sid slot e (State.pinAcc r sid) Strand.finishPin
    | none => s)

def execLock (o : MOps) (s : State) : Res := s.runPin (rawM 0x97 o)
def execUnlock (o : MOps) (s : State) : Res := s.runPin (rawM 0x98 o)

/-! ## ATOM and ATOML (R164, R165) -/

/-- The new value of an atomic's location. -/
def atomNew (f ty : Nat) (old x y : Nat) : Nat :=
  let w := if ty = 2 ∨ ty = 3 then 64 else 32
  let sg := ty = 0 ∨ ty = 2
  let lt (a b : Nat) : Bool := if sg then decide (sInt w a < sInt w b) else decide (a < b)
  match f with
  | 0 => if ty = 8 then (floatElem 0x60 fmtF32 0 old x 0).bits else (old + x) % 2 ^ w
  | 1 => if ty = 8 then (floatElem 0x64 fmtF32 0 old x 0).bits else if lt x old then x else old
  | 2 => if ty = 8 then (floatElem 0x65 fmtF32 0 old x 0).bits else if lt old x then x else old
  | 3 => old &&& x
  | 4 => old ||| x
  | 5 => old ^^^ x
  | 6 => x
  | _ => if old = x then y else old

/-- A thread's operand, and for CAS its new value (R164). -/
def Strand.atomArgs (st : Strand) (r : Raw) (t : Nat) : Nat × Nat :=
  let w := 8 * r.atomWidth
  let two := if r.u = 1#1 then st.s (r.d.toNat + 1) else st.val (st.eff r (r.d.toNat + (if r.wide then 2 else 1))) t r.wide
  (st.dataOf r t % 2 ^ w, if r.f = 7#3 then two % 2 ^ w else 0)

/-- The access of an atomic's thread. -/
def Strand.atomAcc (st : Strand) (r : Raw) (t va : Nat) : Acc :=
  let (x, y) := st.atomArgs r t
  { newAcc t va r.atomWidth x true with data2 := y }

/-- One thread's atomic, in one step at the home (R165), or at the home of a peer (R438). -/
def State.atomHome (r : Raw) (sid slot : Nat) (s : State) (a : Acc) : MemR × State :=
  let w := s.who sid
  if s.negBlocks sid then (.wait, s)
  else match s.atomicAt w a.va a.size needRW with
    | (.ok pa, s) =>
      if s.isProtected pa then (.fault clsProt, s)
      else
        let old := s.numAt pa a.size
        let s := (s.noteWts (pa / 128) w.core).homeWrite
          (cellsOf pa (leBytes a.size (atomNew r.f.toNat r.ty old a.data a.data2))) (some w.core)
        (.ok old, s.negativeAt sid (s.seqAt sid slot) 3 a.va pa old)
    | (.remote pa, s) => s.windowAtomic sid slot a.thread pa a.size r.f.toNat r.ty a.data a.data2
    | y => y

/-- ATOM: its destination is empty until every thread's old value has arrived. -/
def execAtom (o : MOps) (s : State) : Res :=
  let r := rawM 0x99 o
  s.issue r (fun sid s =>
    let st := s.strand sid
    let ts := st.guardThreads r
    match st.misaligned r ts r.atomWidth with
    | some x => s.threadFault sid r x
    | none =>
      let (slot, s) := s.logged sid r (ts.map (fun t => st.atomAcc r t (st.ea r t))) (st.destKeys r) false
      s.push (.atomicAtHome sid slot))

/-- One thread's atomic at its bank. One that is made again after an error (R448) waits while an engine owns the tile (R187). -/
def State.atomBank (r : Raw) (sid slot : Nat) (s : State) (a : Acc) : MemR × State :=
  let cid := (s.strand sid).cid
  let off := a.va - spadVa
  if s.engineOwns cid off a.size then (.wait, s)
  else if s.spadStruck cid off a.size then (.fault clsUncorr, s.lifeAdd 2 1)
  else
    let old := s.spadNum cid off a.size
    let s := s.spadWrite cid off (leBytes a.size (atomNew r.f.toNat r.ty old a.data a.data2))
    (.ok old, s.negativeBank sid (s.seqAt sid slot) 3 off old)

/-- ATOML: the threads' atomics take place at their banks as it issues, once the negative has room (R461). -/
def execAtoml (o : MOps) (s : State) : Res :=
  let r := rawM 0x9A o
  s.issue r (fun sid s =>
    let st := s.strand sid
    let ts := st.guardThreads r
    match s.spadFaults st r ts r.atomWidth r.atomWidth with
    | some x => s.threadFault sid r x
    | none =>
      let accs := ts.map (fun t => st.atomAcc r t (spadVa + (st.offset r t).toNat))
      if s.negBlocks sid || st.behindBank accs then s
      else
        let (slot, s) := s.logged sid r accs (st.destKeys r) false
        match s.entry sid slot with
        | some e => s.runEntry sid slot e (State.atomBank r sid slot) Strand.finishLoad
        | none => s)

/-! ## The events of these instructions -/

/-- Run an entry of this file's instructions, all that it can or only its first access: at its event, at a replay, or when what it
waited for is over. -/
def State.memRun (s : State) (sid slot : Nat) (e : LogEnt) (first : Bool) : State :=
  let r := e.raw
  let run (f : State → Acc → MemR × State) (g : Strand → LogEnt → Strand) : State :=
    if first then s.runFirst sid slot e f g else s.runEntry sid slot e f g
  match r.op.toNat with
  | 0x90 => run (State.loadAcc r sid slot) Strand.finishLoad
  | 0x91 => run (State.storeAcc r sid slot) Strand.finishNone
  | 0x92 => run State.arriveLdl Strand.finishLoad
  | 0x95 | 0x96 => run (State.cleanAcc r sid) Strand.finishNone
  | 0x97 | 0x98 => run (State.pinAcc r sid) Strand.finishPin
  | 0x99 => run (State.atomHome r sid slot) Strand.finishLoad
  | 0x9A => run (State.atomBank r sid slot) Strand.finishLoad
  | _ => s

/-- Run all of an entry that can go on. -/
def State.memEntry (s : State) (sid slot : Nat) (e : LogEnt) : State := s.memRun sid slot e false

/-- Run an entry if it is of one of these opcodes. -/
def State.memEvent (s : State) (sid slot : Nat) (ops : List Nat) : Res :=
  match s.entry sid slot with
  | some e => .next (if ops.contains e.raw.op.toNat then s.memEntry sid slot e else s)
  | none => .next s

/-- LOAD_DATA_ARRIVAL (R158): data of an outstanding load arrives. A slot from 8 on names rows that an MLDT has read (R329). -/
def execLoadDataArrival (sid slot : Nat) (s : State) : Res :=
  if slot < 8 then s.memEvent sid slot [0x90, 0x92] else s.arrival sid (slot - 8) .rows

/-- The page of an address is being migrated and may be read (R388): triage returns no write fault on it. The answer is kept back
until the translation is known. -/
def State.migrating (s : State) (w : Who) (va : Nat) : Bool × State :=
  match s.translate w va with
  | (.hit _ _, s) => (match (kvGet [] s.xlate.cluster (clusterOf w.core)).find? (fun e => e.serves w.asid va) with
      | some e => (bit e.pte 7 && bit e.pte 2, s)
      | none => (false, s))
  | (.wait, s) => (true, s)
  | (.fault _, s) => (false, s)

/-- WRITE_PERFORMED (R181): a store is applied at its home. -/
def execWritePerformed (sid slot : Nat) (s : State) : Res := s.memEvent sid slot [0x91, 0x95, 0x96]

/-- ATOMIC_AT_HOME (R165): each thread's operation and write are one step at the home. -/
def execAtomicAtHome (sid slot : Nat) (s : State) : Res := s.memEvent sid slot [0x99, 0x9A]

/-- L1_WRITE_BACK (R412): the dirty bytes of a line are performed at its home as one write. -/
def execL1WriteBack (core line : Nat) (s : State) : Res := .next (s.writeBack core line).2

end Sys2Proof.Machine
end

