-- ==== Sys2Proof/Machine/Sync.lean ====
section
/-! DEFINITION. Leases (R166, R167, R417), WAIT (R168, R169), cohort barriers (R170 to R172), fences (R173), guard objects
(R174 to R176). -/

namespace Sys2Proof.Machine

/-! ## LEASE and UNLEASE -/

/-- Write a status into S(D) and let its entry go. -/
def State.giveStatus (s : State) (sid slot d status : Nat) : State :=
  (s.modStrand sid (fun st => if st.life = .ended then st else (st.setS d status).markFull (keyS d))).finishEntry sid slot

/-- The one access of an instruction of this file fails: its entry is held. -/
def State.holdEntry (s : State) (sid slot : Nat) (e : LogEnt) (cls : Nat) : State :=
  let s := if cls = clsUncorr then s.errorRecord (some (s.strand sid).rid) clsUncorr ((e.accs.map Acc.va).headD 0) else s
  (s.putEntry sid slot ({ e with accs := e.accs.map (fun a => s.failAcc a cls) }).refresh).askTriage cls

/-- The version of a line goes up by one, modulo 256 (R417). -/
def State.bumpVer (s : State) (line : Nat) : State :=
  let x := s.stamp line
  s.setStamp line { x with ver := (x.ver + 1) % 256 }

/-- A lease is granted (R166, R417): the line is fresh in the core's L1, and in none of its other caches. -/
def State.grantLease (s : State) (w : Who) (sid va pa perms : Nat) : State :=
  let line := pa / 128
  let s := (s.bumpVer line).dropCopies w.core (fun c => c.pline == line)
  let s := if isHbm pa then (s.llcRead line).stampRead line w.core else s
  let (wt, rt) := s.wr line
  let c : Copy := { cache := 0, asid := w.asid, vline := va / 128, pline := line, perms := perms, data := s.lineBytes line,
                    dirty := 0, dirtySince := 0, wts := wt, rts := rt, epoch := s.pkg.epoch, hostMem := !isHbm pa,
                    poison := b2n (s.poisoned (line * 128) 64) + 2 * b2n (s.poisoned (line * 128 + 64) 64), authors := [] }
  let s := s.setCopy w.core c
  let h : Holding := { core := w.core, sid := sid, since := s.cycle, ver := (s.stamp line).ver }
  let s := { s with homes := { s.homes with holdings := kvSet none s.homes.holdings line (some h) } }
  s.modStrand sid (fun st => { st with leases := st.leases ++ [line] })

/-- A LEASE at its home: refused, granted, or still waiting. -/
def State.leaseEntry (s : State) (sid slot : Nat) (e : LogEnt) : State :=
  let w := s.who sid
  let st := s.strand sid
  let va := (e.accs.map Acc.va).headD 0
  if !e.accs.all (fun a => a.status == 0) then s
  else match s.access w va needRW 0 with
    | (.wait, s) => s
    | (.fault c, s) => s.holdEntry sid slot e c
    | (.hit pa perms, s) =>
      let line := pa / 128
      if isWindow pa then s.holdEntry sid slot e clsProt
      else if 2 ≤ st.leases.length || st.leases.any (fun l => line ≤ l) then s.giveStatus sid slot e.raw.d.toNat 4
      else if (s.holding line).isSome || s.pkg.flipping then s
      else
        let (done, s) := s.writeBack w.core line
        let (room, s) := match s.l1Of w.core line with
          | some c => s.moveSlot w.core c (va / 128)
          | none => s.makeSlot w.core 0 (va / 128)
        if !done || !room || s.goPending line || s.readBlocked line (some sid) w.core then s.noteBlocked line (some w.core)
        else (s.grantLease w sid va pa perms).giveStatus sid slot e.raw.d.toNat 0

/-- An instruction that names one object by a uniform address takes its log entry. -/
def State.oneEntry (s : State) (sid : Nat) (r : Raw) (size : Nat) (block : Bool) : Nat × State :=
  let st := s.strand sid
  s.logged sid r [newAcc st.lowest (st.ea r st.lowest) size 0 false] [keyS r.d.toNat] block

/-- LEASE (R166). -/
def execLease (o : MOps) (s : State) : Res :=
  let r := rawM 0x9B o
  s.issue r (fun sid s =>
    let (slot, s) := s.oneEntry sid r 0 false
    s.push (.leaseGrant sid slot))

/-- LEASE_GRANT. -/
def execLeaseGrant (sid slot : Nat) (s : State) : Res :=
  match s.entry sid slot with
  | some e => .next (if e.raw.op = 0x9B#8 then s.leaseEntry sid slot e else s)
  | none => .next s

/-- A load or store of the strand is on its way to a line. -/
def State.onWay (s : State) (sid line : Nat) (e : LogEnt) : Bool :=
  (e.raw.op == 0x90#8 || e.raw.op == 0x91#8)
    && e.accs.any (fun a => a.status == 0 && (s.physOf (s.who sid) a).1.any (fun q => overlaps q.1 q.2 (line * 128) 128))

/-- The holder's loads and stores on their way to a line, older than a place in program order, are performed on its L1 copy
before the lease ends (R167). -/
def State.joinLease (s : State) (sid line seq : Nat) : State :=
  forEach (s.strand sid).log s (fun s p => match s.entry sid p.1 with
    | some e => if e.seq < seq && s.onWay sid line e then s.memEntry sid p.1 e else s
    | none => s)

/-- UNLEASE in the log. The manual names no page permission for it: it asks for those of LEASE, read and write (DESIGN
CHOICE, log 26). -/
def State.unleaseEntry (s : State) (sid slot : Nat) (e : LogEnt) : State :=
  let w := s.who sid
  let va := (e.accs.map Acc.va).headD 0
  if !e.accs.all (fun a => a.status == 0) then s
  else match s.access w va needRW 0 with
    | (.wait, s) => s
    | (.fault c, s) => s.holdEntry sid slot e c
    | (.hit pa _, s) =>
      let line := pa / 128
      if s.isHolder (some sid) line then
        let s := s.joinLease sid line e.seq
        if (s.strand sid).log.any (fun p => p.2.seq < e.seq && s.onWay sid line p.2) then s
        else (s.endLease sid line).giveStatus sid slot e.raw.d.toNat 0
      else s.giveStatus sid slot e.raw.d.toNat 7

/-- UNLEASE (R166). -/
def execUnlease (o : MOps) (s : State) : Res :=
  let r := rawM 0x9C o
  s.issue r (fun sid s =>
    let (slot, s) := s.oneEntry sid r 0 false
    match s.entry sid slot with
    | some e => s.unleaseEntry sid slot e
    | none => s)

/-- LEASE_EXPIRY (R167): 4,096 cycles after its grant a lease ends. -/
def execLeaseExpiry (core line : Nat) (s : State) : Res :=
  match s.holding line with
  | some h =>
    .next (if h.core = core ∧ h.since + 4096 ≤ s.cycle ∧ (s.strand h.sid).leases.contains line
      then (s.joinLease h.sid line s.seq).endLease h.sid line else s)
  | none => .next s

/-! ## WAIT -/

/-- The 8-byte words that an entry's monitors stand on, each once. -/
def LogEnt.monitors (e : LogEnt) : List Nat :=
  dedup [] ((e.accs.filter (fun a => a.status == 4)).map (fun a => a.data2 / 8))

/-- Monitors of global words that a slice serves. -/
def State.sliceMonitors (s : State) (slice : Nat) : Nat :=
  s.allStrands.foldl (fun n p => p.2.log.foldl (fun n q =>
    if q.2.raw.op = 0x9D#8 ∧ q.2.raw.f.toNat < 4 then
      n + (q.2.monitors.filter (fun m => isHbm (8 * m) && sliceOf (m / 16) == slice)).length else n) n) 0

/-- The bank of a scratchpad offset (R160). -/
def Cohort.bank (c : Cohort) (off : Nat) : Nat := (if c.swz then (off / 8) ^^^ (off / 256) else off / 8) % 32

/-- Monitors of words of a bank of a core. -/
def State.bankMonitors (s : State) (core bank : Nat) : Nat :=
  s.allStrands.foldl (fun n p => if p.2.core ≠ core then n else p.2.log.foldl (fun n q =>
    if q.2.raw.op = 0x9D#8 ∧ 4 ≤ q.2.raw.f.toNat then
      n + (q.2.monitors.filter (fun m => (s.cohort p.2.cid).bank (8 * m) == bank)).length else n) n) 0

/-- The monitors of this entry exceed a limit of R169; they already stand in the log. -/
def State.monitorsOver (s : State) (st : Strand) (e : LogEnt) : Bool :=
  if e.raw.f.toNat < 4 then
    (dedup [] ((e.monitors.filter (fun m => isHbm (8 * m))).map (fun m => sliceOf (m / 16)))).any (fun k => 2048 < s.sliceMonitors k)
  else (dedup [] (e.monitors.map (fun m => (s.cohort st.cid).bank (8 * m)))).any (fun b => 32 < s.bankMonitors st.core b)

/-- The monitor-overflow trap: the WAIT counts as not issued. -/
def State.waitOverflow (s : State) (sid slot : Nat) (e : LogEnt) : State :=
  (s.unissue sid slot e (destKeysAt e.raw e.dnum)).fault sid e.raw clsMonOvf 0

/-- One thread of a WAIT reads: satisfied, or with a monitor on the word. A word in a peer window is read at its peer (R438). -/
def State.waitAcc (sid slot : Nat) (r : Raw) (s : State) (a : Acc) : MemR × State :=
  if r.f.toNat < 4 then
    match State.orRemote (s.strongRead (s.who sid) a.va a.size 0) sid slot a r.ty none with
    | (.ok x, s) => (.ok x, s.noteRead (s.who sid) a.va a.size)
    | y => y
  else
    let cid := (s.strand sid).cid
    let off := a.va - spadVa
    if s.spadStruck cid off a.size then (.fault clsUncorr, s.lifeAdd 2 1) else (.ok (s.spadNum cid off a.size), s)

/-- A thread that has read a word: its value satisfies it, or it waits on the word. -/
def State.waitJudge (s : State) (sid : Nat) (r : Raw) (old a : Acc) : Acc :=
  if old.status = 0 ∧ a.status = 1 then
    { a with status := if waitHolds r a.got a.data then 1 else 4, data2 := if r.f.toNat < 4 then s.paOf sid a.va else a.va - spadVa }
  else a

/-- A WAIT's reads (R168), and its end when every thread is satisfied. -/
def State.waitEntry (s : State) (sid slot : Nat) (e : LogEnt) : State :=
  let (accs, s) := runAccs (State.waitAcc sid slot e.raw) sid e.seq e.accs [] s
  let accs := (e.accs.zip accs).map (fun p => s.waitJudge sid e.raw p.1 p.2)
  let e := { e with accs := accs }
  if accs.all (fun a => a.status == 1) then (s.endWait sid slot e).wakeTrap sid
  else
    let s := s.putEntry sid slot e.refresh
    if s.monitorsOver (s.strand sid) e then s.waitOverflow sid slot e else s.entryFailed sid slot

/-- WAIT: the strand waits until every active thread is satisfied. -/
def execWait (o : MOps) (s : State) : Res :=
  let r := rawM 0x9D o
  s.issue r (fun sid s =>
    let st := s.strand sid
    let ts := st.memThreads r
    let spad := 4 ≤ r.f.toNat
    let n := r.atomWidth
    let bad := if spad then s.spadFaults st r ts n n else st.misaligned r ts n
    match bad with
    | some x => s.threadFault sid r x
    | none =>
      if s.negBlocks sid then s
      else
        let one (t : Nat) : Acc :=
          newAcc t (if spad then spadVa + (st.offset r t).toNat else st.ea r t) n (st.dataOf r t % 2 ^ (8 * n)) false
        let (slot, s) := s.logged sid r (ts.map one) (st.destKeys r) false
        let s := s.modStrand sid (fun x => { x with waiting := .wait slot, waitSince := s.time })
        match s.entry sid slot with
        | some e =>
          let e := { e with sregs := loopRegs 1000 st.loops }
          if spad then s.waitEntry sid slot e else (s.putEntry sid slot e).push (.strongReadAtHome sid slot)
        | none => s)

/-- STRONG_READ_AT_HOME (R181): a strong load or the reads of a WAIT are performed. -/
def execStrongReadAtHome (sid slot : Nat) (s : State) : Res :=
  match s.entry sid slot with
  | some e => .next (if e.raw.op = 0x9D#8 then s.waitEntry sid slot e
      else if e.raw.op = 0x90#8 then s.memEntry sid slot e else s)
  | none => .next s

/-! ## Cohort barriers -/

def barExpect (x : Nat) : Nat := bits x 4 0
def barArrived (x : Nat) : Nat := bits x 12 8
def barPhase (x : Nat) : Bool := bit x 16
def barPending (x : Nat) : Nat := bits x 103 64
def barSetPending (x v : Nat) : Nat := setBits x 103 64 v

/-- The status that BAR.WAIT returns: 5 when the last completed phase was abandoned (R171). -/
def barStatus (x : Nat) : Nat := if bit x 18 then 5 else 0

/-- The completion of a phase (R171). -/
def barComplete (x : Nat) : Nat × Bool :=
  if barArrived x = barExpect x ∧ barPending x = 0 then
    (setBits (setBits (setBits (setBits x 18 18 (bits x 17 17)) 17 17 0) 12 8 0) 16 16 (b2n !(barPhase x)), true)
  else (x, false)

/-- The strand's wait at a barrier ends. -/
def Strand.leaveBar (st : Strand) (off dst status : Nat) : Strand :=
  let st := (st.setS dst status).markFull (keyS dst)
  { st with waiting := .nothing, barRec := match st.barRec with
      | some (o, p) => if o = off then none else some (o, p)
      | none => none }

/-- Write a barrier at its bank, complete its phase where it now can, and let the waiting strands go on; sid is the strand
whose step or command it is. -/
def State.barWrite (s : State) (sid cid off x : Nat) : State :=
  let (x, done) := barComplete x
  let s := s.spadWrite cid off (leBytes 16 x)
  let s := if done then s.negativeBank sid s.seq 8 off x else s
  forEach s.allStrands s (fun s p =>
    match p.2.waiting with
    | .bar o ph d =>
      if p.2.cid = cid ∧ o = off ∧ ph ≠ barPhase x then (s.modStrand p.1 (fun st => st.leaveBar off d (barStatus x))).wakeTrap p.1 else s
    | _ => s)

/-- An access of memory, or a deferred entry, stands in the log: fences and arrivals wait for it (R173, R188), and for no counter
instruction (R272). -/
def Strand.accessing (st : Strand) : Bool := st.log.any (fun p => p.2.accesses || p.2.state == 2)

/-- What an arrival finds: it must wait, it faults, or it goes on with the barrier's words. -/
def State.arriveAt (s : State) (sid off : Nat) : Option (Option Nat) :=
  let st := s.strand sid
  let x := s.spadNum st.cid off 16
  if st.accessing || s.negBlocks sid then none
  else if barExpect x = 0 then some none
  else if barArrived x = barExpect x then none
  else some (some x)

/-- Count the strand in: ARRIVED goes up, and the strand records the phase. -/
def State.countIn (s : State) (sid off x : Nat) : State :=
  let cid := (s.strand sid).cid
  let s := s.modStrand sid (fun st => { st with barRec := some (off, barPhase x) })
  s.barWrite sid cid off (setBits x 12 8 (barArrived x + 1))

/-- Wait at a barrier until its phase differs from the recorded one. -/
def State.waitBar (s : State) (sid : Nat) (r : Raw) (off : Nat) : State :=
  let st := s.strand sid
  let x := s.spadNum st.cid off 16
  let d := r.d.toNat
  let ph := match st.barRec with
    | some (o, p) => if o = off then p else barPhase x
    | none => barPhase x
  if ph ≠ barPhase x then s.setStrand sid ((st.leaveBar off d (barStatus x)).next r.bytes)
  else s.setStrand sid { (st.markEmpty (keyS d)).next r.bytes with waiting := .bar off ph d, waitSince := s.time }

/-- A BAR instruction: its precise checks (R156), then what it does at the offset. -/
def State.runBar (s : State) (r : Raw) (f : Nat → State → Nat → State) : Res :=
  s.issue r (fun sid s =>
    let st := s.strand sid
    let off := st.offset r st.lowest
    match s.spadCheck st.cid off 16 16 with
    | some c => s.fault sid r c (wrapN 56 off)
    | none => f sid s off.toNat)

/-- BAR.ARRIVE: it waits until the strand's earlier accesses are done (R188), and while the phase is full. -/
def execBarArrive (o : MOps) (s : State) : Res :=
  let r := rawM 0x9E o
  s.runBar r (fun sid s off =>
    match s.arriveAt sid off with
    | none => s
    | some none => s.fault sid r clsProt off
    | some (some x) => (s.countIn sid off x).done sid r)

/-- BAR.WAIT. -/
def execBarWait (o : MOps) (s : State) : Res :=
  let r := rawM 0x9E o
  s.runBar r (fun sid s off => s.waitBar sid r off)

/-- BAR.SYNC: ARRIVE, then WAIT. -/
def execBarSync (o : MOps) (s : State) : Res :=
  let r := rawM 0x9E o
  s.runBar r (fun sid s off =>
    match s.arriveAt sid off with
    | none => s.again sid r.d.toNat
    | some none => s.fault sid r clsProt off
    | some (some x) => (s.countIn sid off x).waitBar sid r off)

/-- BAR.EXPECT: bytes still expected from engines. -/
def execBarExpect (o : MOps) (s : State) : Res :=
  let r := rawM 0x9E o
  s.runBar r (fun sid s off =>
    let st := s.strand sid
    let x := s.spadNum st.cid off 16
    let p := barPending x + st.s r.d.toNat % 2 ^ 40
    if barExpect x = 0 ∨ 2 ^ 40 ≤ p then s.fault sid r clsProt off
    else (s.barWrite sid st.cid off (barSetPending x p)).done sid r)

/-! ## Fences -/

/-- A strong load, atomic or WAIT of the log, which FENCE.ACQ waits for (R173), or a load that stands held until it is
re-issued (R188). -/
def LogEnt.isRead (e : LogEnt) : Bool :=
  let op := e.raw.op.toNat
  ((op == 0x90 || op == 0x92) && (e.raw.kind == 1 || 2 ≤ e.state || e.progress == 1)) || op == 0x99 || op == 0x9A || op == 0x9D

/-- An acquiring fence at cohort scope: the core's copies of the lines that its strands' strong reads have read since the last
acquiring fence answer no read again before they are renewed (R173, R182); its logical time stands (R413). -/
def State.expireRead (s : State) (core : Nat) : State :=
  s.modCore core (fun x => { x with acqLines := [], copies := x.copies.map (fun c =>
    if c.hostMem || !x.acqLines.contains c.pline then c else { c with epoch := noEpoch }) })

/-- A FENCE: rel and acq say what it does; scope 0 is the cohort (R173, R180, R413). -/
def State.runFence (s : State) (r : Raw) (rel acq : Bool) : Res :=
  s.issue r (fun sid s =>
    let st := s.strand sid
    let wide := r.scopeM ≠ 0
    if (rel ∧ st.accessing) ∨ (acq ∧ st.log.any (fun p => p.2.isRead)) then s
    else
      let (ok, s) := if rel ∧ wide then s.performCore st.core [sid] else (true, s)
      if !ok then s
      else
        let s := if !acq then s
          else if wide then s.modCore st.core (fun c => { c with lt := max c.lt c.acqts, acqts := 0, acqLines := [] })
          else s.expireRead st.core
        s.done sid r)

def execFenceAcq (o : MOps) (s : State) : Res := s.runFence (rawM 0x9F o) false true
def execFenceRel (o : MOps) (s : State) : Res := s.runFence (rawM 0x9F o) true false
def execFenceAr (o : MOps) (s : State) : Res := s.runFence (rawM 0x9F o) true true

/-! ## Guard objects -/

def guardShared (x : Nat) : Nat := bits x 15 0
def guardExcl (x : Nat) : Bool := bit x 16
def guardBound (x : Nat) : Bool := bit x 17
def guardHeld (x : Nat) : Bool := guardExcl x || guardShared x != 0

/-- What the home of a guard answers: wait, a precise fault, a fault of the access, or the guard's physical address. -/
inductive GuardR where
  | wait
  | precise (cls : Nat)
  | held (cls : Nat)
  | at (pa : Nat)
  deriving DecidableEq, Repr

/-- Reach a guard at its home; a poisoned guard is a precise fault (R422). -/
def State.reachGuard (s : State) (sid va : Nat) : GuardR × State :=
  match s.atomicAt (s.who sid) va 64 needRW with
  | (.ok pa, s) => (.at pa, s)
  | (.wait, s) => (.wait, s)
  | (.fault c, s) =>
    if c = clsUncorr then (.precise c, s.errorRecord (some (s.strand sid).rid) clsUncorr va) else (.held c, s)
  | (.remote _, s) => (.held clsProt, s)

/-- GBIND of a strand with its six values at a guard: its status (R175). -/
def State.bindGuard (s : State) (sid pa : Nat) (vals : List Nat) : Nat × State :=
  let v (i : Nat) : Nat := listAt 0 vals i % 2 ^ 56
  let x := s.numAt pa 64
  if (nats 3).any (fun i => 2 ^ 56 < v (2 * i) + v (2 * i + 1)) then (7, s)
  else if guardHeld x then (6, s)
  else
    let bound := v 1 != 0 || v 3 != 0 || v 5 != 0
    let x := forEach (nats 6) (setBits x 17 17 (b2n bound)) (fun x i => setBits x (183 + 64 * i) (128 + 64 * i) (v i))
    let s := { s with homes := { s.homes with guards :=
      if bound then pa :: s.homes.guards.filter (· != pa) else s.homes.guards.filter (· != pa) } }
    (0, s.homeWrite (cellsOf pa (leBytes 64 x)) (some (s.strand sid).core))

/-- The six values of GBIND. -/
def Strand.bindVals (st : Strand) (r : Raw) : List Nat := (nats 6).map (fun i => st.s (r.d.toNat + i))

/-- An instruction on a guard that issues: its alignment, then what its home answers; f acts at the guard. -/
def State.runGuard (s : State) (r : Raw) (block : Bool) (f : Nat → State → Nat → State) : Res :=
  s.issue r (fun sid s =>
    let st := s.strand sid
    let va := st.ea r st.lowest
    if va % 64 ≠ 0 then s.fault sid r clsAlign va
    else if s.negBlocks sid ∧ r.op ≠ 0xA2#8 then s
    else if s.behind sid s.seq (newAcc 0 va 64 0 true) then s.again sid r.d.toNat
    else match s.reachGuard sid va with
      | (.wait, s) => s.again sid r.d.toNat
      | (.precise c, s) => s.fault sid r c va
      | (.held c, s) =>
        let vals := if r.op = 0xA2#8 then st.bindVals r else []
        let (slot, s) := s.oneEntry sid r 64 block
        (match s.entry sid slot with
          | some e =>
            let regs : KV DWord := if block then loopRegs 1000 st.loops
              else ((nats vals.length).zip vals).map (fun (p : Nat × Nat) => (p.1, BitVec.ofNat 64 p.2))
            s.holdEntry sid slot { e with sregs := regs } c
          | none => s)
      | (.at pa, s) => f sid s pa)

/-- GBIND (R175). -/
def execGbind (o : MOps) (s : State) : Res :=
  let r := rawM 0xA2 o
  s.runGuard r false (fun sid s pa =>
    let st := s.strand sid
    let (k, s) := s.bindGuard sid pa (st.bindVals r)
    s.modStrand sid (fun st => (st.setS r.d.toNat k).next r.bytes))

/-- ACQ at the guard's home: a status at once, or a request in the guard's queue (R176). -/
def State.requestGuard (s : State) (sid va pa dst : Nat) (excl : Bool) : Option Nat × State :=
  if (s.strand sid).guards.contains pa then (some 7, s)
  else if !guardBound (s.numAt pa 64) then (some 6, s)
  else
    let q := kvGet [] s.homes.guardQ pa
    let s := { s with homes := { s.homes with guardQ := kvSet [] s.homes.guardQ pa (q ++ [(sid, dst, excl)]) } }
    let s := s.modStrand sid (fun st =>
      { st.markEmpty (keyS dst) with waiting := .acq pa va dst, waitSince := s.time })
    (none, s.push (.guardGrant pa))

/-- ACQ (R176). -/
def State.runAcq (s : State) (r : Raw) (excl : Bool) : Res :=
  s.runGuard r true (fun sid s pa =>
    let st := s.strand sid
    match s.requestGuard sid (st.ea r st.lowest) pa r.d.toNat excl with
    | (some k, s) => s.modStrand sid (fun st => (st.setS r.d.toNat k).next r.bytes)
    | (none, s) => s.done sid r)

def execAcqX (o : MOps) (s : State) : Res := s.runAcq (rawM 0xA0 o) true
def execAcqSh (o : MOps) (s : State) : Res := s.runAcq (rawM 0xA0 o) false

/-- The first request of a guard's queue can be granted. -/
def State.guardReady (s : State) (pa : Nat) : Bool :=
  let x := s.numAt pa 64
  match kvGet [] s.homes.guardQ pa with
  | [] => false
  | (_, _, excl) :: _ => if excl then !guardHeld x else !guardExcl x

/-- The strand is granted a guard, or is told that SHARED is at its limit. The token in HOLDER is a free value (log 12). -/
def State.grantGuard (s : State) (pa sid dst : Nat) (excl : Bool) : State :=
  let x := s.numAt pa 64
  let full := !excl && guardShared x == 65535
  let (tok, s) := if excl then s.freeVal else (0, s)
  let core := (s.strand sid).core
  let s := if full then s else
    s.homeWrite (cellsOf pa (leBytes 64 (if excl then setBits (setBits x 16 16 1) 63 32 tok else setBits x 15 0 (guardShared x + 1)))) (some core)
  let va := match (s.strand sid).waiting with
    | .acq _ va _ => va
    | _ => 0
  let s := if !full && bits x 97 96 == s.pkg.epoch then s.modCore core (fun c => { c with lt := max c.lt (bits x 95 64) }) else s
  let s := s.modStrand sid (fun st =>
    { (st.setS dst (if full then 4 else 0)).markFull (keyS dst) with
        waiting := .nothing, guards := if full then st.guards else st.guards ++ [pa] })
  let s := if full then s else s.negativeAt sid s.seq 1 va pa 0
  if (s.strand sid).life = .swapped then s.push (.strandRestore sid) else s.wakeTrap sid

/-- GUARD_GRANT: the guard's first request is granted once nothing stands before it and the negative has room for it (R461). -/
def execGuardGrant (pa : Nat) (s : State) : Res :=
  let q := kvGet [] s.homes.guardQ pa
  match q with
  | [] => .next s
  | (sid, dst, excl) :: t =>
    let core := some (s.strand sid).core
    if !s.guardReady pa || s.negBlocks sid then .next s
    else if s.writeBlocked (pa / 128) none core true false then .next (s.noteBlocked (pa / 128) core)
    else
      let s := { s with homes := { s.homes with guardQ := kvSet [] s.homes.guardQ pa t } }
      let s := s.grantGuard pa sid dst excl
      .next (if s.guardReady pa then s.push (.guardGrant pa) else s)

/-- Earlier writes of the strand to the guard's ranges stand in its log: by their addresses, or through an alias (R382). -/
def State.rangesHeld (s : State) (sid seq x : Nat) : Bool :=
  let w := s.who sid
  let places := s.rangePlaces w x
  (s.strand sid).log.any (fun p => p.2.seq < seq && p.2.accs.any (fun a => a.pendingAcc && a.write && decide (a.va < spadVa)
    && ((guardRanges x).any (fun r => overlaps r.1 r.2 a.lo a.size) || (match places with
      | none => true
      | some l => (s.physOf w a).1.any (fun q => l.any (fun p => overlaps p.1 p.2 q.1 q.2))))))

/-- REL at a guard: its status, or none while it must wait; seq is its place in program order. -/
def State.releaseGuard (s : State) (sid seq va pa : Nat) : Option Nat × State :=
  let st := s.strand sid
  if !st.guards.contains pa then (some 7, s)
  else
    let x := s.numAt pa 64
    if s.rangesHeld sid seq x then (none, s)
    else
      let (ok, s) := s.performRanges sid x
      if !ok || !s.goClear st.core then (none, s)
      else if s.writeBlocked (pa / 128) none (some st.core) true false then (none, s.noteBlocked (pa / 128) (some st.core))
      else (some 0, (s.dropGuard sid pa true).negativeAt sid seq 2 va pa 0)

/-- REL (R176). -/
def execRel (o : MOps) (s : State) : Res :=
  let r := rawM 0xA1 o
  s.runGuard r false (fun sid s pa =>
    let st := s.strand sid
    match s.releaseGuard sid s.seq (st.ea r st.lowest) pa with
    | (none, s) => s.again sid r.d.toNat
    | (some k, s) => s.modStrand sid (fun st => (st.setS r.d.toNat k).next r.bytes))

/-- A guard instruction that is re-issued from the log. -/
def State.guardEntry (s : State) (sid slot : Nat) (e : LogEnt) : State :=
  let va := (e.accs.map Acc.va).headD 0
  let d := e.raw.d.toNat
  if !e.accs.all (fun a => a.status == 0) || s.behind sid e.seq (newAcc 0 va 64 0 true) then s
  else match s.reachGuard sid va with
    | (.wait, s) => s
    | (.precise c, s) =>
      -- an ACQ, behind which nothing has issued, counts as not issued (R197); another is held (log 52)
      if (s.strand sid).waiting = .entry slot then (s.unissue sid slot e [keyS d]).fault sid e.raw c va else s.holdEntry sid slot e c
    | (.held c, s) => s.holdEntry sid slot e c
    | (.at pa, s) =>
      if e.raw.op = 0xA2#8 then
        let (k, s) := s.bindGuard sid pa (e.sregs.map (fun p => p.2.toNat))
        s.giveStatus sid slot d k
      else if e.raw.op = 0xA1#8 then
        (match s.releaseGuard sid e.seq va pa with
          | (none, s) => s
          | (some k, s) => s.giveStatus sid slot d k)
      else match s.requestGuard sid va pa d (e.raw.f == 0#3) with
        | (some k, s) => s.giveStatus sid slot d k
        | (none, s) => s.freeEntry sid slot

/-- Run an entry of this file's instructions. -/
def State.syncEntry (s : State) (sid slot : Nat) (e : LogEnt) : State :=
  match e.raw.op.toNat with
  | 0x9B => s.leaseEntry sid slot e
  | 0x9C => s.unleaseEntry sid slot e
  | 0x9D => s.waitEntry sid slot e
  | 0xA0 | 0xA1 | 0xA2 => s.guardEntry sid slot e
  | _ => s.memEntry sid slot e

end Sys2Proof.Machine
end

