-- ==== Sys2Proof/Machine/Walk.lean ====
section
/-! DEFINITION. The walkers (R210 to R222): level descriptors and their checks, fibre bounds, coordinates, landings, seeks,
and the cursor operations of R235 to R241 that only read. -/

namespace Sys2Proof.Machine

/-- Why a walk stops: an access must wait, behind an access that is held or not; its block is still to come from a counter (R224); an
access met a fault, which a function may repair; a check failed (R217). -/
inductive WErr where
  | wait
  | behind
  | counter (pa : Nat)
  | access (cls addr : Nat) (write : Bool)
  | check (cls addr : Nat)
  deriving DecidableEq, Repr

/-- A walk: it reads memory and answers a value or why it stops. -/
abbrev Wk (α : Type) := ExceptT WErr (StateM State) α

/-- Who walks: the maker of the accesses, the place in program order, the level table. -/
structure Walker where
  who : Who
  seq : Nat
  ltbase : Nat
  ltlen : Nat
  deriving DecidableEq, Repr

/-- A protection fault of the walker's own, at an address. -/
def wkCheck {α : Type} (addr : Nat) : Wk α := throw (.check clsProt (addr % 2 ^ 56))

/-- The parts of a range of bytes that lie each in one 64-byte line of the metadata cache. -/
def halves (va n : Nat) : List (Nat × Nat) :=
  (natsFrom (va / 64) ((va + n - 1) / 64 + 1 - va / 64)).map (fun h =>
    let a := max va (h * 64)
    (a, min (va + n) (h * 64 + 64) - a))

/-- The half of the metadata cache that holds an address. -/
def metaCache (va : Nat) : Nat := if va % 128 < 64 then 5 else 7

/-- One metadata read of n bytes (R221): it waits behind the strand's accesses of the same bytes, and behind its stores to the
lines that are not yet performed. -/
def wkRead (w : Walker) (va n : Nat) : Wk Nat := do
  let s ← get
  let va := va % 2 ^ 56
  let a := newAcc 0 va n 0 false
  let late := match w.who.sid with
    | some i => s.behindHeld i w.seq a || (linesOf va n).any (fun l => s.lineDeferred i w.seq (128 * l))
    | none => false
  let behind := match w.who.sid with
    | some i => s.behind i w.seq a || (linesOf va n).any (fun l => s.lineStored i w.seq (128 * l))
    | none => false
  if late then throw .behind
  else if behind then throw .wait
  else
    let (r, s') := readPieces (fun s a k => s.weakRead w.who (metaCache a) a k 0) (halves va n) s 0 0
    set s'
    match r with
    | .ok x => pure x
    | .wait => throw .wait
    | .fault c => throw (.access c (va % 2 ^ 56) false)
    | .remote _ => throw (.check clsProt (va % 2 ^ 56))

/-! ## Descriptors (R210, R211, R217) -/

/-- A level descriptor with the address where it stands. -/
structure Level where
  at_ : Nat
  x : Nat
  deriving DecidableEq, Repr

def Level.kind (l : Level) : Nat := bits l.x 2 0
def Level.cw (l : Level) : Nat := 2 * 2 ^ bits l.x 4 3
def Level.pw (l : Level) : Nat := if bit l.x 5 then 8 else 4
def Level.blog (l : Level) : Nat := bits l.x 9 6
def Level.vty (l : Level) : Nat := bits l.x 13 10
def Level.parent (l : Level) : Nat := bits l.x 31 16
def Level.hlog (l : Level) : Nat := bits l.x 37 32
def Level.n (l : Level) : Nat := bits l.x 103 64
def Level.arr0 (l : Level) : Nat := bits l.x 183 128
def Level.arr1 (l : Level) : Nat := bits l.x 247 192
def Level.arr2 (l : Level) : Nat := bits l.x 311 256
def Level.vals (l : Level) : Nat := bits l.x 375 320
def Level.heapc (l : Level) : Nat := bits l.x 503 448

/-- Bytes of a value. -/
def Level.vw (l : Level) : Nat := if l.vty = 2 ∨ l.vty = 3 then 8 else 4

/-- Offset of the values in a block, and the stride of blocks (R216). -/
def Level.valOff (l : Level) : Nat := (16 + 2 ^ l.blog * l.cw + 7) / 8 * 8
def Level.stride (l : Level) : Nat := (l.valOff + 2 ^ l.blog * l.vw + 63) / 64 * 64
/-- The address of block i. -/
def Level.block (l : Level) (i : Nat) : Nat := (l.arr2 + i * l.stride) % 2 ^ 56
/-- The address of head entry p. -/
def Level.head (l : Level) (p : Nat) : Nat := (l.arr0 + 16 * p) % 2 ^ 56

def kDense : Nat := 0
def kCompressed : Nat := 1
def kBitmap : Nat := 2
def kHashed : Nat := 3
def kRun : Nat := 4
def kBlock : Nat := 5

/-- The first word of a descriptor that fails a check of R217, as its offset: of several, FADDR names the lowest-addressed one
(DESIGN CHOICE, log 54). -/
def Level.badWord (l : Level) (ltlen : Nat) : Option Nat :=
  let k := l.kind
  let x := l.x
  let bad0 := 6 ≤ k ∨ bits x 4 3 = 3 ∨ 10 < l.blog ∨ 14 ≤ l.vty ∨ (k = kHashed ∧ (l.hlog < 2 ∨ 32 < l.hlog))
    ∨ (k ≠ kHashed ∧ l.hlog ≠ 0) ∨ bit x 15 ∨ bits x 63 38 ≠ 0 ∨ (k ≠ kBlock ∧ (bit x 14 ∨ l.blog ≠ 0))
    ∨ (l.parent ≠ 0xFFFF ∧ ltlen ≤ l.parent) ∨ (k = kHashed ∧ l.parent ≠ 0xFFFF)
  let bad1 := l.n = 0 ∨ bits x 127 104 ≠ 0
  let bad2 := k = kDense ∧ l.arr0 ≠ 0
  let bad3 := bits x 255 248 ≠ 0 ∨ ((k = kDense ∨ k = kBlock) ∧ l.arr1 ≠ 0)
  let bad4 := bits x 319 312 ≠ 0 ∨ (k ≠ kBlock ∧ l.arr2 ≠ 0)
  let bad5 := bits x 383 376 ≠ 0 ∨ (k = kBlock ∧ l.vals ≠ 0)
  let bad6 := bits x 447 440 ≠ 0
  let bad7 := bits x 511 504 ≠ 0 ∨ (k ≠ kBlock ∧ l.heapc ≠ 0)
  if bad0 then some 0 else if bad1 then some 8 else if bad2 then some 16 else if bad3 then some 24
  else if bad4 then some 32 else if bad5 then some 40 else if bad6 then some 48 else if bad7 then some 56 else none

/-- Read the descriptor of a handle (R210); the handle as the instruction gives it, in 32 bits. -/
def wkLevel (w : Walker) (h : Nat) : Wk Level := do
  let a := (w.ltbase + 64 * h) % 2 ^ 56
  if w.ltlen ≤ h ∨ 0xFFFF ≤ h then wkCheck a
  else
    let x ← wkRead w a 64
    let l : Level := ⟨a, x⟩
    match l.badWord w.ltlen with
    | some o => wkCheck (a + o)
    | none => pure l

/-- Check a level's parent (R217): it may not be a BLOCK level. -/
def wkParent (w : Walker) (l : Level) : Wk Unit := do
  if l.parent = 0xFFFF then pure ()
  else
    let p ← wkLevel w l.parent
    if p.kind = kBlock then wkCheck l.at_ else pure ()

/-! ## Reads by kind (R213, R214, R216) -/

/-- Words of a bitmap. -/
def Level.mapWords (l : Level) : Nat := (l.n + 63) / 64

/-- The index of the k-th set bit (from 0) of a word. -/
def nthBit (n i k x : Nat) : Option Nat :=
  match n with
  | 0 => none
  | n + 1 => if bit x i then (if k = 0 then some i else nthBit n (i + 1) (k - 1) x) else nthBit n (i + 1) k x

/-- The k-th set bit of a map, from its word i on without that word's lowest bits, n words. When it is missing FADDR names the last
word read, which is the model's choice (DESIGN CHOICE, log 49). -/
def wkMap (w : Walker) (base n i skip k : Nat) : Wk Nat := do
  match n with
  | 0 => wkCheck base
  | n + 1 =>
    let a := (base + 8 * i) % 2 ^ 56
    let y ← wkRead w a 8
    let x := y / 2 ^ skip * 2 ^ skip
    match nthBit 64 0 k x with
    | some b => pure (64 * i + b)
    | none => if n = 0 then wkCheck a else wkMap w base n (i + 1) 0 (k - popN 64 x)

/-- A RUN triple as START, BASE, LEN, checked against the BASE that the one before asks for. -/
def wkTriple (w : Walker) (l : Level) (i : Nat) (want : Option Nat) : Wk (Nat × Nat × Nat) := do
  let a := (l.arr0 + 16 * i) % 2 ^ 56
  let x ← wkRead w a 16
  let base := bits x 103 64
  let want := if i = 0 then some 0 else want
  let off : Bool := match want with
    | some b => b != base
    | none => false
  if bits x 127 104 = 0 ∨ off then wkCheck (a + 8)
  else pure (bits x 63 0, base, bits x 127 104)

/-- rp[p] of a RUN level. -/
def wkRp (w : Walker) (l : Level) (p : Nat) : Wk Nat := wkRead w (l.arr1 + p * l.pw) l.pw

/-- The triple that holds position x, searched from triple i on, with its index. When none does FADDR names the last triple
read, or the triple's START word when x is below its BASE: the model's choice (DESIGN CHOICE, log 49). -/
def wkFindRun (w : Walker) (l : Level) (x n i : Nat) (want : Option Nat) (last : Nat) : Wk Place := do
  match n with
  | 0 => wkCheck last
  | n + 1 =>
    let (st, base, len) ← wkTriple w l i want
    let a := (l.arr0 + 16 * i) % 2 ^ 56
    if x < base then wkCheck a
    else if x < base + len then pure (.run i st base len)
    else wkFindRun w l x n (i + 1) (some (base + len)) a

/-- The block of a chain that holds entry x: index i of a block, sum of the CNTs before it, COUNT of the head. When the chain
ends before it FADDR names the last block or head entry read: the model's choice (DESIGN CHOICE, log 49). -/
def wkChain (w : Walker) (l : Level) (x n i sum count last : Nat) : Wk Place := do
  match n with
  | 0 => wkCheck last
  | n + 1 =>
    if i = 2 ^ 64 - 1 then wkCheck last
    else
      let a := l.block i
      let h ← wkRead w a 16
      let cnt := bits h 79 64
      if cnt = 0 ∨ 2 ^ l.blog < cnt ∨ count < sum + cnt then wkCheck (a + 8)
      else if x < sum + cnt then pure (.block i sum cnt (bits h 63 0) count)
      else wkChain w l x n (bits h 63 0) (sum + cnt) count a

/-- The block of entry x of fibre p. -/
def wkEntry (w : Walker) (l : Level) (p x : Nat) : Wk Place := do
  let a := l.head p
  let h ← wkRead w a 16
  wkChain w l x (x + 1) (bits h 63 0) 0 (bits h 103 64) a

/-- Slot x of a HASHED level as FULL, CPOS, KEY. -/
def wkSlot (w : Walker) (l : Level) (x : Nat) : Wk (Bool × Nat × Nat) := do
  let v ← wkRead w (l.arr0 + 16 * x) 16
  pure (bit v 127, bits v 103 64, bits v 63 0)

/-! ## Bounds, coordinates, landings -/

/-- End of a run bound: BASE + LEN of triple q - 1, 0 for q = 0. -/
def wkRunEnd (w : Walker) (l : Level) (q : Nat) (want : Option Nat) : Wk Nat := do
  if q = 0 then pure 0
  else
    let (_, base, len) ← wkTriple w l (q - 1) want
    pure (base + len)

/-- The bounds of fibre p (R213) and where its first position lies in the arrays, p whole even where FTAG keeps 40 bits of it. Of
bounds that fail the check FADDR names the word of the upper one. Both are the model's choices (DESIGN CHOICE, log 49). -/
def wkBounds (w : Walker) (l : Level) (p : Nat) : Wk (Nat × Nat × Place) := do
  let max40 := 2 ^ 40 - 1
  let checked (lo hi addr : Nat) (at_ : Place) : Wk (Nat × Nat × Place) :=
    if hi < lo ∨ max40 < hi then wkCheck addr else pure (lo, hi, at_)
  if l.kind = kDense then checked (p * l.n) (p * l.n + l.n) (l.at_ + 8) .none
  else if l.kind = kCompressed ∨ l.kind = kBitmap then
    let arr := if l.kind = kCompressed then l.arr0 else l.arr1
    let lo ← wkRead w (arr + p * l.pw) l.pw
    let hi ← wkRead w (arr + (p + 1) * l.pw) l.pw
    checked lo hi (arr + (p + 1) * l.pw) (if l.kind = kBitmap then .start 0 lo 0 else .none)
  else if l.kind = kHashed then pure (0, 2 ^ l.hlog, .none)
  else if l.kind = kRun then
    let a ← wkRp w l p
    let b ← wkRp w l (p + 1)
    let lo ← wkRunEnd w l a none
    let hi ← wkRunEnd w l b (if b = a + 1 then some lo else none)
    checked lo hi (l.arr1 + (p + 1) * l.pw) (.start a lo 0)
  else
    let h ← wkRead w (l.head p) 16
    checked 0 (bits h 103 64) (l.head p + 8) (.start (bits h 63 0) 0 (bits h 103 64))

/-- Where position x of fibre p lies in the tables of a BITMAP, RUN or BLOCK level, looked up from the start of the fibre (R213,
R216). A BITMAP position below pfx[p], which a racing writer has moved, is the protection fault at pfx[p]: the model's choice
(DESIGN CHOICE, log 49). -/
def wkLocate (w : Walker) (l : Level) (p x : Nat) : Wk Place := do
  if l.kind = kBitmap then
    let lo ← wkRead w (l.arr1 + p * l.pw) l.pw
    if x < lo then wkCheck (l.arr1 + p * l.pw)
    else
      let b ← wkMap w (l.arr0 + 8 * p * l.mapWords) l.mapWords 0 0 (x - lo)
      pure (.bit b x)
  else if l.kind = kRun then
    let q ← wkRp w l p
    wkFindRun w l x (x + 1) q none (l.arr1 + p * l.pw)
  else if l.kind = kBlock then wkEntry w l p x
  else pure .none

/-- The address of a coordinate of a block's slot, and of its value. -/
def Level.crdAt (l : Level) (i k : Nat) : Nat := l.block i + 16 + k * l.cw
def Level.valAt (l : Level) (i k : Nat) : Nat := l.block i + l.valOff + k * l.vw

/-- The coordinate of position x, which lies at a place (R213). -/
def wkAt (w : Walker) (l : Level) (x : Nat) (at_ : Place) : Wk Nat := do
  match at_ with
  | .bit b _ => pure b
  | .run _ st base _ => pure ((st + (x - base)) % 2 ^ 64)
  | .block i first _ _ _ => wkRead w (l.crdAt i (x - first)) l.cw
  | .start _ _ _ | .none =>
    if l.kind = kDense then pure (x % l.n)
    else if l.kind = kCompressed then wkRead w (l.arr1 + x * l.cw) l.cw
    else
      let (_, _, key) ← wkSlot w l x
      pure key

/-- The coordinate of position x of fibre p (R229). -/
def wkCoord (w : Walker) (l : Level) (p x : Nat) : Wk Nat := do
  let at_ ← wkLocate w l p x
  wkAt w l x at_

/-! ## One step (R219) -/

/-- Step from position x of fibre p to x + 1, from the place that the cursor last stood at, or from where its fibre starts: only what R219
lists is read. -/
def wkStep (w : Walker) (l : Level) (p x : Nat) (at_ : Place) : Wk Place := do
  let map := l.arr0 + 8 * p * l.mapWords
  let chain (i first count : Nat) : Wk Place := do
    let at_ ← wkChain w l (x + 1) (x + 2) i first count (l.head p)
    let _ ← wkAt w l (x + 1) at_
    pure at_
  match l.kind, at_ with
  | 2, .start _ y _ =>
    let b ← wkMap w map l.mapWords 0 0 (x + 1 - y)
    pure (.bit b (x + 1))
  | 2, .bit b y =>
    let i := b / 64
    -- past the last bit of a word, the next bit lies in a later word
    let b ← if b % 64 = 63 then wkMap w map (l.mapWords - i - 1) (i + 1) 0 (x - y) else wkMap w map (l.mapWords - i) i (b % 64 + 1) (x - y)
    pure (.bit b (x + 1))
  | 4, .start i y _ => wkFindRun w l (x + 1) (x + 2) i (some y) (l.arr1 + p * l.pw)
  | 4, .run i st base len =>
    if x + 1 < base + len then pure (.run i st base len)
    else wkFindRun w l (x + 1) (x + 2) (i + 1) (some (base + len)) ((l.arr0 + 16 * i) % 2 ^ 56)
  | 5, .start i y count => chain i y count
  | 5, .block i first cnt next count =>
    if x + 1 < first + cnt then pure (.block i first cnt next count)
    else if next = 2 ^ 64 - 1 then wkCheck (l.block i)
    else chain next (first + cnt) count
  | _, _ =>
    if l.kind = kCompressed then
      let _ ← wkRead w (l.arr1 + (x + 1) * l.cw) l.cw
      pure .none
    else wkLocate w l p (x + 1)

/-- The first FULL slot from x on below hi, n slots at most; hi when there is none. -/
def wkFull (w : Walker) (l : Level) (n x hi : Nat) : Wk Nat := do
  match n with
  | 0 => pure hi
  | n + 1 =>
    if hi ≤ x then pure hi
    else
      let (full, _, _) ← wkSlot w l x
      if full then pure x else wkFull w l n (x + 1) hi

/-- The landing of a position (R228). -/
def wkLand (w : Walker) (l : Level) (x hi : Nat) : Wk Nat :=
  if l.kind = kHashed then wkFull w l (hi - x) x hi else pure x

/-! ## Seeks (R229) -/

/-- The home slot of a coordinate (R215). -/
def hashSlot (hlog c : Nat) : Nat := c * 0x9E3779B97F4A7C15 % 2 ^ 64 / 2 ^ (64 - hlog)

/-- The least position of [x, hi) whose stored coordinate is at least t, one position after another, x at a place; with the
place of the position found. -/
def wkScan (w : Walker) (l : Level) (p t n x hi : Nat) (at_ : Place) : Wk (Nat × Place) := do
  match n with
  | 0 => pure (hi, .none)
  | n + 1 =>
    let c ← wkAt w l x at_
    if t ≤ c then pure (x, at_)
    else if hi ≤ x + 1 then pure (hi, .none)
    else
      let at_ ← wkStep w l p x at_
      wkScan w l p t n (x + 1) hi at_

/-- The same along runs: from triple i on. -/
def wkScanRun (w : Walker) (l : Level) (t n i x hi : Nat) (want : Option Nat) (last : Nat) : Wk (Nat × Place) := do
  match n with
  | 0 => wkCheck last
  | n + 1 =>
    let (st, base, len) ← wkTriple w l i want
    let a := (l.arr0 + 16 * i) % 2 ^ 56
    let y := max x (base + (t - st))
    if x < base then wkCheck a
    else if base + len ≤ x then wkScanRun w l t n (i + 1) x hi (some (base + len)) a
    else if y < base + len then pure (min y hi, if y < hi then .run i st base len else .none)
    else if hi ≤ base + len then pure (hi, .none)
    else wkScanRun w l t n (i + 1) (base + len) hi (some (base + len)) a

/-- The lookup of R215: the slot that holds c, hi on a miss. It reads the slots of the whole lookup, those at or above BOUNDHI of a
split cursor too (DESIGN CHOICE, log 54: R218 against R215 and R229). -/
def wkProbe (w : Walker) (l : Level) (c n x hi : Nat) : Wk Nat := do
  match n with
  | 0 => pure hi
  | n + 1 =>
    let (full, _, key) ← wkSlot w l x
    if !full then pure hi
    else if key = c then pure x
    else wkProbe w l c n ((x + 1) % 2 ^ l.hlog) hi

/-- seek(t) from a position, with the place of the position found. -/
def wkSeek (w : Walker) (l : Level) (p t x hi : Nat) : Wk (Nat × Place) := do
  if l.kind = kDense then
    let c := x % l.n
    pure (if l.n ≤ t then hi else min hi (x + (t - c)), .none)
  else if l.kind = kHashed then
    let y ← wkProbe w l t (2 ^ l.hlog) (hashSlot l.hlog t) hi
    pure (min y hi, .none)
  else if hi ≤ x then pure (hi, .none)
  else if l.kind = kRun then
    let q ← wkRp w l p
    wkScanRun w l t (hi + 1) q x hi none (l.arr1 + p * l.pw)
  else
    let at_ ← wkLocate w l p x
    wkScan w l p t (hi - x) x hi at_

/-! ## Cursors -/

/-- A cursor that stands at a position up to its bound (R26), at a place. -/
def Cursor.standAt (c : Cursor) (x : Nat) (at_ : Place) : Cursor :=
  { c with pos := BitVec.ofNat 40 x, done := x == c.boundhi.toNat, place := at_ }

/-- The level as a cursor latched it: its steps read the arrays that it names and no descriptor (R219; DEDUCED, log 49). -/
def Cursor.latched (w : Walker) (c : Cursor) : Level := ⟨(w.ltbase + 64 * c.handle.toNat) % 2 ^ 56, c.lev⟩

/-- A fresh cursor of a level on fibre p. FTAG keeps the low 40 bits of p (log 49). -/
def freshCursor (l : Level) (h lo hi p : Nat) : Cursor :=
  { boundhi := BitVec.ofNat 40 hi, pos := BitVec.ofNat 40 lo, valid := true, append := false, done := lo == hi,
    kind := BitVec.ofNat 3 l.kind, handle := BitVec.ofNat 16 h, ftag := BitVec.ofNat 40 p, ttag := 0, heapPa := 0,
    lev := l.x, place := .none }

/-- Open an append cursor on fibre p (R243). -/
def wkAppend (w : Walker) (l : Level) (h p : Nat) : Wk Cursor := do
  if l.kind = kHashed then
    if p ≠ 0 then wkCheck l.at_
    else pure { freshCursor l h 0 (2 ^ l.hlog) 0 with append := true, done := false }
  else if l.kind ≠ kBlock then wkCheck l.at_
  else
    let e ← wkRead w (l.head p) 16
    if bits e 63 0 ≠ 2 ^ 64 - 1 ∨ bits e 103 64 ≠ 0 ∨ bit e 104 then wkCheck (l.head p)
    else
      let s ← get
      let (r, s) := s.access w.who l.heapc needRW 0
      set s
      match r with
      | .wait => throw .wait
      | .fault c => throw (.access c l.heapc false)
      | .hit pa _ =>
        pure { freshCursor l h 0 (2 ^ 40 - 1) p with append := true, ttag := BitVec.allOnes 64, heapPa := pa }

/-- Open fibre p of a level (R235). -/
def wkOpen (w : Walker) (l : Level) (h p : Nat) (app : Bool) : Wk Cursor := do
  if app then wkAppend w l h p
  else if l.parent = 0xFFFF ∧ p ≠ 0 then pure (freshCursor l h 0 0 p)
  else
    let (lo, hi, at_) ← wkBounds w l p
    let x ← wkLand w l lo hi
    pure { freshCursor l h x hi p with place := at_ }

/-- KOPEN (R235): the handle in 32 bits and the parent position. -/
def wkKopen (w : Walker) (h p : Nat) (app : Bool) : Wk Cursor := do
  let l ← wkLevel w h
  wkParent w l
  wkOpen w l h p app

/-- KDESC below a cursor (R236). -/
def wkKdesc (w : Walker) (a : Cursor) (h : Nat) (app : Bool) : Wk Cursor := do
  let l ← wkLevel w h
  if l.parent ≠ a.handle.toNat then wkCheck l.at_
  else
    let par ← wkLevel w l.parent
    if par.kind = kBlock then wkCheck l.at_
    else if a.done then pure (freshCursor l h 0 0 0)
    else
      let x := a.pos.toNat
      let p ← (if par.kind = kHashed then do
          let (_, cpos, _) ← wkSlot w par x
          pure cpos
        else pure x)
      wkOpen w l h p app

/-- The level a cursor stands on. -/
def wkOf (w : Walker) (c : Cursor) : Wk Level := wkLevel w c.handle.toNat

/-- The same for a coordinate or a seek, which on a DENSE level reads no metadata (R229). -/
def wkSeen (w : Walker) (c : Cursor) : Wk Level := if c.kind.toNat = kDense then pure (c.latched w) else wkOf w c

/-- KNEXT (R237). -/
def wkNext (w : Walker) (c : Cursor) : Wk Cursor := do
  if c.done then pure c
  else
    let x := c.pos.toNat
    let l := c.latched w
    let k := c.kind.toNat
    if k = kHashed then
      let y ← wkLand w l (x + 1) c.boundhi.toNat
      pure (c.standAt y .none)
    else if k = kDense ∨ c.boundhi.toNat ≤ x + 1 then pure (c.standAt (x + 1) .none)
    else
      let at_ ← wkStep w l c.ftag.toNat x c.place
      pure (c.standAt (x + 1) at_)

/-- Move a cursor to seek(t) (R237). -/
def wkMove (w : Walker) (c : Cursor) (t : Nat) : Wk Cursor := do
  if c.done ∧ c.kind.toNat ≠ kHashed then pure c
  else
    let l ← wkSeen w c
    let (y, at_) ← wkSeek w l c.ftag.toNat t c.pos.toNat c.boundhi.toNat
    pure { c.standAt y at_ with lev := l.x }

/-- The coordinate under a cursor; none when it is done. -/
def wkHere (w : Walker) (c : Cursor) : Wk (Option Nat) := do
  if c.done then pure none
  else
    let l ← wkSeen w c
    let x ← wkCoord w l c.ftag.toNat c.pos.toNat
    pure (some x)

/-- KSETP (R237): setting the position of a BLOCK cursor walks its chain (R219). -/
def wkSetp (w : Walker) (c : Cursor) (x : Nat) : Wk Cursor := do
  let hi := c.boundhi.toNat
  if hi ≤ x then pure (c.standAt hi .none)
  else if x ≤ c.pos.toNat then pure c
  else if c.kind.toNat = kHashed then
    let l ← wkOf w c
    let y ← wkLand w l x hi
    pure { c.standAt y .none with lev := l.x }
  else if c.kind.toNat = kBlock then
    let l ← wkOf w c
    let at_ ← wkLocate w l c.ftag.toNat x
    pure { c.standAt x at_ with lev := l.x }
  else pure (c.standAt x c.place)

/-- KSPLIT (R238): the lower part, and the upper part. -/
def wkSplit (w : Walker) (c : Cursor) : Wk (Cursor × Cursor) := do
  if c.done then pure (c, c)
  else
    let n := c.boundhi.toNat - c.pos.toNat
    let m := c.pos.toNat + (n + 1) / 2
    let y ← (if c.kind.toNat = kHashed then do
        let l ← wkOf w c
        wkLand w l m c.boundhi.toNat
      else pure m)
    pure ({ c with boundhi := BitVec.ofNat 40 m, done := false }, c.standAt y c.place)

/-- KVAL (R241). -/
def wkVal (w : Walker) (c : Cursor) : Wk Nat := do
  if c.done then pure 0
  else
    let l ← wkOf w c
    if l.kind = kBlock then
      let at_ ← wkEntry w l c.ftag.toNat c.pos.toNat
      match at_ with
      | .block i first _ _ _ => wkRead w (l.valAt i (c.pos.toNat - first)) l.vw
      | _ => pure 0
    else if l.vals = 0 then wkCheck (l.at_ + 40)
    else wkRead w (l.vals + c.pos.toNat * l.vw) l.vw

/-- The loop of KCOIT.AND (R240). -/
def wkMeet (w : Walker) (n : Nat) (a b : Cursor) (ca cb : Option Nat) : Wk (Cursor × Cursor × Option Nat) := do
  match n, ca, cb with
  | n + 1, some x, some y =>
    if x = y then pure (a, b, some x)
    else if x < y then
      let a ← wkMove w a y
      let ca ← wkHere w a
      wkMeet w n a b ca cb
    else
      let b ← wkMove w b x
      let cb ← wkHere w b
      wkMeet w n a b ca cb
  | _, _, _ => pure (a.standAt a.boundhi.toNat .none, b.standAt b.boundhi.toNat .none, none)

/-- KCOIT (R240): both cursors, the coordinate, and the predicates of sides a and b. -/
def wkCoit (w : Walker) (a b : Cursor) (or adv : Bool) (old : Nat) : Wk (Cursor × Cursor × Nat × Bool × Bool) := do
  let ca ← wkHere w a
  let cb ← wkHere w b
  let a ← if adv ∧ ca = some old then wkNext w a else pure a
  let b ← if adv ∧ cb = some old then wkNext w b else pure b
  let ca ← if adv then wkHere w a else pure ca
  let cb ← if adv then wkHere w b else pure cb
  if or then
    let mn := match ca, cb with
      | some x, some y => some (min x y)
      | some x, none => some x
      | none, y => y
    pure (a, b, mn.getD (2 ^ 64 - 1), mn.isSome && ca == mn, mn.isSome && cb == mn)
  else
    let n := a.boundhi.toNat - a.pos.toNat + (b.boundhi.toNat - b.pos.toNat) + 4
    let (a, b, c) ← wkMeet w n a b ca cb
    pure (a, b, c.getD (2 ^ 64 - 1), c.isSome, c.isSome)

/-! ## Prefetch (R220) -/

/-- The addresses where a cursor's next steps read: its place along each array that they read. -/
def Cursor.heads (w : Walker) (c : Cursor) : List Nat :=
  let l := c.latched w
  let x := c.pos.toNat
  let map := l.arr0 + 8 * c.ftag.toNat * l.mapWords
  if !c.valid || c.append || c.done then []
  else match c.place with
    | .start i _ _ => if l.kind = kBitmap then [map] else if l.kind = kRun then [l.arr0 + 16 * i] else []
    | .bit b _ => [map + 8 * (b / 64)]
    | .run i _ _ _ => [l.arr0 + 16 * i]
    | .block i first _ _ _ => [l.crdAt i (x - first)]
    | .none =>
      if l.kind = kCompressed then [l.arr1 + x * l.cw]
      else if l.kind = kHashed then [l.arr0 + 16 * x]
      else []

/-- The block of a chain that a BLOCK cursor's steps come to first. -/
def Cursor.chainHead (c : Cursor) : Option Nat :=
  match c.place with
  | .start i _ _ => if c.kind.toNat = kBlock then some i else none
  | .block _ _ _ next _ => some next
  | _ => none

/-- The walker brings the 64-byte line of an address into the metadata cache, when that neither faults nor waits. -/
def State.fetchAhead (s : State) (w : Walker) (va : Nat) : Bool × State :=
  let va := va / 64 * 64 % 2 ^ 56
  match s.ensure w.who (metaCache va) va (byteMask va 64) needR 0 with
  | (.ok _, s') => (true, s')
  | _ => (false, s)

/-- Prefetch along the NEXT chain, n blocks from block i: the header and the coordinates of each. -/
def State.chainAhead (s : State) (w : Walker) (l : Level) (n i : Nat) : State :=
  match n with
  | 0 => s
  | n + 1 =>
    if i = 2 ^ 64 - 1 then s
    else
      let va := l.block i
      match s.fetchAhead w va with
      | (false, s) => s
      | (true, s) =>
        match s.weakRead w.who (metaCache va) va 16 0 with
        | (.ok h, s) => ((s.fetchAhead w (l.crdAt i 0)).2).chainAhead w l n (bits h 63 0)
        | _ => s

/-- A walker fetches the 64-byte line k lines ahead of a cursor's place along one of the arrays that its steps read, k from 0 to
8, and the first k blocks of the chain before a BLOCK cursor: they come into the metadata cache. One that would fault or wait is
dropped. -/
def State.walkAhead (s : State) (sid key k : Nat) : State :=
  let st := s.strand sid
  let r := (s.regionOf st).rcb
  let w : Walker := ⟨s.who sid, s.seq, r.ltbase, r.ltlen⟩
  let c := st.cur key
  if st.life ≠ .resident then s
  else
    let s := forEach (c.heads w) s (fun s a => (s.fetchAhead w (a + min k 8 * 64)).2)
    match c.chainHead with
    | some i => if c.valid && !c.append && !c.done then s.chainAhead w (c.latched w) (min k 8) i else s
    | none => s

end Sys2Proof.Machine
end

