-- ==== Sys2Proof/Machine/Cursor.lean ====
section
/-! DEFINITION. The cursor instructions (R230 to R248): their operands and log entries, walks, appends, closes and merges. -/

namespace Sys2Proof.Machine

/-! ## Operands -/

/-- The number of a cursor register in a thread: k * 64 + t, or 512 + q. -/
def curKey (q : Bool) (n t : Nat) : Nat := if q then 512 + n else n * 64 + t

/-- The full/empty key of a cursor register. -/
def curFull (q : Bool) (n : Nat) : Nat := if q then keyQ n else keyK n

/-- The instruction executes once for the strand. -/
def cursorUni (r : Raw) : Bool := r.uniform r.info

/-- The threads a cursor instruction runs for (R230). -/
def Strand.cursorThreads (st : Strand) (r : Raw) : List Nat := if cursorUni r then [st.lowest] else st.active

/-- A value source in a thread, zero-extended (R234). -/
def Strand.cursorVal (st : Strand) (r : Raw) (n t : Nat) (wide : Bool) : Nat := st.read r (cursorUni r) wide n t

/-- Source B of KOPEN and KDESC: always a uniform register (R230). -/
def Strand.handleOf (st : Strand) (r : Raw) : Nat := if r.bImm then r.imm32 else st.s r.b % 2 ^ 32

/-- D and A name the same cursor register. -/
def sameDA (r : Raw) : Bool := r.d == r.a && r.qd == r.qa

/-- The first value a thread brings: handle, target, position, coordinate, or KCOIT's old D. -/
def Strand.cursorX (st : Strand) (r : Raw) (t : Nat) : Nat :=
  let op := r.op.toNat
  if op = 0xB8 ∨ op = 0xBC then st.handleOf r
  else if op = 0xBD then st.cursorVal r r.d.toNat t (r.pair r.info 0)
  else if r.bImm then r.imm32
  else if op = 0xBA ∨ op = 0xBB ∨ op = 0xC2 ∨ op = 0xC3 then st.cursorVal r r.b t (r.pair r.info 2)
  else 0

/-- The second: KOPEN's parent position, the value of KAPP and KAPM. -/
def Strand.cursorY (st : Strand) (r : Raw) (t : Nat) : Nat :=
  let op := r.op.toNat
  if op = 0xC2 ∨ op = 0xC3 ∨ (op = 0xB8 ∧ bit r.mod 1) then st.cursorVal r r.c t (r.pair r.info 3) else 0

/-- The cursor sources that an instruction reads in a thread: A, which KAPP and KCLOSE name as D, and KCOIT's B. -/
def Strand.cursorSources (st : Strand) (r : Raw) (t : Nat) : List Cursor :=
  let op := r.op.toNat
  if op = 0xB8 then []
  else if op = 0xBD then [st.cur (curKey r.qa r.a.toNat t), st.cur (curKey r.qb r.b t)]
  else [st.cur (curKey r.qa r.a.toNat t)]

/-- A cursor source with VALID = 0 in an active thread (R25). -/
def Strand.invalidSource (st : Strand) (r : Raw) : Bool :=
  st.active.any (fun t => (st.cursorSources r t).any (fun c => !c.valid))

/-- The cursor registers that an instruction writes, as class and number. -/
def cursorDests (r : Raw) : List (Bool × Nat) :=
  let op := r.op.toNat
  if op = 0xBD then [(r.qa, r.a.toNat), (r.qb, r.b)]
  else if op = 0xBE then [(r.qa, r.a.toNat), (r.qd, r.d.toNat)]
  else if r.info.cd = .k then [(r.qd, r.d.toNat)] else []

/-- The value destination, as full/empty keys; d is the effective number of D. -/
def cursorValueKeys (r : Raw) (d : Nat) : List Nat :=
  if r.info.cd = .k then []
  else if cursorUni r then [keyS d]
  else if r.pair r.info 0 then [keyV d, keyV (d + 1)] else [keyV d]

/-- The predicates that an instruction writes: KAPM, KCLOSE and KMOV write none (R234). -/
def cursorPreds (r : Raw) : List Nat :=
  let op := r.op.toNat
  if op = 0xC3 ∨ op = 0xC4 ∨ op = 0xC5 then [] else if op = 0xBD then [r.pd, r.c] else [r.pd]

/-! ## Writing the results -/

/-- Where a log entry keeps the cursors: the first and second result of a thread, and its sources A and B. -/
def slotK1 (t : Nat) : Nat := t
def slotK2 (t : Nat) : Nat := 100 + t
def slotA (t : Nat) : Nat := 200 + t
def slotB (t : Nat) : Nat := 300 + t

/-- Write one thread's predicates; a uniform instruction writes them in every thread that was active (R230). -/
def Strand.putWalkPreds (st : Strand) (r : Raw) (ts : List Nat) (b : Nat) : Strand :=
  forEach ((nats 2).zip (cursorPreds r)) st (fun st p => forEach ts st (fun st t => st.setPBit p.2 t (bit b p.1)))

/-- Write one thread's cursors, value and predicates. -/
def Strand.putThread (st : Strand) (e : LogEnt) (a : Acc) : Strand :=
  let r := e.raw
  let t := a.thread
  let c (i : Nat) : Cursor := kvGet Cursor.zero e.curs i
  let st := forEach ((nats 2).zip (cursorDests r)) st (fun st p =>
    st.setCur (curKey p.2.1 p.2.2 t) (c (if p.1 = 0 then slotK1 t else slotK2 t)))
  let st := if r.info.cd = .k then st
    else if cursorUni r then st.setS e.dnum (if r.pair r.info 0 then a.got else a.got % 2 ^ 32)
    else st.setVal e.dnum t (r.pair r.info 0) a.got
  st.putWalkPreds r (if cursorUni r then threadsOf e.amask else [t]) a.got2

/-- The destinations of an entry are full again. -/
def Strand.fillCursor (st : Strand) (e : LogEnt) : Strand :=
  let st := st.fullAll ((cursorDests e.raw).map (fun p => curFull p.1 p.2) ++ cursorValueKeys e.raw e.dnum)
  { st with emptyPreds := st.emptyPreds.filter (fun n => !(cursorPreds e.raw).contains n) }

/-- Write every thread's results. -/
def Strand.finishCursor (st : Strand) (e : LogEnt) : Strand :=
  (forEach (e.accs.filter (fun a => !a.write || e.raw.op == 0xC3#8)) st (fun st a => st.putThread e a)).fillCursor e

/-! ## One thread's walk -/

/-- What a thread brings to a walk, and what it takes away. -/
structure WalkIn where
  a : Cursor
  b : Cursor
  x : Nat
  y : Nat
  deriving DecidableEq, Repr

structure WalkOut where
  k1 : Cursor
  k2 : Cursor
  x : Nat
  preds : Nat
  deriving DecidableEq, Repr

def allOnes64 : Nat := 2 ^ 64 - 1

/-- An instruction given an append cursor where it expects none (R232). That KCOIT too writes all ones to D is the model's choice
(DESIGN CHOICE, log 54). -/
def walkAppend (r : Raw) (i : WalkIn) : WalkOut :=
  let op := r.op.toNat
  let one := if op = 0xBD ∨ op = 0xBF then allOnes64 else 0
  if op = 0xBD then ⟨if i.a.append then i.a else Cursor.zero, if i.b.append then i.b else Cursor.zero, one, 0⟩
  else if op = 0xBE then ⟨i.a, Cursor.zero, 0, 0⟩
  else ⟨if sameDA r then i.a else Cursor.zero, Cursor.zero, one, if op = 0xB9 then 1 else 0⟩

/-- A moved cursor with its predicate. -/
def moved (c : Cursor) (p : Bool) : WalkOut := ⟨c, Cursor.zero, 0, b2n p⟩

/-- The walk of an instruction in one thread (R235 to R241). -/
def walkThread (w : Walker) (r : Raw) (i : WalkIn) : Wk WalkOut := do
  let op := r.op.toNat
  if op = 0xB8 then
    let c ← wkKopen w i.x i.y (bit r.mod 0)
    pure (moved c !c.done)
  else if i.a.append ∨ (op = 0xBD ∧ i.b.append) then pure (walkAppend r i)
  else if op = 0xB9 then
    let c ← wkNext w i.a
    pure (moved c c.done)
  else if op = 0xBA then
    let c ← wkMove w i.a i.x
    let h ← wkHere w c
    pure (moved c (h == some i.x))
  else if op = 0xBB then
    let c ← wkSetp w i.a i.x
    pure (moved c !c.done)
  else if op = 0xBC then
    let c ← wkKdesc w i.a i.x (bit r.mod 0)
    pure (moved c !c.done)
  else if op = 0xBD then
    let (a, b, d, pa, pb) ← wkCoit w i.a i.b (r.f == 1#3) (bit r.mod 0) i.x
    pure ⟨a, b, d, b2n pa + 2 * b2n pb⟩
  else if op = 0xBE then
    let (lo, hi) ← wkSplit w i.a
    pure ⟨lo, hi, 0, b2n !hi.done⟩
  else if op = 0xBF then
    let h ← wkHere w i.a
    pure ⟨Cursor.zero, Cursor.zero, h.getD allOnes64, b2n h.isSome⟩
  else
    let x ← wkVal w i.a
    pure ⟨Cursor.zero, Cursor.zero, x, b2n !i.a.done⟩

/-- Run a walk. -/
def runWalk {α : Type} (m : Wk α) (s : State) : Except WErr α × State := m.run.run s

/-- The strand as a walker, for an instruction at a place in program order. -/
def State.walker (s : State) (sid seq : Nat) : Walker :=
  let r := (s.regionOf (s.strand sid)).rcb
  ⟨s.who sid, seq, r.ltbase, r.ltlen⟩

/-- How a walk that did not finish leaves its access; one that waits may still read anywhere. An append that waits for its block keeps
its place at the counter. -/
def State.walkFailed (s : State) (sid : Nat) (a : Acc) (x : WErr) : Acc × State :=
  let stay (k : Nat) : Acc := { a with va := 0, size := anySize, got := if a.got = waitCtr then waitCtr else k }
  match x with
  | .wait => (stay 0, s)
  | .behind => (stay behindOne, s)
  | .counter pa => ({ a with va := 0, size := anySize, got := waitCtr, got2 := pa }, s)
  | .access c va w => s.failed sid { a with va := va, size := if c = clsHeap then 0 else 1, write := w } c
  | .check c va => ({ a with va := va, size := 1, status := 6, cls := c }, s)

/-- A step of an entry's run: the accesses done, the accesses to follow this one, the cursors, the state. -/
structure Stride where
  acc : Acc
  more : List Acc
  curs : KV Cursor
  deriving DecidableEq, Repr

/-- One thread's walk in an entry. -/
def State.walkStep (s : State) (sid : Nat) (e : LogEnt) (curs : KV Cursor) (a : Acc) : Stride × State :=
  let t := a.thread
  let i : WalkIn := ⟨kvGet Cursor.zero curs (slotA t), kvGet Cursor.zero curs (slotB t), a.data, a.data2⟩
  match runWalk (walkThread (s.walker sid e.seq) e.raw i) s with
  | (.ok o, s) =>
    let curs := kvSet Cursor.zero (kvSet Cursor.zero curs (slotK1 t) o.k1) (slotK2 t) o.k2
    (⟨{ a with status := 1, va := 0, size := 0, got := o.x, got2 := o.preds }, [], curs⟩, s)
  | (.error x, s) =>
    let (a, s) := s.walkFailed sid a x
    (⟨a, [], curs⟩, s)

/-! ## KAPP (R244, R245) -/

/-- The class for which a block cannot be a heap's counter for a maker of accesses (R224, R270). -/
def State.heapMisuse (s : State) (w : Who) (pa : Nat) : Option Nat :=
  let x := s.blk pa
  if pa % 64 ≠ 0 then some clsAlign
  else if !isHbm pa then some clsProt
  else if (kvGet none s.homes.ctrs pa).isNone ∨ blkKind x ≠ 2 then some clsKind
  else if blkSys x ∧ !w.sys then some clsProt
  else none

/-- The append of a value at a coordinate goes to a new block (R244). -/
def takesBlock (r : Raw) (l : Level) (c : Cursor) (x v : Nat) : Bool :=
  !(bit r.mod 1 && v == 0) && c.append && c.kind.toNat == kBlock && decide (x < l.n) && decide (x < 2 ^ (8 * l.cw))
    && c.pos != c.boundhi && c.pos.toNat % 2 ^ l.blog == 0

/-- A KAPP that would take a block from what is no counter for it traps as it issues, by the address that its cursor recorded
(R197, R270); that a system counter's append by another strand is the protection class, the model has by inference (DEDUCED, log 50). -/
def State.kappMisuse (s : State) (sid : Nat) (r : Raw) : Option (Nat × Nat × Nat × Nat) :=
  let st := s.strand sid
  firstFault ((st.cursorThreads r).map (fun t =>
    let c := (st.cursorSources r t).headD Cursor.zero
    let l : Level := ⟨0, c.lev⟩
    (t, (if takesBlock r l c (st.cursorX r t) (st.cursorY r t) then s.heapMisuse (s.who sid) c.heapPa else none), l.heapc)))

/-- Take one block index from the heap through the core's allowance (R224): through the counters' rules for a take of 1, after the
core's earlier counter operations (R272). What the check at issue has passed and no longer holds is held, among it the protection
class of a system counter that another strand appends from: the model's choice (DESIGN CHOICE, log 50). -/
def State.heapTake (s : State) (w : Who) (q : CtrReq) (seq pool heapc : Nat) : Except WErr Nat × State :=
  match s.access w heapc needRW 0 with
  | (.wait, s) => (.error .wait, s)
  | (.fault c, s) => (.error (.access c heapc false), s)
  | (.hit pa _, s) =>
    match s.heapMisuse w pa with
    | some c => (.error (.check c heapc), s)
    | none =>
      if s.poisoned pa 64 then (.error (.access clsUncorr heapc false), s)
      else if s.ctrEarlier w.core pa seq then (.error (.counter pa), s)
      else match s.enginePick q w.core pa w.asid pool with
        | (.ok, i, s) => (.ok i, s)
        | (.wait, _, s) => (.error (.counter pa), s)
        | (.fail, _, s) => (.error (.access clsHeap heapc false), s)

/-- Access data2 of a write that follows a thread's append or close: a weak store, a strong store. -/
def weakFollow : Nat := 2
def strongFollow : Nat := 3

/-- A write of a thread that follows its append. -/
def follow (t va n x kind : Nat) : Acc := { newAcc t (va % 2 ^ 56) n (x % 2 ^ (8 * n)) true with data2 := kind }

/-- A thread's append, once its block is known: the cursor after it and the writes (R244). -/
def appendWrites (l : Level) (c : Cursor) (t x v : Nat) (taken : Option Nat) : Cursor × List Acc :=
  let slot := c.pos.toNat % 2 ^ l.blog
  let link (i : Nat) : List Acc :=
    [follow t (l.block i) 16 (2 ^ 64 - 1) weakFollow,
     if c.ttag = BitVec.allOnes 64 then follow t (l.head c.ftag.toNat) 8 i weakFollow
     else follow t (l.block c.ttag.toNat) 8 i weakFollow]
  let tail := taken.getD c.ttag.toNat
  let b := l.block tail
  let pos := c.pos.toNat + 1
  ({ c with pos := BitVec.ofNat 40 pos, done := pos == c.boundhi.toNat, ttag := BitVec.ofNat 64 tail },
   (match taken with | some i => link i | none => [])
    ++ [follow t (b + 16 + slot * l.cw) l.cw x weakFollow, follow t (b + l.valOff + slot * l.vw) l.vw v weakFollow,
        follow t (b + 8) 2 (slot + 1) weakFollow])

/-- One thread's KAPP. The take of its block stands in the negative as a counter operation (R461, R272). -/
def State.kappStep (s : State) (sid slot : Nat) (e : LogEnt) (curs : KV Cursor) (a : Acc) : Stride × State :=
  let t := a.thread
  let c := kvGet Cursor.zero curs (slotA t)
  let fin (c : Cursor) (more : List Acc) (p : Nat) : Stride :=
    ⟨{ a with status := 1, va := 0, size := 0, got2 := p }, more, kvSet Cursor.zero curs (slotK1 t) c⟩
  let stop (s : State) (x : WErr) : Stride × State :=
    let (a, s) := s.walkFailed sid a x
    (⟨a, [], curs⟩, s)
  let w := s.walker sid e.seq
  if (bit e.raw.mod 1 ∧ a.data2 = 0) ∨ !c.append ∨ c.kind.toNat ≠ kBlock then (fin c [] 0, s)
  else match runWalk (wkOf w c) s with
    | (.error x, s) => stop s x
    | (.ok l, s) =>
      if l.n ≤ a.data ∨ 2 ^ (8 * l.cw) ≤ a.data ∨ c.pos = c.boundhi then (fin c [] 0, s)
      else
        let put (s : State) (taken : Option Nat) : Stride × State :=
          let (c, ws) := appendWrites l c t a.data a.data2 taken
          (fin c ws 1, s)
        if c.pos.toNat % 2 ^ l.blog ≠ 0 then put s none
        else if s.negBlocks sid then stop s .wait
        else match s.heapTake w.who (.append sid slot t) e.seq (s.regionOf (s.strand sid)).pool l.heapc with
          | (.ok i, s) => put (s.negativeAt sid e.seq 7 l.heapc (s.paOf sid l.heapc) i) (some i)
          | (.error x, s) => stop s x

/-- The weak or strong store of a follower. -/
def State.followAcc (sid slot : Nat) (s : State) (a : Acc) : MemR × State :=
  let bs := leBytes a.size a.data
  let strong := a.data2 = strongFollow
  if strong ∧ s.negBlocks sid then (.wait, s)
  else match (if strong then s.strongWrite (s.who sid) a.va bs else s.weakStore (s.who sid) a.va bs) with
    | (.remote _, s) => (.fault clsProt, s)
    | (.ok x, s) =>
      (.ok x, if strong then s.negativeAt sid (s.seqAt sid slot) 5 a.va (s.paOf sid a.va) a.data else s.signStore sid slot a)
    | y => y

/-! ## KCLOSE (R246) -/

/-- One thread's KCLOSE: the store that seals a BLOCK fibre. -/
def State.kcloseStep (s : State) (sid : Nat) (e : LogEnt) (curs : KV Cursor) (a : Acc) : Stride × State :=
  let t := a.thread
  let c := kvGet Cursor.zero curs (slotA t)
  let fin (more : List Acc) : Stride := ⟨{ a with status := 1, va := 0, size := 0 }, more, curs⟩
  if !c.append ∨ c.kind.toNat ≠ kBlock then (fin [], s)
  else match runWalk (wkOf (s.walker sid e.seq) c) s with
    | (.ok l, s) => (fin [follow t (l.head c.ftag.toNat + 8) 8 (c.pos.toNat + 2 ^ 40) strongFollow], s)
    | (.error x, s) =>
      let (a, s) := s.walkFailed sid a x
      (⟨a, [], curs⟩, s)

/-- The heaps of the append cursors that an entry closes, by the physical addresses that they recorded, each with its HEAPC. -/
def LogEnt.closes (e : LogEnt) : List (Nat × Nat) :=
  (e.accs.filter (fun a => !a.write)).filterMap (fun a =>
    let c := kvGet Cursor.zero e.curs (slotA a.thread)
    if c.append ∧ c.kind.toNat = kBlock then some (c.heapPa, (Level.mk 0 c.lev).heapc) else none)

/-- The heaps whose count of open append cursors falls to 0 get the core's allowance back, as CTDROP gives it (R246, R272). -/
def State.closeHeaps (s : State) (sid : Nat) (e : LogEnt) : State :=
  let core := (s.strand sid).core
  let s := forEach e.closes s (fun s h => s.closeCount sid h.1)
  forEach (dedup [] (e.closes.map Prod.fst)) s (fun s h =>
    if kvGet 0 (s.core core).openApp h ≠ 0 then s
    else match s.allowOf core h with
      | some a => (s.returnAllow core a).negativeAt sid e.seq 7 (((e.closes.find? (fun x => x.1 == h)).map Prod.snd).getD 0) h 0
      | none => s)

/-- The BLOCK append cursors that an entry opens (R243). -/
def State.openHeaps (s : State) (sid : Nat) (e : LogEnt) : State :=
  forEach e.accs s (fun s a =>
    let c := kvGet Cursor.zero e.curs (slotK1 a.thread)
    if c.append ∧ c.kind.toNat = kBlock then s.openCount sid c.heapPa else s)

/-! ## KAPM (R248) -/

/-- The physical addresses of n bytes that one step at their homes reads and writes, after the strand's earlier accesses of them
(R159, R200). -/
def State.homeCells (s : State) (w : Who) (seq va n : Nat) : Except WErr (List Nat) × State :=
  let va := va % 2 ^ 56
  let fault (c : Nat) : Except WErr (List Nat) := .error (.access c va true)
  let at_ (p : Nat → Acc → Bool) : Bool := match w.sid with
    | some i => p i (newAcc 0 va n 0 true)
    | none => false
  if at_ (fun i a => s.behindHeld i seq a) then (.error .behind, s)
  else if at_ (fun i a => s.behind i seq a) then (.error .wait, s)
  else forEach (pieces va n) (.ok [], s) (fun (r, s) (a, k) =>
    match r with
    | .error x => (.error x, s)
    | .ok l => match s.atomicAt w a k needRW with
      | (.ok pa, s) => if s.isProtected pa then (fault clsProt, s) else (.ok (l ++ natsFrom pa k), s)
      | (.wait, s) => (.error .wait, s)
      | (.fault c, s) => (fault c, s)
      | (.remote _, s) => (fault clsProt, s))

/-- The number that bytes at physical addresses hold. -/
def State.numOf (s : State) (pas : List Nat) : Nat := ofLe (pas.map s.byteAt)

/-- Write a number at physical addresses, one write for each line. -/
def State.putOf (s : State) (core : Nat) (pas : List Nat) (x : Nat) : State :=
  let ws := pas.zip (leBytes pas.length x)
  forEach (dedup [] (pas.map (· / 128))) s (fun s l => s.homeWrite (ws.filter (fun p => p.1 / 128 == l)) (some core))

/-- What a probe finds: a hit or a free slot, with the slot and its bytes' addresses, or neither. -/
inductive Probe where
  | hit (x : Nat) (slot : List Nat)
  | free (x : Nat) (slot : List Nat)
  | none
  deriving DecidableEq, Repr

/-- Probe for a coordinate from a slot on (R215), at the homes. -/
def State.probeHome (s : State) (w : Who) (seq : Nat) (l : Level) (c n x : Nat) : Except WErr Probe × State :=
  match n with
  | 0 => (.ok .none, s)
  | n + 1 =>
    let va := (l.arr0 + 16 * x) % 2 ^ 56
    match s.homeCells w seq va 16 with
    | (.error r, s) => (.error r, s)
    | (.ok pas, s) =>
      let v := s.numOf pas
      if !bit v 127 then (.ok (.free x pas), s)
      else if bits v 63 0 = c then (.ok (.hit x pas), s)
      else s.probeHome w seq l c n ((x + 1) % 2 ^ l.hlog)

/-- A merge at its home: the status, or the access that failed. -/
def State.mergeHome (s : State) (w : Who) (seq : Nat) (l : Level) (c v : Nat) : Except WErr Nat × State :=
  let cell (s : State) (va n : Nat) : Except WErr (List Nat) × State := s.homeCells w seq va n
  -- a merge reads what it changes: it returns the stamps of those lines (R410)
  let noted (s : State) (pas : List Nat) : State := forEach (dedup [] (pas.map (· / 128))) s (fun s l => s.noteWts l w.core)
  match s.probeHome w seq l c (2 ^ l.hlog) (hashSlot l.hlog c) with
  | (.error x, s) => (.error x, s)
  | (.ok .none, s) => (.ok 4, s)
  | (.ok (.hit _ slot), s) =>
    (match cell s (l.vals + bits (s.numOf slot) 103 64 * l.vw) l.vw with
      | (.error x, s) => (.error x, s)
      | (.ok p, s) => (.ok 6, (noted s (slot ++ p)).putOf w.core p (atomNew 0 l.vty (s.numOf p) v 0)))
  | (.ok (.free x slot), s) =>
    (match cell s l.arr1 8 with
      | (.error x, s) => (.error x, s)
      | (.ok occ, s) =>
        let n := s.numOf occ
        if 3 * 2 ^ l.hlog / 4 ≤ n then (.ok 4, s)
        else match cell s (l.vals + x * l.vw) l.vw with
          | (.error x, s) => (.error x, s)
          | (.ok p, s) =>
            (.ok 0, (((noted s (slot ++ occ)).putOf w.core slot (c + x * 2 ^ 64 + 2 ^ 127)).putOf w.core p v).putOf w.core occ (n + 1)))

/-- The level of a merge, checked (R233). -/
def wkMerge (w : Walker) (c : Cursor) : Wk Level := do
  let l ← wkOf w c
  if !([0, 1, 2, 3, 8] : List Nat).contains l.vty then wkCheck l.at_
  else if l.vals = 0 then wkCheck (l.at_ + 40)
  else pure l

/-- One thread's KAPM; it waits behind an earlier KAPM of the strand. -/
def State.kapmStep (s : State) (sid : Nat) (e : LogEnt) (curs : KV Cursor) (a : Acc) : Stride × State :=
  let c := kvGet Cursor.zero curs (slotA a.thread)
  let fin (k : Nat) : Stride := ⟨{ a with status := 1, va := 0, size := 0, got := k }, [], curs⟩
  let stop (s : State) (a : Acc) (x : WErr) : Stride × State :=
    let (a, s) := s.walkFailed sid a x
    (⟨a, [], curs⟩, s)
  let before := (s.strand sid).log.filter (fun p => p.2.raw.op == 0xC3#8 && p.2.seq < e.seq)
  if !c.append ∨ c.kind.toNat ≠ kHashed then (fin 8, s)
  else if !before.isEmpty then
    stop s a (if before.all (fun p => 2 ≤ p.2.state || p.2.accs.any (fun b => b.size == anySize && b.got == behindOne)) then .behind else .wait)
  else if s.negBlocks sid then stop s a .wait
  else match runWalk (wkMerge (s.walker sid e.seq) c) s with
    | (.error x, s) => stop s { a with write := false } x
    | (.ok l, s) =>
      if l.n ≤ a.data ∨ 2 ^ (8 * l.cw) ≤ a.data then (fin 7, s)
      else match s.mergeHome (s.who sid) e.seq l a.data (a.data2 % 2 ^ (8 * l.vw)) with
        | (.ok k, s) => (fin k, s.negativeAt sid e.seq 3 l.arr1 (s.paOf sid l.arr1) k)
        | (.error x, s) => stop s a x

/-! ## Running an entry -/

/-- One thread's part of an entry. -/
def State.cursorStep (s : State) (sid slot : Nat) (e : LogEnt) (curs : KV Cursor) (a : Acc) : Stride × State :=
  let op := e.raw.op.toNat
  if op = 0xC2 then s.kappStep sid slot e curs a
  else if op = 0xC3 then s.kapmStep sid e curs a
  else if op = 0xC4 then s.kcloseStep sid e curs a
  else s.walkStep sid e curs a

/-- An access of an entry that plans a thread's part; the others are the writes that follow it. -/
def planAcc (r : Raw) (a : Acc) : Bool := !a.write || r.op == 0xC3#8

/-- Run the accesses to be performed, in ascending thread order; a thread that waits keeps the later ones waiting. -/
def State.runCursorAccs (s : State) (sid slot : Nat) (e : LogEnt) (curs : KV Cursor) (l done : List Acc) :
    List Acc × KV Cursor × State :=
  match l with
  | [] => (done.reverse, curs, s)
  | a :: t =>
    if planAcc e.raw a then
      if a.status ≠ 0 || done.any (fun b => planAcc e.raw b && b.status == 0) then s.runCursorAccs sid slot e curs t (a :: done)
      else
        let (d, s) := s.cursorStep sid slot e curs a
        let (all, s) := runAccs (State.followAcc sid slot) sid e.seq d.more (d.acc :: done) s
        s.runCursorAccs sid slot e d.curs t all.reverse
    else
      let (all, s) := runAccs (State.followAcc sid slot) sid e.seq [a] done s
      s.runCursorAccs sid slot e curs t all.reverse

/-- Run an entry of a cursor instruction: its destinations are written once every thread's part is done (R231). -/
def State.cursorEntry (s : State) (sid slot : Nat) (e : LogEnt) : State :=
  let (accs, curs, s) := s.runCursorAccs sid slot e e.curs e.accs []
  let e := { e with accs := accs, curs := curs }
  let closing := e.raw.op = 0xC4#8
  let core := (s.strand sid).core
  let ready := e.progress = 0 ∧ accs.all (fun a => !planAcc e.raw a || a.status == 1)
    ∧ !(closing ∧ (s.negBlocks sid ∨ e.closes.any (fun h => s.ctrSent core h.1)))
  -- an append that waits for its block stalls its strand (R271)
  let takes := accs.any (fun a => a.status == 0 && a.got == waitCtr)
  let s := s.modStrand sid (fun st => match st.waiting with
    | .nothing => if takes ∧ st.life = .resident then { st with waiting := .entry slot } else st
    | .entry i => if i = slot ∧ !takes then { st with waiting := .nothing } else st
    | _ => st)
  let s := if ready then
      let ended := (s.strand sid).life = .ended
      let s := if ended then s else s.modStrand sid (fun st => st.finishCursor e)
      if closing then s.closeHeaps sid e
      else if !ended ∧ (e.raw.op = 0xB8#8 ∨ e.raw.op = 0xBC#8) then s.openHeaps sid e
      else s
    else s
  if e.progress = 0 ∧ !ready ∧ accs.all (fun a => a.status == 1) then s.putEntry sid slot e.refresh
  else s.settleEntry sid slot (if ready then { e with progress := 1 } else e) (fun st _ => st)

/-- A cursor instruction that takes a log entry issues: its sources are read, its destinations are empty, and it runs. -/
def State.startCursor (s : State) (sid : Nat) (r : Raw) : State :=
  let st := s.strand sid
  let ts := st.cursorThreads r
  let one (t : Nat) : Acc :=
    { newAcc t 0 0 (st.cursorX r t) (r.op == 0xC3#8) with data2 := st.cursorY r t }
  let curs := forEach ts ([] : KV Cursor) (fun m t =>
    let l := st.cursorSources r t
    kvSet Cursor.zero (kvSet Cursor.zero m (slotA t) (listAt Cursor.zero l 0)) (slotB t) (listAt Cursor.zero l 1))
  let keys := (cursorDests r).map (fun p => curFull p.1 p.2) ++ cursorValueKeys r (st.eff r r.d.toNat)
  let (slot, s) := s.logged sid r (ts.map one) keys false
  let s := s.modStrand sid (fun st => { st with emptyPreds := (cursorPreds r).filter (· != 7) ++ st.emptyPreds })
  match s.entry sid slot with
  | some e => s.cursorEntry sid slot { e with curs := curs }
  | none => s

/-- Issue a cursor instruction: a source with VALID = 0 traps (R25). -/
def State.issueCursor (s : State) (r : Raw) (f : Nat → State → State) : Res :=
  s.issue r (fun sid s =>
    if (s.strand sid).invalidSource r then s.precise sid r clsIllegal 13 0 none 0 else f sid s)

def State.walkInstr (s : State) (r : Raw) : Res := s.issueCursor r (fun sid s => s.startCursor sid r)

/-- KOPEN (R235). -/
def execKopen (o : KOps) (s : State) : Res := s.walkInstr (rawK 0xB8 o)
/-- KNEXT, KSEEK and KSETP (R237). -/
def execKnext (o : KOps) (s : State) : Res := s.walkInstr (rawK 0xB9 o)
def execKseek (o : KOps) (s : State) : Res := s.walkInstr (rawK 0xBA o)
def execKsetp (o : KOps) (s : State) : Res := s.walkInstr (rawK 0xBB o)
/-- KDESC (R236). -/
def execKdesc (o : KOps) (s : State) : Res := s.walkInstr (rawK 0xBC o)
/-- KCOIT (R240). -/
def execKcoit (o : KOps) (s : State) : Res := s.walkInstr (rawK 0xBD o)
/-- KSPLIT (R238). -/
def execKsplit (o : KOps) (s : State) : Res := s.walkInstr (rawK 0xBE o)
/-- KCRD and KVAL (R241). -/
def execKcrd (o : KOps) (s : State) : Res := s.walkInstr (rawK 0xBF o)
def execKval (o : KOps) (s : State) : Res := s.walkInstr (rawK 0xC1 o)
/-- KAPP (R244). -/
def execKapp (o : KOps) (s : State) : Res :=
  let r := rawK 0xC2 o
  s.issueCursor r (fun sid s => match s.kappMisuse sid r with
    | some x => s.precise sid r x.2.1 0 x.2.2.1 (if cursorUni r then none else some x.1) (if cursorUni r then 0 else x.2.2.2)
    | none => s.startCursor sid r)
/-- KAPM (R248). -/
def execKapm (o : KOps) (s : State) : Res := s.walkInstr (rawK 0xC3 o)

/-- KPOS (R241): it reads no metadata and takes no log entry. -/
def execKpos (o : KOps) (s : State) : Res :=
  let r := rawK 0xC0 o
  s.issueCursor r (fun sid s =>
    let st := s.strand sid
    let src (t : Nat) : Cursor := st.cur (curKey r.qa r.a.toNat t)
    let d := st.eff r r.d.toNat
    let one (x : Strand) (t : Nat) : Strand :=
      let c := src t
      let x := if cursorUni r then x.setS d (if r.pair r.info 0 then c.pos.toNat else c.pos.toNat % 2 ^ 32)
        else x.setVal d t (r.pair r.info 0) c.pos.toNat
      x.putWalkPreds r (if cursorUni r then st.active else [t]) (b2n (!c.done && !c.append))
    s.setStrand sid ((forEach (st.cursorThreads r) st one).next r.bytes))

/-- KCLOSE (R246): an append cursor first has the strand's earlier writes performed at the scope, as FENCE.REL does. -/
def execKclose (o : KOps) (s : State) : Res :=
  let r := rawK 0xC4 o
  s.issueCursor r (fun sid s =>
    let st := s.strand sid
    let releases := st.active.any (fun t => (st.cur (curKey r.qa r.a.toNat t)).append)
    if !releases then s.startCursor sid r
    else if st.accessing then s
    else
      let (ok, s) := if r.mod % 4 ≠ 0 then s.performCore st.core [sid] else (true, s)
      if ok then s.startCursor sid r else s)

/-- KMOV (R242). -/
def execKmov (o : KOps) (s : State) : Res :=
  let r := rawK 0xC5 o
  s.issueCursor r (fun sid s =>
    let st := s.strand sid
    let ts : List Nat := if r.qd then [st.lowest] else st.active
    let one (x : Strand) (t : Nat) : Strand :=
      let ka := curKey r.qa r.a.toNat t
      let kd := curKey r.qd r.d.toNat t
      let c := st.cur ka
      if !c.append then x.setCur kd c
      else if ka = kd then x
      else if r.qa ∧ !r.qd then x.setCur kd Cursor.zero
      else (x.setCur kd c).setCur ka Cursor.zero
    s.setStrand sid ((forEach ts st one).next r.bytes))

end Sys2Proof.Machine
end

