-- ==== Sys2Proof/Machine/Counter.lean ====
section
/-! DEFINITION. The counter instructions (R262 to R270) and the requests that the home of a counter serves (R255 to R261). A
thread's access holds the physical address of its block in data2; its status is 5 while its request is on its way. -/

namespace Sys2Proof.Machine

/-! ## Operands -/

/-- Units in D's run (R262). -/
def ctrUnits (r : Raw) : Nat := if r.op = 0xB0#8 then 4 else if r.op = 0xB1#8 ∧ r.f = 1#3 then 2 else 1

/-- The full/empty keys of D's run; d is the effective number of D. -/
def ctrKeys (r : Raw) (d : Nat) : List Nat :=
  if r.u = 1#1 then natsFrom (keyS d) (ctrUnits r) else natsFrom (keyV d) (2 * ctrUnits r)

/-- Unit i of D's run in a thread. -/
def Strand.ctrUnit (st : Strand) (r : Raw) (t i : Nat) : Nat :=
  if r.u = 1#1 then st.s (r.d.toNat + i) else st.val (st.eff r r.d.toNat + 2 * i) t true

/-- Write unit i of D's run. -/
def Strand.setUnit (st : Strand) (r : Raw) (d t i x : Nat) : Strand :=
  if r.u = 1#1 then st.setS (d + i) x else st.setVal (d + 2 * i) t true x

/-- The results of every thread reach D. -/
def Strand.finishCtr (st : Strand) (e : LogEnt) : Strand :=
  let r := e.raw
  let st := forEach e.accs st (fun st a =>
    let st := st.setUnit r e.dnum a.thread 0 a.got
    if ctrUnits r = 2 then st.setUnit r e.dnum a.thread 1 a.got2 else st)
  st.fullAll (ctrKeys r e.dnum)

/-! ## The gate (R263, R270) -/

/-- The gate's answer for a thread: the block's physical address, a wait, a precise class, a class that holds the entry. -/
inductive CtrGate where
  | ok (pa : Nat)
  | wait
  | precise (cls : Nat)
  | held (cls : Nat)
  deriving DecidableEq, Repr

/-- The class that the block's kind and SYS ask for (R270); where both apply, that of the kind (DESIGN CHOICE, log 54). -/
def ctrMisuse (r : Raw) (x : Nat) (sys : Bool) : Option Nat :=
  let op := r.op.toNat
  let init := op = 0xB0 ∧ r.f ≠ 2#3
  let k := blkKind x
  if !init ∧ k = 0 then some clsKind
  else if ((op = 0xB1 ∧ r.f = 0#3) ∨ op = 0xB2) ∧ k = 2 then some clsKind
  else if op = 0xB1 ∧ r.f = 1#3 ∧ k = 1 then some clsKind
  else if sys then none
  else if op = 0xB0 ∧ (r.f = 2#3 ∨ r.f = 4#3 ∨ r.f = 5#3) then some clsProt
  else if op ≠ 0xB4 ∧ k ≠ 0 ∧ blkSys x then some clsProt
  else none

/-- The checks of one thread's address, in their order. A block that no CTINIT has initialised since reset counts as KIND 00 here, whatever
its bits in memory say, while the power leave of R282 reads KIND from memory (DESIGN CHOICE, log 54). -/
def State.ctrGate (s : State) (sid : Nat) (r : Raw) (va : Nat) : CtrGate × State :=
  let w := s.who sid
  if va % 64 ≠ 0 then (.precise clsAlign, s)
  else match s.access w va (if r.op = 0xB4#8 then needR else needRW) 0 with
    | (.wait, s) => (.wait, s)
    | (.fault c, s) => (.held c, s)
    | (.hit pa _, s) =>
      if !isHbm pa then (.precise clsProt, s)
      else if s.poisoned pa 64 then (.precise clsUncorr, s.errorRecord (some (s.strand sid).rid) clsUncorr va)
      else
        let x := if s.isProtected pa && (kvGet none s.homes.ctrs pa).isSome then s.blk pa else 0
        match ctrMisuse r x w.sys with
        | some c => (.precise c, s)
        | none => (.ok pa, s)

/-- The gate of every thread, in ascending order. -/
def State.ctrGates (s : State) (sid : Nat) (r : Raw) (l : List (Nat × Nat)) : List (Nat × Nat × CtrGate) × State :=
  match l with
  | [] => ([], s)
  | (t, va) :: rest =>
    let (g, s) := s.ctrGate sid r va
    let (gs, s) := s.ctrGates sid r rest
    ((t, va, g) :: gs, s)

/-! ## Operations -/

/-- The pool owner whose budget a strand's allowance counts against (R354). -/
def State.poolOf (s : State) (sid : Nat) : Nat := (s.regionOf (s.strand sid)).pool

/-- What a thread's operation does at its core: done with results, sent to the home, or it waits for an unfreeze. -/
inductive CtrDo where
  | done (x y : Nat)
  | sent (n : Nat)
  | wait
  deriving DecidableEq, Repr

/-- A take at the core (R256, R257, R265). -/
def State.ctrTake (s : State) (core pool pa n : Nat) (range : Bool) : CtrDo × State :=
  if n = 0 then (if range then .done noPiece.1 0 else .done 0 0, s)
  else if !range ∧ ctrMax < n then (.done 3 0, s)
  else
    let n := min n ctrMax
    match s.allowOf core pa with
    | none => (match s.allowRoom core pool with
        | (true, s) => (.sent n, s)
        | (false, s) => (.wait, s))
    | some a =>
      if range then
        (if a.hi ≤ a.lo then (.sent n, (s.setAllow core pa (some a)).freeze core pa true)
        else
          let k := min n (a.hi - a.lo)
          (.done a.lo k, s.setAllow core pa (some { a with lo := a.lo + k })))
      else if n ≤ a.lo then (.done 0 0, s.setAllow core pa (some { a with lo := a.lo - n }))
      else (.sent n, (s.setAllow core pa (some a)).freeze core pa true)

/-- A give at the core (R266): an excess over CAP goes to the home. What stays at the core is not cut off, so that V can pass
2^48 - 1 where RESERVE lies near it (DESIGN CHOICE, log 54). -/
def State.ctrGive (s : State) (core asid pool pa n : Nat) : CtrDo × State :=
  if ctrMax < n then (.done 7 0, s)
  else match s.entryReady core pa pool with
    | (false, s) => (.wait, s)
    | (true, s) =>
      let (a, s) := s.needAllow core pa false asid pool
      let cap := blkCap (s.blk pa)
      if a.lo + n ≤ cap then (.done 0 0, s.setAllow core pa (some { a with lo := a.lo + n }))
      else (.sent (a.lo + n - cap), s.setAllow core pa (some { a with lo := cap }))

/-- What CTPEEK shows (R268): an entry on its way back is the core's no longer. -/
def State.peek (s : State) (core pa : Nat) : Nat :=
  match s.allowOf core pa with
  | some a => if a.returning then 0 else a.left
  | none => 0

/-- One thread's operation as far as its core does it (R265 to R269). All but CTPEEK wait while the entry is frozen or on its way
back, and behind the core's earlier operations on the counter (R258, R272). -/
def State.ctrLocal (s : State) (sid seq : Nat) (r : Raw) (a : Acc) : CtrDo × State :=
  let w := s.who sid
  let pa := a.data2
  let pool := s.poolOf sid
  if r.op = 0xB4#8 then (.done (s.peek w.core pa) 0, s)
  else if s.isStill w.core pa || s.ctrEarlier w.core pa seq then (.wait, s)
  else match r.op.toNat with
    | 0xB1 => s.ctrTake w.core pool pa a.data (r.f == 1#3)
    | 0xB2 => s.ctrGive w.core w.asid pool pa a.data
    | 0xB5 => (match s.allowOf w.core pa with
        | some x => (.done 0 0, s.returnAllow w.core x)
        | none => (.done 7 0, s))
    | _ => (.sent 0, s)

/-- An access that passed the gate is marked so in got2. -/
def gated (a : Acc) (pa : Nat) : Acc := { a with data2 := pa, got2 := 1 }

/-- Replace a thread's access in an entry. -/
def LogEnt.putAcc (e : LogEnt) (a : Acc) : LogEnt :=
  { e with accs := e.accs.map (fun b => if b.thread = a.thread then a else b) }

/-- A thread's operation is complete with its results. -/
def State.ctrDone (s : State) (sid slot : Nat) (e : LogEnt) (a : Acc) (x y : Nat) : LogEnt × State :=
  let e := e.putAcc { a with status := 1, got := x, got2 := y }
  (e, (s.putEntry sid slot e).negativeAt sid e.seq 7 a.va a.data2 x)

/-- Run the threads of an entry one at a time, in ascending order, until one waits (R263), also for room in the negative (R461). -/
def State.ctrThreads (s : State) (sid slot : Nat) (e : LogEnt) (l : List Acc) : LogEnt × State :=
  match l with
  | [] => (e, s)
  | a :: t =>
    if a.status = 1 then s.ctrThreads sid slot e t
    else if a.status ≠ 0 ∨ s.negBlocks sid then (e, s)
    else match s.ctrLocal sid e.seq e.raw a with
      | (.done x y, s) =>
        let (e, s) := s.ctrDone sid slot e a x y
        s.ctrThreads sid slot e t
      | (.sent n, s) =>
        let n := if e.raw.op = 0xB0#8 then a.data else n
        let e := e.putAcc { a with status := 5, data := n }
        (e, (s.putEntry sid slot e).push (ctrEvent e.raw sid slot a.thread))
      | (.wait, s) => (e, s)

/-- What the gate of an entry's threads comes to once more. -/
structure Regate where
  entry : LogEnt
  precise : List (Nat × Option Nat × Nat)
  deriving DecidableEq, Repr

/-- The threads that have not passed the gate try it again (R263). -/
def State.ctrRegate (s : State) (sid : Nat) (g : Regate) (l : List Acc) : Regate × State :=
  match l with
  | [] => (g, s)
  | a :: t =>
    if a.status ≠ 0 ∨ a.got2 = 1 then s.ctrRegate sid g t
    else match s.ctrGate sid g.entry.raw a.va with
      | (.ok pa, s) => s.ctrRegate sid { g with entry := g.entry.putAcc (gated a pa) } t
      | (.wait, s) => s.ctrRegate sid g t
      | (.precise c, s) =>
        s.ctrRegate sid ⟨g.entry.putAcc { a with status := 6, cls := c }, g.precise ++ [(a.thread, some c, a.va)]⟩ t
      | (.held c, s) => (s.askTriage c).ctrRegate sid { g with entry := g.entry.putAcc (s.failAcc a c) } t

/-- Every thread of an entry has passed the gate. -/
def LogEnt.passed (e : LogEnt) : Bool := e.accs.all (fun a => a.status == 1 || a.status == 5 || (a.status == 0 && a.got2 == 1))

/-- A thread waits for its core's entry to be unfrozen (R258). -/
def State.entryStill (s : State) (core : Nat) (e : LogEnt) : Bool :=
  e.raw.op != 0xB4#8 && e.accs.any (fun a => a.status == 0 && s.isFrozen core a.data2)

/-- Go on with an entry of a counter instruction. Its threads act once all have passed the gate, and then younger instructions
issue, but while one waits for a frozen entry (R258). A precise failure at the gate leaves the instruction not issued; where a handler has
run since, the entry holds the class (log 50). -/
def State.ctrEntry (s : State) (sid slot : Nat) (e : LogEnt) : State :=
  let (g, s) := s.ctrRegate sid ⟨e, []⟩ e.accs
  let st := s.strand sid
  match (if st.waiting = .entry slot ∧ !st.hmode then firstFault g.precise else none) with
  | some x => (s.unissue sid slot e (ctrKeys e.raw e.dnum)).threadFault sid e.raw x
  | none =>
    let e := g.entry
    if e.passed then
      let (e, s) := s.ctrThreads sid slot e e.accs
      let still := s.entryStill st.core e
      let s := s.modStrand sid (fun st => match st.waiting with
        | .nothing => if still ∧ st.life = .resident then { st with waiting := .entry slot } else st
        | .entry i => if i = slot ∧ !still then { st with waiting := .nothing } else st
        | _ => st)
      s.settleEntry sid slot e Strand.finishCtr
    else s.settleEntry sid slot e Strand.finishCtr

/-- A counter instruction issues (R263). -/
def State.runCtr (s : State) (r : Raw) : Res :=
  s.issue r (fun sid s =>
    let st := s.strand sid
    let ts := st.memThreads r
    if s.negBlocks sid then s
    else
      let (gs, s) := s.ctrGates sid r (ts.map (fun t => (t, st.ea r t)))
      let prec := firstFault (gs.map (fun g => (g.1, (match g.2.2 with | .precise c => some c | _ => none), g.2.1)))
      if gs.any (fun g => g.2.2 == .wait) then s
      else match prec with
        | some x => s.threadFault sid r x
        | none =>
          let one (g : Nat × Nat × CtrGate) : Acc :=
            let a := newAcc g.1 g.2.1 64 (st.ctrUnit r g.1 0) false
            match g.2.2 with
            | .ok pa => gated a pa
            | .held c => s.failAcc a c
            | _ => a
          let units : KV DWord := if r.op = 0xB0#8 then
              forEach ts [] (fun m t => forEach (nats 4) m (fun m i => kvSet 0#64 m (4 * t + i) (BitVec.ofNat 64 (st.ctrUnit r t i))))
            else []
          let (slot, s) := s.logged sid r (gs.map one) (ctrKeys r (st.dnum r)) true
          match s.entry sid slot with
          | some e => s.ctrEntry sid slot { e with sregs := units ++ loopRegs 1000 st.loops }
          | none => s)

/-- CTINIT and its extension (R264). -/
def execCtinitQ (o : MOps) (s : State) : Res := s.runCtr (rawM 0xB0 o)
def execCtinitR (o : MOps) (s : State) : Res := s.runCtr (rawM 0xB0 o)
def execCtinitExt (o : MOps) (s : State) : Res := s.runCtr (rawM 0xB0 o)
/-- CTTAKE (R265). -/
def execCttakeQ (o : MOps) (s : State) : Res := s.runCtr (rawM 0xB1 o)
def execCttakeR (o : MOps) (s : State) : Res := s.runCtr (rawM 0xB1 o)
/-- CTGIVE (R266), CTREAD (R267), CTPEEK (R268), CTDROP (R269). -/
def execCtgive (o : MOps) (s : State) : Res := s.runCtr (rawM 0xB2 o)
def execCtread (o : MOps) (s : State) : Res := s.runCtr (rawM 0xB3 o)
def execCtpeek (o : MOps) (s : State) : Res := s.runCtr (rawM 0xB4 o)
def execCtdrop (o : MOps) (s : State) : Res := s.runCtr (rawM 0xB5 o)

/-! ## At the home (R255) -/

/-- CTINIT's values are acceptable (R264). A PARK of 2^56 or above is not (DESIGN CHOICE, log 54). -/
def initOk (range : Bool) (u : Nat → Nat) : Bool :=
  let grain := u 2 % 2 ^ 32
  let hi := u 2 / 2 ^ 32
  if range then grain != 0 && u 0 ≤ ctrMax && u 1 ≤ ctrMax && u 0 ≤ u 1 && u 3 % 64 == 0 && hi == 0 && decide (u 3 < 2 ^ 56)
  else grain != 0 && u 0 ≤ ctrMax && u 1 == 0 && u 3 == 0

/-- The block that CTINIT writes. -/
def initBlock (range priv : Bool) (u : Nat → Nat) (park : Nat) : Nat :=
  let x := (if range then 2 else 1) + b2n priv * 4 + u 2 % 2 ^ 32 * 2 ^ 64 + u 0 * 2 ^ 128
  if range then x + u 1 * 2 ^ 192 + park * 2 ^ 448 else x + u 2 / 2 ^ 32 * 2 ^ 96

/-- Begin a new initialisation of a counter: every holder's entry is discarded, those whose returns are on their
way among them (R259, R264). -/
def State.initCtr (s : State) (pa x : Nat) : State :=
  let s := forEach (s.holdersBut pa none) s (fun s c => s.setAllow c pa none)
  let (n, s) := s.nextId
  { s with homes := { s.homes with ctrs := kvSet none s.homes.ctrs pa (some ⟨n, none⟩) } }.setBlk pa x

/-- The extension of a counter: its status (R264, R453). -/
def State.extendCtr (s : State) (pa x : Nat) : Nat × State :=
  let b := s.blk pa
  if blkKind b = 1 then (if s.overLmax pa x then (7, s) else (0, s.setBlk pa (blkAdd b x).1))
  else if blkKind b ≠ 2 ∨ x < blkEnd b ∨ ctrMax < x then (7, s)
  else (0, s.setBlk pa (setBits b 239 192 x))

/-- A virtual range lies in one page, once its first byte has been translated. -/
def State.onePage (s : State) (core asid va n : Nat) : Bool :=
  (kvGet [] s.xlate.cluster (clusterOf core)).any (fun e => e.serves asid va && e.serves asid (va + n - 1))

/-- The physical address of the park that a strand names (R264): none when the status is 7. -/
def State.parkOf (s : State) (w : Who) (va : Nat) : Except MemR (Option Nat) × State :=
  if va = 0 then (.ok (some 0), s)
  else match s.access w va needRW 2 with
    | (.wait, s) => (.error .wait, s)
    | (.fault _, s) => (.ok none, s)
    | (.hit pa _, s) => (.ok (if s.onePage w.core w.asid va 3072 && isHbm pa then some pa else none), s)

/-- A strand's CTINIT served at the home: its status, or a wait for a translation. -/
def State.serveInit (s : State) (sid pa : Nat) (r : Raw) (u : Nat → Nat) : Option Nat × State :=
  if r.f = 2#3 then
    let (k, s) := s.extendCtr pa (u 0)
    (some k, s)
  else
    let range := r.f = 1#3 ∨ r.f = 5#3
    if !initOk range u then (some 7, s)
    else match (if range then s.parkOf (s.who sid) (u 3) else (.ok (some 0), s)) with
      | (.error _, s) => (none, s)
      | (.ok none, s) => (some 7, s)
      | (.ok (some park), s) => (some 0, s.initCtr pa (initBlock range (4 ≤ r.f.toNat) u park))

/-- The core that a request leaves out of its recalls: a take leaves out its own, an exact read none. -/
def ctrBut (r : Raw) (core : Nat) : Option Nat := if r.op = 0xB1#8 then some core else none

/-- A request must first recall the holders (R256, R257, R261). -/
def State.needsRecall (s : State) (r : Raw) (core pa n : Nat) : Bool :=
  let x := s.blk pa
  let a := match s.allowOf core pa with | some a => a.left | none => 0
  let others := s.holdersBut pa (ctrBut r core) != []
  match r.op.toNat with
  | 0xB1 =>
    if r.f = 0#3 then others && decide (blkRn x < n - a)
    else others && a == 0 && blkPcnt x == 0 && decide (blkEnd x ≤ blkRn x)
  | 0xB3 => others
  | _ => false

/-- Every holder that the request recalls has frozen its entry. -/
def State.recalled (s : State) (r : Raw) (core pa : Nat) : Bool :=
  (s.holdersBut pa (ctrBut r core)).all (fun c => s.isFrozen c pa)

/-- The request of a thread is served whole (R255 to R261); false while a translation for it is still to come. -/
def State.ctrServe (s : State) (sid slot : Nat) (e : LogEnt) (a : Acc) : Bool × State :=
  let w := s.who sid
  let pa := a.data2
  let r := e.raw
  let s := s.putEntry sid slot (e.putAcc { a with status := 1 })
  let fin (s : State) (x y : Nat) : Bool × State :=
    let (e, s) := s.ctrDone sid slot e a x y
    (true, s.ctrEntry sid slot e)
  let pool := s.poolOf sid
  match r.op.toNat with
  | 0xB0 =>
    (match s.serveInit sid pa r (fun i => (kvGet 0#64 e.sregs (4 * a.thread + i)).toNat) with
      | (some k, s) => fin s k 0
      | (none, s) => (false, s.putEntry sid slot e))
  | 0xB1 =>
    if r.f = 0#3 then
      let (ok, s) := s.serveQuantity w.core pa a.data w.asid pool
      fin s (if ok then 0 else 3) 0
    else
      let ((base, n), s) := s.serveRange w.core pa a.data w.asid pool
      fin s base n
  | 0xB2 =>
    let (cut, s) := s.serveAdd pa a.data
    fin (s.endRequest pa [w.core]) (if cut then 4 else 0) 0
  | _ =>
    let s := s.setBlk pa (setBits (s.blk pa) 4 4 1)
    let (x, s) := s.serveExact pa
    fin (s.setBlk pa (setBits (s.blk pa) 4 4 0)) x 0

/-- A thread's request reaches the home: it is served, or its recalls go out, or it waits for its turn. -/
def State.ctrArrive (s : State) (sid slot : Nat) (e : LogEnt) (a : Acc) : State :=
  let w := s.who sid
  let pa := a.data2
  let r := e.raw
  let me : CtrReq := .thread sid slot a.thread
  let (turn, s) := s.ctrTurn pa me
  let (done, s) := if turn then s.writeBack w.core (pa / 128) else (false, s)
  if !turn then s
  else if !done || s.writeBlocked (pa / 128) w.sid (some w.core) true false then s.noteBlocked (pa / 128) (some w.core)
  else match ctrMisuse r (if (kvGet none s.homes.ctrs pa).isSome then s.blk pa else 0) w.sys with
    | some c => (s.ctrEntry sid slot (e.putAcc { a with status := 6, cls := c })).ctrLeave pa me
    | none =>
      if s.needsRecall r w.core pa a.data && !s.recalled r w.core pa then
        let s := s.setRecalling pa (some (sid, slot, a.thread))
        let s := if r.op = 0xB3#8 then s.setBlk pa (setBits (s.blk pa) 4 4 1) else s
        forEach ((s.holdersBut pa (ctrBut r w.core)).filter (fun c => !s.isFrozen c pa)) s (fun s c => s.push (.counterRecall c pa))
      else match s.ctrServe sid slot e a with
        | (true, s) => s.ctrLeave pa me
        | (false, s) => s

/-- A home event of a thread's request, for the opcode it belongs to. -/
def State.ctrHome (s : State) (sid slot t op : Nat) (range : Option Bool) : Res :=
  match s.entry sid slot with
  | none => .next s
  | some e =>
    let fits := e.raw.op.toNat == op && (match range with | some b => (e.raw.f == 1#3) == b | none => true)
    match e.accs.find? (fun a => a.thread == t && a.status == 5) with
    | some a => .next (if fits then s.ctrArrive sid slot e a else s)
    | none => .next s

/-- HOME_CTINIT (R264). -/
def execHomeCtinit (sid slot t : Nat) (s : State) : Res := s.ctrHome sid slot t 0xB0 none
/-- HOME_QUANTITY_TAKE (R256). -/
def execHomeQuantityTake (sid slot t : Nat) (s : State) : Res := s.ctrHome sid slot t 0xB1 (some false)
/-- HOME_RANGE_TAKE (R257). -/
def execHomeRangeTake (sid slot t : Nat) (s : State) : Res := s.ctrHome sid slot t 0xB1 (some true)
/-- GIVE_FLUSH (R266). -/
def execGiveFlush (sid slot t : Nat) (s : State) : Res := s.ctrHome sid slot t 0xB2 none
/-- EXACT_READ (R261). -/
def execExactRead (sid slot t : Nat) (s : State) : Res := s.ctrHome sid slot t 0xB3 none

/-- COUNTER_RECALL (R258): a holder freezes its entry and reports; the last report lets the request go on. -/
def execCounterRecall (core pa : Nat) (s : State) : Res :=
  match s.ctrRecalling pa with
  | none => .next s
  | some (sid, slot, t) =>
    let s := s.freeze core pa true
    match s.entry sid slot with
    | none => .next (s.ctrTidy pa)
    | some e => match e.accs.find? (fun a => a.thread == t && a.status == 5) with
      | some a => .next (if s.recalled e.raw (s.strand sid).core pa then s.ctrArrive sid slot e a else s)
      | none => .next s

/-- COUNTER_RETURN (R259): the return of a core's entry reaches the home, after the core's earlier requests (R272), and is served
in its turn. piece says whether it is a piece or an amount; init numbers the initialisation that the entry came from, and one from
an earlier initialisation changes no field of the block. -/
def execCounterReturn (core pa init : Nat) (piece : Bool) (s : State) : Res :=
  match s.allowOf core pa with
  | none => .next s
  | some a =>
    if !a.returning || a.init != init || a.range != piece || s.ctrSent core pa then .next s
    else match s.ctrTurn pa (.back core) with
      | (false, s) => .next s
      | (true, s) =>
        if s.writeBlocked (pa / 128) none (some core) true false then .next (s.noteBlocked (pa / 128) (some core))
        else
          let s := if init = s.ctrInit pa then s.applyReturn pa a.lo a.hi piece else s
          .next (((s.setAllow core pa none).endRequest pa [core]).ctrLeave pa (.back core))

/-! ## Operations of the host and of Uzoip firmware (R264) -/

/-- A take by the host or by firmware, which hold no entry (R451): what RESERVE lacks is brought home from every holder; one that still
fails changes nothing but FAILS. -/
def State.takeBy (s : State) (pa n : Nat) : State :=
  let s := if blkRn (s.blk pa) < n then (s.serveExact pa).2 else s
  let x := s.blk pa
  if n ≤ blkRn x then s.setBlk pa (blkSetRn x (blkRn x - n)) else s.setBlk pa (blkFail x)

/-- An operation of the host or of firmware, by its number, is served: false while it must wait. What it may not do changes nothing. -/
def State.ctrAct (s : State) (pa ident : Nat) (op : CtrOp) : Bool × State :=
  if !isHbm pa ∨ pa % 64 ≠ 0 then (true, s)
  else match s.ctrTurn pa (.act ident op) with
    | (false, s) => (false, s)
    | (true, s) =>
      if s.writeBlocked (pa / 128) none none true false then (false, s.noteBlocked (pa / 128) none)
      else
        let s := match op with
          | .init range priv u0 u1 u2 u3 =>
            let u (i : Nat) : Nat := if i = 0 then u0 else if i = 1 then u1 else if i = 2 then u2 else u3
            if initOk range u && (!range || u3 == 0 || isHbm u3) then (s.initCtr pa (initBlock range priv u (if range then u3 else 0))).endRequest pa []
            else s
          | .ext x => if (kvGet none s.homes.ctrs pa).isNone then s else (s.extendCtr pa x).2
          | .give n =>
            if (kvGet none s.homes.ctrs pa).isNone || blkKind (s.blk pa) != 1 || decide (ctrMax < n) then s else (s.serveAdd pa n).2
          | .take n => if (kvGet none s.homes.ctrs pa).isNone || blkKind (s.blk pa) != 1 then s else s.takeBy pa n
        (true, s.ctrLeave pa (.act ident op))

/-- The same, tried again as long as it must wait. -/
def State.ctrActs (s : State) (pa ident : Nat) (op : CtrOp) : State :=
  match s.ctrAct pa ident op with
  | (true, s) => s
  | (false, s) => s.park (.counter pa ident op)

end Sys2Proof.Machine
end

