-- ==== Sys2Proof/Machine/Matrix.lean ====
section
/-! DEFINITION. The matrix array (R274 to R293): weight state, the matrix queue, fills, plane loads, swaps, products, and the
instructions on accumulator rows. -/

namespace Sys2Proof.Machine

/-! ## Formats (R276) -/

/-- The class of a weight format: element bits. -/
def mClass (af : Nat) : Nat := if af = 9 ∨ af = 10 then 16 else if af = 13 then 6 else 8
def mDepth (af : Nat) (s24 : Bool) : Nat :=
  (if mClass af = 16 then 128 else if mClass af = 8 then 256 else 512) * (if s24 then 2 else 1)
def mW (af : Nat) : Nat := if mClass af = 6 then 384 else 256
def mS (af : Nat) (s24 : Bool) : Nat := if mClass af = 6 then mDepth af s24 / 32 else 0
def mM (af : Nat) (s24 : Bool) : Nat :=
  if !s24 then 0 else if mClass af = 16 then 32 else if mClass af = 8 then 64 else 128
def mR (af : Nat) (s24 : Bool) : Nat := mW af * (if s24 then 2 else 1)

/-- The first n elements of a class that bytes hold (R73, R276). -/
def unpack (cls n : Nat) (bs : List Byte) : List Nat :=
  let x := ofLe bs
  (nats n).map (fun e => x >>> (cls * e) % 2 ^ cls)

/-- An element with its exact value, its code and its scale. -/
structure Elem where
  ex : Ex
  code : Nat
  scale : Nat
  deriving DecidableEq, Repr

/-- An element of a format (R68, R75). -/
def elemOf (af scale code : Nat) : Elem := ⟨elemEx af scale code, code, scale⟩

/-- Prod of R283: exact, or the product of R76. -/
def prodOf (lns : Bool) (a w : Elem) : Ex := if lns then lnsProd a.scale a.code w.scale w.code else (exMul a.ex w.ex).1

/-! ## Planes (R274, R277, R278) -/

def Plane.elem (p : Plane) (col e : Nat) : Nat := (kvGet 0#16 p.elems (col * 1024 + e)).toNat
def Plane.scale (p : Plane) (col k : Nat) : Nat := (kvGet 0#8 p.scales (col * 32 + k / 32)).toNat
def Plane.nibble (p : Plane) (col g : Nat) : Nat := (kvGet 0#4 p.nibbles (col * 256 + g)).toNat

/-- The code of +0 in a format. -/
def zeroCode (af : Nat) : Nat := if af = 13 then 0x10 else 0

/-- The logical weight w_j(k) (R277). -/
def Plane.weight (p : Plane) (col k : Nat) : Elem :=
  let code := if p.s24 then
      let n := p.nibble col (k / 4)
      if k % 4 = n % 4 then p.elem col (2 * (k / 4))
      else if k % 4 = n / 4 then p.elem col (2 * (k / 4) + 1) else zeroCode p.af
    else p.elem col k
  elemOf p.af (p.scale col k) code

/-- A group's metadata is illegal (R277). -/
def badNibble (n : Nat) : Bool := decide (n / 4 ≤ n % 4)

/-- The channel map as it is used: the identity where none was loaded (R278). -/
def Plane.map (p : Plane) : List Nat := if p.chan.isEmpty then nats p.depth else p.chan

/-- A channel map of K entries of 16 bits is illegal (R278). -/
def badMap (k : Nat) (m : List Nat) : Bool := m.any (fun x => k ≤ x) || (dedup [] m).length != m.length

/-! ## Accumulator rows -/

def State.accAt (s : State) (cid row col : Nat) : Nat := (kvGet 0#40 (s.cohort cid).acc (row * 128 + col)).toNat

/-- An element as an instruction reads it: one whose parity fails is the canonical NaN (R291, R295). -/
def State.accRead (s : State) (cid row col : Nat) : Nat :=
  if (s.cohort cid).accBad.contains (row * 128 + col) then fmtFa40.nan else s.accAt cid row col

/-- Elements of the rows whose parity fails. -/
def State.accStruck (s : State) (cid row n : Nat) : List Nat :=
  (s.cohort cid).accBad.filter (fun k => row * 128 ≤ k && k < (row + n) * 128)

/-- Report the elements whose parity fails in the rows (R291). -/
def State.accReport (s : State) (cid row n : Nat) : State :=
  forEach (s.accStruck cid row n) s (fun s _ => (s.errorRecord (some (s.cohort cid).rid) clsUncorr 0).lifeAdd 7 1)

/-- Write a row: its elements from column 0 on. -/
def State.accPut (s : State) (cid row : Nat) (l : List Nat) : State :=
  let c := s.cohort cid
  s.setCohort cid { c with
    acc := forEach ((nats l.length).zip l) c.acc (fun m p => kvSet 0#40 m (row * 128 + p.1) (BitVec.ofNat 40 p.2)),
    accBad := c.accBad.filter (fun k => !(row * 128 ≤ k && k < row * 128 + l.length)) }

/-! ## The matrix queue (R279, R294) -/

/-- The path of an instruction (R279, R294). -/
def mPath (op : Nat) : Nat :=
  match op with
  | 0xD0 => 0
  | 0xD1 => 1
  | 0xD2 => 2
  | 0xD3 => 3
  | 0xD7 => 5
  | 0xD8 => 6
  | 0xD9 => 7
  | _ => 4

/-- The parts of its rows that an instruction reads and writes: elements, top-k row, row checksum (R294). -/
def mReads (r : Raw) : List Nat :=
  match r.op.toNat with
  | 0xD3 => [0]
  | 0xD5 => [0]
  | 0xD7 => if r.af = 3 then [1] else [0]
  | 0xD8 => if r.f = 0#3 then [0, 1] else if r.f = 2#3 then [1] else []
  | 0xD9 => if r.f = 2#3 then [] else [0, 2]
  | _ => []
def mWrites (r : Raw) : List Nat :=
  match r.op.toNat with
  | 0xD3 => if r.ck then [0, 2] else [0]
  | 0xD4 | 0xD6 => [0]
  | 0xD8 => if r.f = 2#3 then [] else [1]
  | 0xD9 => if r.f = 0#3 then [] else [2]
  | _ => []

/-- An instruction reads, or writes, the column checksums. -/
def mReadsCol (r : Raw) : Bool := r.op == 0xD9#8 && r.f != 2#3
def mWritesCol (r : Raw) : Bool := (r.op == 0xD3#8 && r.ck) || (r.op == 0xD9#8 && r.f != 0#3)

/-- Two entries touch a common row. -/
def MEnt.meets (a b : MEnt) : Bool := a.cid == b.cid && overlaps a.row0 a.rows b.row0 b.rows

/-- One of two lists of parts is written where the other touches it. -/
def partsClash (ra wa rb wb : List Nat) : Bool := wa.any (fun x => rb.contains x || wb.contains x) || wb.any ra.contains

/-- Two entries conflict (R279, R294). -/
def MEnt.conflicts (a b : MEnt) : Bool :=
  let x := mPath a.raw.op.toNat
  let y := mPath b.raw.op.toNat
  let pair (i j : Nat) : Bool := (x == i && y == j) || (x == j && y == i)
  (x == y && x != 2) || pair 0 1 || pair 2 1 || pair 2 3
    || (a.meets b && partsClash (mReads a.raw) (mWrites a.raw) (mReads b.raw) (mWrites b.raw))
    || (mWritesCol a.raw && (mReadsCol b.raw || mWritesCol b.raw)) || (mWritesCol b.raw && mReadsCol a.raw)

/-- The entries of the queue before one. -/
def entriesBefore (ident : Nat) (l : List MEnt) : List MEnt :=
  match l with
  | [] => []
  | e :: t => if e.ident = ident then [] else e :: entriesBefore ident t

/-- An entry may start. -/
def State.mayStart (s : State) (core : Nat) (e : MEnt) : Bool :=
  e.stage == 0 && !(entriesBefore e.ident (s.core core).mq).any e.conflicts

/-- Entries that may start now are due. -/
def State.pokeMatrix (s : State) (core : Nat) : State :=
  forEach (s.core core).mq s (fun s e => if s.mayStart core e then s.push (.matrixEntryStart core e.ident) else s)

def State.mEntry (s : State) (core ident : Nat) : Option MEnt := (s.core core).mq.find? (fun e => e.ident == ident)
def State.putMEntry (s : State) (core : Nat) (e : MEnt) : State :=
  s.modCore core (fun c => { c with mq := c.mq.map (fun x => if x.ident = e.ident then e else x) })

/-- Flip tiles of a cohort to a command or an entry. -/
def State.ownTiles (s : State) (cid ident : Nat) (tiles : List Nat) : State :=
  let c := s.cohort cid
  s.setCohort cid { c with owners := forEach tiles c.owners (fun m t => kvPut m t (ident + 1)) }

/-- Flip the tiles of a command or an entry back to the threads. -/
def State.freeTiles (s : State) (cid ident : Nat) : State :=
  let c := s.cohort cid
  s.setCohort cid { c with owners := c.owners.filter (fun o => o.2 != ident + 1) }

/-! ## Issue -/

/-- What an instruction's own checks find: it must wait, a precise fault, or what its entry holds. -/
inductive MPlan where
  | hold
  | fault (cls addr : Nat)
  | enter (tiles : List Nat) (row0 rows leave : Nat)
  deriving DecidableEq, Repr

/-- The count of a matrix instruction: S(B) or IMM32, 0 taken as 1 (R285). -/
def Strand.mCount (st : Strand) (r : Raw) : Nat :=
  let c := if r.bImm then r.imm32 else st.s r.b
  if c = 0 then 1 else c

/-- A B-slice offset, and an accumulator row (R285). -/
def Strand.bOffset (st : Strand) (r : Raw) : Nat := st.s r.ab + 32 * r.acc
def Strand.mRow (st : Strand) (r : Raw) : Nat := st.s r.ab + r.acc

/-- The rows lie within the cohort's. -/
def State.rowsOk (s : State) (st : Strand) (row n : Nat) : Bool := decide (row + n ≤ (s.cohort st.cid).rows)

/-- A scratchpad range of an engine or a matrix instruction: its alignment, the allocation, the owners of its tiles. -/
def State.rangeFault (s : State) (st : Strand) (off n al : Nat) : Option (Nat × Nat) :=
  match s.spadCheck st.cid off n al with
  | some c => some (c, off % 2 ^ 56)
  | none => none

/-- The registers that a matrix instruction marks empty: its status, or the run of MRD (R280, R290). -/
def Strand.mDest (st : Strand) (r : Raw) : List Nat :=
  let op := r.op.toNat
  if op = 0xD6 then []
  else if op = 0xD5 then natsFrom (keyV r.d.toNat) ((if r.af = 14 then 4 else 2) * st.rowsOf r)
  else [keyS r.d.toNat]

/-- The run that MWR reads, register by register. -/
def Strand.mVals (st : Strand) (r : Raw) (n : Nat) : KV Word :=
  if r.op ≠ 0xD6#8 then []
  else forEach (nats ((if r.af = 14 then 4 else 2) * n)) [] (fun m i =>
    forEach (nats 64) m (fun m t => kvSet 0#32 m (i * 64 + t) (BitVec.ofNat 32 (st.v (r.d.toNat + i) t))))

/-- The injector strikes the first product issued after it was armed whose rows include ROW (R309). -/
def State.injects (s : State) (core cid : Nat) (r : Raw) (row n : Nat) : Bool :=
  let w := (s.core core).weight
  let x := w.minj.toNat
  r.op == 0xD3#8 && bit x 63 && w.minjCohort == some cid && row ≤ bits x 21 13 && bits x 21 13 < row + n
    && !(s.core core).mq.any (fun e => e.inject)

/-- The weight state passes to another context (R275). -/
def Weight.claim (w : Weight) (asid : Nat) : Weight :=
  if w.asid = some asid then w
  else { w with bslice := [], bsliceBad := [], active := { w.active with valid := false },
                shadow := { w.shadow with valid := false }, asid := some asid }

def State.modWeight (s : State) (core : Nat) (f : Weight → Weight) : State :=
  s.modCore core (fun c => { c with weight := f c.weight })

/-- An access of the strand to one of the tiles waits in its log: it comes before the tiles flip (R187). -/
def State.tilesBusy (s : State) (sid : Nat) (tiles : List Nat) : Bool :=
  (s.strand sid).log.any (fun p => p.2.accs.any (fun a =>
    a.pendingAcc && a.status != 4 && decide (spadVa ≤ a.va) && (tilesOf (a.va - spadVa) a.size).any tiles.contains))

/-- Enter an instruction into the queue: its tiles flip, its destination is empty, and MFILL from memory and MRD take their log
entries (R198, R291). A fill or a plane load that may start at once has the weight state from then on; an MSWAP of another context
meets no valid plane (R275; DEDUCED, log 33). -/
def State.enterMatrix (s : State) (sid : Nat) (r : Raw) (tiles : List Nat) (row0 rows leave : Nat) : State :=
  let st := s.strand sid
  let core := st.core
  let (ident, s) := s.nextId
  let a := st.s r.a.toNat
  let n := st.mCount r
  let logs := r.needsLog
  let w := (s.core core).weight
  let e : MEnt :=
    { ident := ident, sid := sid, cid := st.cid, rid := st.rid, raw := r, pc := st.pc.toNat, seq := s.seq, stage := 0,
      aval := a, bval := n, abval := if r.op = 0xD0#8 ∨ r.op = 0xD1#8 then st.bOffset r else st.mRow r,
      vals := st.mVals r n, rm := st.rmOf r, tiles := tiles, row0 := row0, rows := rows, leave := leave,
      status := if r.op = 0xD2#8 ∧ w.asid ≠ some (s.asidOf st) then 8 else 0, progress := 0, inject := s.injects core st.cid r row0 rows, flags := 0, events := (0, 0, 0), logSlot := none, inbox := none,
      grant := none, retryAt := 0 }
  let (slot, s) := if logs then
      let acc := if r.op = 0xD0#8 then newAcc 0 (a % 2 ^ 56) (128 * n) 0 false else newAcc 0 0 0 0 false
      let (i, s) := s.logged sid r [acc] (st.mDest r) false
      (some i, s)
    else
      let (_, s) := s.nextSeq
      (none, s.modStrand sid (fun st => (st.emptyAll (st.mDest r)).next r.bytes))
  let s := s.ownTiles st.cid ident tiles
  let s := s.modCore core (fun c => { c with mq := c.mq ++ [{ e with logSlot := slot }] })
  let s := if (r.op = 0xD0#8 ∨ r.op = 0xD1#8) ∧ s.mayStart core e then s.modWeight core (fun w => w.claim (s.region e.rid).asid)
    else s
  s.pokeMatrix core

/-- A matrix instruction issues (R279, R282): a place in the queue, all 64 threads active, its checks, its leave. A hot
array accepts a new MMUL only every 256 cycles (R453). -/
def State.issueMatrix (s : State) (r : Raw) (plan : State → Strand → MPlan) : Res :=
  s.issue r (fun sid s =>
    let st := s.strand sid
    let hot := s.pkg.overTemp && r.op == 0xD3#8
    if 16 ≤ (s.core st.core).mq.length || (hot && decide (s.cycle < (s.core st.core).mmulAt)) then s
    else if st.amask ≠ BitVec.allOnes 64 then s.fault sid r clsConverge 0
    else match plan s st with
      | .hold => s
      | .fault c a => s.fault sid r c a
      | .enter tiles row0 rows leave =>
        if s.tilesBusy sid tiles then s
        else
          let (ok, s) := s.takeLeave sid leave (s.asidOf st) (s.regionOf st).pool
          if ok then
            let s := if r.op = 0xD3#8 then s.modCore st.core (fun c => { c with mmulAt := s.cycle + 256 }) else s
            s.enterMatrix sid r tiles row0 rows leave
          else s)

/-! ## Completion (R280) -/

/-- The injected flip (R309). -/
def State.flip (s : State) (core cid : Nat) : State :=
  let w := (s.core core).weight
  let x := w.minj.toNat
  let c := s.cohort cid
  let k := bits x 21 13 * 128 + bits x 12 6
  let v := (kvGet 0#40 c.acc k).toNat ^^^ 2 ^ bits x 5 0
  let s := s.setCohort cid { c with acc := kvSet 0#40 c.acc k (BitVec.ofNat 40 v), accBad := c.accBad.filter (· != k) }
  s.modCore core (fun y => { y with weight := { w with minj := BitVec.ofNat 64 (setBits x 63 63 0), minjCohort := none } })

/-- The status reaches its register, or the run of MRD its registers, with its flags. -/
def Strand.matrixResult (st : Strand) (e : MEnt) : Strand :=
  let op := e.raw.op.toNat
  if op = 0xD6 then st
  else if op = 0xD5 then
    let n := (if e.raw.af = 14 then 4 else 2) * e.rows
    let st := forEach (nats n) st (fun st i => forEach (nats 64) st (fun st t =>
      st.setV (e.raw.d.toNat + i) t (kvGet 0#32 e.vals (i * 64 + t)).toNat))
    (st.fullAll (natsFrom (keyV e.raw.d.toNat) n)).addFlags e.flags.toNat
  else (st.setS e.raw.d.toNat e.status).markFull (keyS e.raw.d.toNat)

/-- An entry completes: the flip, tiles back, leave back, then its status; classes of kind A follow. -/
def State.completeMatrix (s : State) (core : Nat) (e : MEnt) : State :=
  let s := if e.inject then s.flip core e.cid else s
  let s := s.freeTiles e.cid e.ident
  let s := s.giveLeave core e.leave (s.region e.rid).asid (s.region e.rid).pool
  let s := s.modCore core (fun c => { c with mq := c.mq.filter (fun x => x.ident != e.ident) })
  let s := s.modStrand e.sid (fun st => if st.life = .ended then st else st.matrixResult e)
  let op := e.raw.op.toNat
  let s := if (op = 0xD1 ∨ op = 0xD2) ∧ e.status = 8 ∧ e.progress = 0 then
      s.laterClass e.sid clsSparse e.pc 0 e.seq (rawWords e.raw) else s
  let (cross, s) := s.countEvents e.rid e.events
  let s := if cross then s.laterClass e.sid clsThresh e.pc 0 e.seq (rawWords e.raw) else s
  let s := match e.logSlot with
    | some i => s.finishEntry e.sid i
    | none => s
  (s.pokeMatrix core).cohortCheck e.cid

/-! ## Reading scratchpad and the weight store -/

/-- The bytes of a scratchpad range, with free values in the words that an error struck (R448, log 12), and whether there
was one. -/
def State.engineSpad (s : State) (cid off n : Nat) : List Byte × Bool × State :=
  let bad (i : Nat) : Bool := s.spadStruck cid (off + i) 1
  if !s.spadStruck cid off n then (s.spadBytes cid off n, false, s)
  else
    let (bs, s) := forEach (nats n) (([] : List Byte), s) (fun (l, s) i =>
      if bad i then
        let (v, s) := s.freeVal
        (l ++ [BitVec.ofNat 8 v], s)
      else (l ++ [s.spadByte cid (off + i)], s))
    (bs, true, (s.errorRecord (some (s.cohort cid).rid) clsUncorr 0).lifeAdd 2 1)

/-- The grant of a region (R425): die, first byte within the die, bytes; none when the entry counts as empty. -/
def State.grantOf (s : State) (rid : Nat) : Option (Nat × Nat × Nat) :=
  let x := s.numAt (s.reg 0x970 % 2 ^ 56 + 16 * (s.region rid).rcb.wsg) 16
  let len := bits x 63 32
  let base := bits x 15 0
  if bit x 127 ∧ bits x 126 113 = 0 ∧ bits x 79 64 = 0 ∧ bits x 31 16 = 0 ∧ 1 ≤ len ∧ base + len ≤ 65536 then
    some (bits x 112 112, 65536 * base, 65536 * len)
  else none

/-- The weight-store address of a legal range of a grant, as die * 2^32 + offset. -/
def wsPlace (g : Option (Nat × Nat × Nat)) (x n : Nat) : Option Nat :=
  match g with
  | some (die, base, len) => if x + n ≤ len then some (die * 2 ^ 32 + base + x) else none
  | none => none
/-- The same for a region, as the grant table has it now. -/
def State.wsAddr (s : State) (rid x n : Nat) : Option Nat := wsPlace (s.grantOf rid) x n

/-- The refresh window of a bank is open (R36). -/
def State.bankRefreshes (s : State) (bank : Nat) : Bool :=
  let t := s.ns % 32000
  2000 * bank ≤ t && t < 2000 * bank + 1200

/-- A weight-store range touches a bank that refreshes now (R427). -/
def State.wsRefreshes (s : State) (addr n : Nat) : Bool :=
  (natsFrom (addr / 65536) ((addr + n - 1) / 65536 + 1 - addr / 65536)).any (fun u => s.bankRefreshes (u % 16))

/-- An uncorrectable error struck a word of a weight-store range. -/
def State.wsStruck (s : State) (addr n : Nat) : Bool := s.pkg.wstoreBad.any (fun w => overlaps (8 * w) 8 addr n)

def State.wsBytes (s : State) (addr n : Nat) : List Byte := (nats n).map (fun i => kvGet 0#8 s.pkg.wstore (addr + i))

/-! ## MFILL (R286) -/

/-- Put bytes into the B-slice of a column. -/
def Weight.fill (w : Weight) (col off : Nat) (bs : List Byte) : Weight :=
  let k := col * 16384 + off
  { w with bslice := forEach (cellsOf k bs) w.bslice (fun m p => kvSet 0#8 m p.1 p.2),
           bsliceBad := w.bsliceBad.filter (fun b => !(decide (k ≤ 8 * b) && decide (8 * b + 8 ≤ k + bs.length))) }

/-- What reading 32 bytes for a fill gives: the bytes, none for a word that cannot be read, a wait, a fault. -/
inductive FillR where
  | bytes (bs : List Byte)
  | lost
  | wait
  | fault (cls : Nat)
  deriving DecidableEq, Repr

/-- Read the 32 bytes of a fill from a position of its source, at their home, which may be a peer's (R281, R438). -/
def State.fillRead (s : State) (core : Nat) (e : MEnt) (x : Nat) : FillR × State :=
  let r := s.region e.rid
  if e.raw.f = 0#3 then
    let va := (e.aval + x) % 2 ^ 56
    if s.behind e.sid e.seq (newAcc 0 va 32 0 false) then (.wait, s)
    else match s.strongRead ⟨core, none, r.asid, r.isSystem⟩ va 32 0 with
      | (.ok v, s) => (.bytes (leBytes 32 v), s)
      | (.wait, s) => (.wait, s)
      | (.remote pa, s) =>
        (match e.inbox with
          | some bs => (.bytes bs, s)
          | none =>
            if s.fabric.peers.any (fun q => q.slot == 8 + core && q.sid == e.ident) then (.wait, s)
            else match s.windowAccess e.ident (8 + core) 0 core pa 32 15 none with
              | (.fault c, s) => (.fault c, s)
              | (_, s) => (.wait, s))
      | (.fault c, s) =>
        if c = clsUncorr then (.lost, s.errorRecord (some e.rid) clsUncorr va) else (.fault c, s)
  else if e.raw.f = 1#3 then
    match wsPlace e.grant (e.aval + x) 32 with
    | none => (.fault clsProt, s)
    | some a =>
      if s.wsRefreshes a 32 then (.wait, s)
      else if s.wsStruck a 32 then (.lost, (s.errorRecord (some e.rid) clsUncorr a).lifeAdd 9 1)
      else (.bytes (s.wsBytes a 32), s)
  else if s.spadStruck e.cid (e.aval + x) 32 then (.lost, (s.errorRecord (some e.rid) clsUncorr 0).lifeAdd 2 1)
  else (.bytes (s.spadBytes e.cid (e.aval + x) 32), s)

/-- Go on with a fill, at most n pieces of 32 bytes; with the class of a fault that it meets. A piece of which an error struck a word is
left out whole, and the B-slice keeps its bytes there (DESIGN CHOICE, log 54). -/
def State.fillLoop (s : State) (core n : Nat) (e : MEnt) : MEnt × Option Nat × State :=
  match n with
  | 0 => ({ e with stage := 1 }, none, s)
  | n + 1 =>
    let x := e.progress
    match s.fillRead core e x with
    | (.wait, s) => (e, none, s)
    | (.fault c, s) => ({ e with stage := 2 }, some c, s)
    | (.lost, s) => s.fillLoop core n { e with progress := x + 32, status := 9, inbox := none }
    | (.bytes bs, s) =>
      let s := s.modWeight core (fun w => w.fill (x / e.bval) (e.abval + x % e.bval) bs)
      s.fillLoop core n { e with progress := x + 32, inbox := none }

/-- A fill whose log entry is gone, since its strand has ended, completes with status 9 (R201, R286). -/
def State.fillGone (s : State) (core ident sid slot : Nat) : State :=
  if (s.entry sid slot).isSome then s
  else s.modCore core (fun c => { c with mq := c.mq.map (fun (x : MEnt) =>
    if x.ident = ident then { x with stage := 1, status := 9, logSlot := none } else x) })

/-- A fill whose source fails holds its log entry, with the first unwritten byte as its address (R286). -/
def State.fillHeld (s : State) (core : Nat) (e : MEnt) (status : Nat) : State :=
  match e.logSlot with
  | none => s
  | some i => match s.entry e.sid i with
    | none => s
    | some l =>
      let fail (a : Acc) : Acc := s.failAcc { a with va := (e.aval + e.progress) % 2 ^ 56, size := 128 * e.bval - e.progress } status
      (((s.putEntry e.sid i ({ l with accs := l.accs.map fail }).refresh).askTriage status).entryFailed e.sid i).fillGone
        core e.ident e.sid i

/-- The log entry of a fill names its first unwritten byte and what follows (R205). -/
def State.fillMark (s : State) (e : MEnt) : State :=
  match e.logSlot with
  | none => s
  | some i => match s.entry e.sid i with
    | none => s
    | some l =>
      let mark (a : Acc) : Acc := { a with va := (e.aval + e.progress) % 2 ^ 56, size := 128 * e.bval - e.progress }
      s.putEntry e.sid i ({ l with accs := l.accs.map mark }).refresh

/-- MFILL starts, or goes on. A fill whose grant is empty, or has become too short, when it starts raises the protection class after it
has issued: status 9 and the class at the strand's next boundary (R425; DESIGN CHOICE, log 54). -/
def State.startFill (s : State) (core : Nat) (e : MEnt) : State :=
  let s := s.modWeight core (fun w => w.claim (s.region e.rid).asid)
  let e := if e.raw.f = 1#3 ∧ e.grant = none then { e with grant := s.grantOf e.rid } else e
  match s.fillLoop core ((128 * e.bval - e.progress) / 32) e with
  | (e, none, s) => (s.putMEntry core e).fillMark e
  | (e, some c, s) =>
    if e.raw.f = 1#3 then (s.putMEntry core { e with stage := 1, status := 9 }).laterClass e.sid c e.pc 0 e.seq (rawWords e.raw)
    else (s.putMEntry core e).fillHeld core e c

/-! ## MLDW (R287) -/

/-- The image of a column. -/
def Weight.image (w : Weight) (col off n : Nat) : List Byte := (nats n).map (fun i => kvGet 0#8 w.bslice (col * 16384 + off + i))

/-- The plane that images at an offset describe; its checksum rows follow. -/
def Weight.planeAt (w : Weight) (af : Nat) (s24 : Bool) (off : Nat) (chan : List Nat) : Plane :=
  let k := mDepth af s24
  let stored := if s24 then k / 2 else k
  let cls := mClass af
  let (wb, sb, mb) := (mW af, mS af s24, mM af s24)
  let cols := nats 128
  let put16 (m : KV (BitVec 16)) (col : Nat) : KV (BitVec 16) :=
    m ++ ((nats stored).zip (unpack cls stored (w.image col off wb))).filterMap (fun p =>
      if p.2 = 0 then none else some (col * 1024 + p.1, BitVec.ofNat 16 p.2))
  let put8 (m : KV Byte) (col : Nat) : KV Byte :=
    m ++ ((nats sb).zip (w.image col (off + wb) sb)).filterMap (fun p => if p.2 = 0 then none else some (col * 32 + p.1, p.2))
  let put4 (m : KV (BitVec 4)) (col : Nat) : KV (BitVec 4) :=
    m ++ ((nats (2 * mb)).zip (unpack 4 (2 * mb) (w.image col (off + wb + sb) mb))).filterMap (fun p =>
      if p.2 = 0 then none else some (col * 256 + p.1, BitVec.ofNat 4 p.2))
  { af := af, s24 := s24, depth := k, elems := forEach cols [] put16, scales := forEach cols [] put8,
    nibbles := forEach cols [] put4, chan := chan, rowSums := [], ckv := false, valid := true }

/-- The checksum row sums (R305). -/
def Plane.withSums (p : Plane) : Plane :=
  { p with ckv := true,
           rowSums := (nats p.depth).filterMap (fun k =>
             let x := (roundEx fmtF32 0 0 (exSum 0 ((nats 128).map (fun j => (p.weight j k).ex))).1).bits
             if x = 0 then none else some (k, BitVec.ofNat 32 x)) }

/-- A plane with illegal metadata. -/
def Plane.badMeta (p : Plane) : Bool :=
  p.s24 && (nats 128).any (fun j => (nats (p.depth / 4)).any (fun g => badNibble (p.nibble j g)))

/-- MLDW starts. Where an error struck a word of its channel map it ends with status 9 (R448), and that the shadow plane is then
overwritten and not valid, without a class, is the model's choice (DESIGN CHOICE, log 54). -/
def State.startLoad (s : State) (core : Nat) (e : MEnt) : State :=
  let r := e.raw
  let s := s.modWeight core (fun w => w.claim (s.region e.rid).asid)
  let s24 := bit r.ymod 0
  let k := mDepth r.af s24
  let len := mW r.af + mS r.af s24 + mM r.af s24
  let (bs, struck, s) := if bit r.ymod 1 then s.engineSpad e.cid e.aval (2 * k) else ([], false, s)
  let chan := unpack 16 (bs.length / 2) bs
  let w := (s.core core).weight
  let bad := w.bsliceBad.any (fun b => (nats 128).any (fun j => overlaps (8 * b) 8 (j * 16384 + e.abval) len))
  let p := w.planeAt r.af s24 e.abval chan
  let p := if r.ck then p.withSums else p
  let put (v : Bool) (s : State) : State := s.modWeight core (fun w => { w with shadow := { p with valid := v } })
  let done (st prog : Nat) (s : State) : State := s.putMEntry core { e with stage := 1, status := st, progress := prog }
  if bad then done 8 1 (put false ((s.errorRecord (some e.rid) clsUncorr 0).lifeAdd 6 1))
  else if struck then done 9 0 (put false s)
  else if p.badMeta ∨ badMap k chan then done 8 0 (put false s)
  else done 0 0 (put true s)

/-! ## MSWAP (R288) -/

/-- MSWAP starts. -/
def State.startSwap (s : State) (core : Nat) (e : MEnt) : State :=
  let w := (s.core core).weight
  if e.status = 0 ∧ w.shadow.valid ∧ w.asid = some (s.region e.rid).asid then
    (s.modWeight core (fun w => { w with active := w.shadow, shadow := w.active })).putMEntry core { e with stage := 1, status := 0 }
  else s.putMEntry core { e with stage := 1, status := 8 }

/-! ## MMUL (R283, R289, R306) -/

/-- The sum of R283 over products, eight at a time, at most n groups. -/
def sumGroups (n acc : Nat) (l : List Ex) : Nat :=
  match n with
  | 0 => acc
  | n + 1 =>
    match l with
    | [] => acc
    | _ =>
      let ps := (exSum 0 (l.take 8)).1
      sumGroups n (roundEx fmtFa40 0 0 (exAdd 0 (fmtFa40.value acc) ps).1).bits (l.drop 8)

/-- The A elements of row r of a stream of n rows. -/
def rowElems (p : Plane) (af : Nat) (bs : List Byte) (n r : Nat) : List Elem :=
  let rb := mR p.af p.s24
  let scale := if p.af = 13 then (listAt 0#8 bs (n * rb + r)).toNat else 0
  (unpack (mClass p.af) p.depth ((bs.drop (r * rb)).take rb)).map (elemOf af scale)

/-- Elements in the order of the slots. -/
def mapped (m : List Nat) (l : List Elem) : List Elem := m.map (fun i => listAt ⟨.nan, 0, 0⟩ l i)

/-- One row through the array. -/
def State.streamRow (s : State) (cid row : Nat) (lns : Bool) (a : List Elem) (cols : List (List Elem)) : State :=
  s.accPut cid row (((nats 128).zip cols).map (fun p =>
    sumGroups (p.2.length / 8) (s.accRead cid row p.1) ((a.zip p.2).map (fun x => prodOf lns x.1 x.2))))

/-- A checksum with a sum added (R306). -/
def addSum (old : Nat) (x : Ex) : Nat := (roundEx fmtF32 0 0 (exAdd 0 (fmtF32.value old) x).1).bits

/-- The exact sum of products of values. -/
def dot (a b : List Ex) : Ex := (exSum 0 ((a.zip b).map (fun p => (exMul p.1 p.2).1))).1

/-- COLCK passes to another context (R304). -/
def Weight.claimCol (w : Weight) (asid : Nat) : Weight :=
  if w.colckAsid = some asid then w else { w with colck := [], colckBad := [], colckAsid := some asid }

/-- A row checksum and a column checksum as they are read: one whose parity fails is the canonical NaN (R304). -/
def State.rowSum (s : State) (cid row : Nat) : Nat :=
  if (s.cohort cid).rowckBad.contains row then fmtF32.nan else (kvGet 0#32 (s.cohort cid).rowck row).toNat
def Weight.colSum (w : Weight) (col : Nat) : Nat :=
  if w.colckBad.contains col then fmtF32.nan else (kvGet 0#32 w.colck col).toNat

/-- The checksum lane of MMUL (R306). -/
def State.checksumLane (s : State) (core : Nat) (e : MEnt) (p : Plane) (rows : List (List Elem)) : State :=
  let rs := (nats p.depth).map (fun k => fmtF32.value (kvGet 0#32 p.rowSums k).toNat)
  let c := s.cohort e.cid
  let s := s.setCohort e.cid { c with
    rowck := forEach ((nats e.rows).zip rows) c.rowck (fun m x =>
      kvSet 0#32 m (e.row0 + x.1) (BitVec.ofNat 32 (addSum (s.rowSum e.cid (e.row0 + x.1)) (dot (x.2.map Elem.ex) rs)))),
    rowckBad := c.rowckBad.filter (fun i => !(e.row0 ≤ i && i < e.row0 + e.rows)) }
  let cs := (nats p.depth).map (fun k => (exSum 0 (rows.map (fun r => (listAt ⟨.nan, 0, 0⟩ r k).ex))).1)
  s.modWeight core (fun w =>
    let w := w.claimCol (s.region e.rid).asid
    { w with colck := forEach (nats 128) w.colck (fun m j =>
        kvSet 0#32 m j (BitVec.ofNat 32 (addSum (w.colSum j) (dot cs ((nats p.depth).map (fun k => (p.weight j k).ex)))))),
             colckBad := [] })

/-- MMUL starts. -/
def State.startMul (s : State) (core : Nat) (e : MEnt) : State :=
  let p := (s.core core).weight.active
  let n := e.rows
  let (bs, struck, s) := s.engineSpad e.cid e.aval (n * mR p.af p.s24 + (if p.af = 13 then n else 0))
  let s := s.accReport e.cid e.row0 n
  let rows := (nats n).map (rowElems p e.raw.af bs n)
  let m := p.map
  let cols := (nats 128).map (fun j => mapped m ((nats p.depth).map (p.weight j)))
  let s := forEach ((nats n).zip rows) s (fun s x => s.streamRow e.cid (e.row0 + x.1) (p.af == 13) (mapped m x.2) cols)
  let s := if e.raw.ck then s.checksumLane core e p rows else s
  s.putMEntry core { e with stage := 1, status := if struck then 9 else 0 }

/-! ## Rows (R290) -/

/-- MRD's registers hold a row's element: the register of the run, the thread, the word. -/
def rowWords (af i col x : Nat) : List (Nat × Word) :=
  let t := col % 64
  let h := col / 64
  if af = 14 then [((4 * i + 2 * h) * 64 + t, BitVec.ofNat 32 x), ((4 * i + 2 * h + 1) * 64 + t, BitVec.ofNat 32 (x / 2 ^ 32))]
  else [((2 * i + h) * 64 + t, BitVec.ofNat 32 x)]

/-- An element that MWR writes. -/
def rowElem (af : Nat) (vals : KV Word) (i col : Nat) : Nat :=
  let t := col % 64
  let h := col / 64
  let w (j : Nat) : Nat := (kvGet 0#32 vals (j * 64 + t)).toNat
  let x := if af = 14 then fmtFa40.value (w (4 * i + 2 * h) + w (4 * i + 2 * h + 1) % 256 * 2 ^ 32)
    else fmtF32.value (w (2 * i + h))
  (roundEx fmtFa40 0 0 x).bits

/-- MZERO and MWR start. -/
def State.startWrite (s : State) (core : Nat) (e : MEnt) : State :=
  let row (i : Nat) : List Nat :=
    (nats 128).map (fun c => if e.raw.op = 0xD6#8 then rowElem e.raw.af e.vals i c else 0)
  (forEach (nats e.rows) s (fun s i => s.accPut e.cid (e.row0 + i) (row i))).putMEntry core { e with stage := 1 }

/-- A parity error that MRD meets raises the uncorrectable-error class on its destination (R291): its log entry is held. -/
def State.readHeld (s : State) (core : Nat) (e : MEnt) : State :=
  let s := s.accReport e.cid e.row0 e.rows
  match e.logSlot with
  | none => s
  | some i => match s.entry e.sid i with
    | none => s
    | some l =>
      ((s.putEntry e.sid i ({ l with accs := l.accs.map (fun a => s.failAcc a clsUncorr) }).refresh).putMEntry core
        { e with stage := 2 }).entryFailed e.sid i

/-- MRD starts: an element that it reads as FA40 keeps its bits, but for a NaN, which is the canonical one (R70). One that fails its
parity for a strand that has ended goes to the host with its record (R201, R291). -/
def State.startRead (s : State) (core : Nat) (e : MEnt) : State :=
  let struck := !(s.accStruck e.cid e.row0 e.rows).isEmpty
  let ended := (s.strand e.sid).life == .ended
  if struck && !ended then s.readHeld core e
  else
    let s := if struck then (s.accReport e.cid e.row0 e.rows).laterClass e.sid clsUncorr e.pc 0 e.seq (rawWords e.raw) else s
    let pol := if bit e.raw.ymod 3 then 1 else 0
    let one (i c : Nat) : Rounded :=
      let x := s.accRead e.cid (e.row0 + i) c
      if e.raw.af = 14 then ⟨if fmtFa40.value x = .nan then fmtFa40.nan else x, 0, 0⟩ else roundEx fmtF32 e.rm pol (fmtFa40.value x)
    let all := (nats e.rows).flatMap (fun i => (nats 128).map (fun c => (i, c, one i c)))
    let vals := forEach all ([] : KV Word) (fun m x => forEach (rowWords e.raw.af x.1 x.2.1 x.2.2.bits) m (fun m p => kvSet 0#32 m p.1 p.2))
    s.putMEntry core { e with stage := 1, vals := vals, flags := BitVec.ofNat 5 (all.foldl (fun f x => f ||| x.2.2.flags) 0) }

/-! ## The instructions (R285 to R290) -/

/-- MFILL's checks (R286). That the alignment is looked at first, then the length and the B-slice's range, the source's range, and the
tiles' owner, is the model's choice, as for MLDW: R289 orders those of MMUL alone (DESIGN CHOICE, log 54). -/
def State.planFill (r : Raw) (s : State) (st : Strand) : MPlan :=
  let a := st.s r.a.toNat
  let n := if r.bImm then r.imm32 else st.s r.b
  let o := st.bOffset r
  if a % 32 ≠ 0 then .fault clsAlign (a % 2 ^ 56)
  else if n % 32 ≠ 0 ∨ n < 32 ∨ 16384 < o + n then .fault clsProt 0
  else if r.f = 1#3 then (if (s.wsAddr st.rid a (128 * n)).isSome then .enter [] 0 0 0 else .fault clsProt (a % 2 ^ 56))
  else if r.f = 2#3 then
    (match s.rangeFault st a (128 * n) 0 with
      | some (c, x) => .fault c x
      | none => .enter (tilesOf a (128 * n)) 0 0 0)
  else .enter [] 0 0 0

def execMfill (o : YOps) (s : State) : Res := s.issueMatrix (rawY 0xD0 o) (State.planFill (rawY 0xD0 o))

/-- MLDW's checks (R287). -/
def State.planLoad (r : Raw) (s : State) (st : Strand) : MPlan :=
  let s24 := bit r.ymod 0
  let o := st.bOffset r
  let a := st.s r.a.toNat
  let k := mDepth r.af s24
  if o % 32 ≠ 0 then .fault clsAlign (o % 2 ^ 56)
  else if 16384 < o + mW r.af + mS r.af s24 + mM r.af s24 then .fault clsProt 0
  else if bit r.ymod 1 then
    (match s.rangeFault st a (2 * k) 0 with
      | some (c, x) => .fault c x
      | none => .enter (tilesOf a (2 * k)) 0 0 2)
  else .enter [] 0 0 2

def execMldw (o : YOps) (s : State) : Res := s.issueMatrix (rawY 0xD1 o) (State.planLoad (rawY 0xD1 o))

/-- MSWAP (R288). -/
def execMswap (o : YOps) (s : State) : Res := s.issueMatrix (rawY 0xD2 o) (fun _ _ => .enter [] 0 0 0)

/-- MMUL's checks, in their order (R289). -/
def State.planMul (r : Raw) (s : State) (st : Strand) : MPlan :=
  let a := st.s r.a.toNat
  let n := st.mCount r
  let row := st.mRow r
  let w := (s.core st.core).weight
  let p := w.active
  let len := n * mR p.af p.s24 + (if p.af = 13 then n else 0)
  if a % 256 ≠ 0 then .fault clsAlign (a % 2 ^ 56)
  else if 512 < n ∨ !s.rowsOk st row n then .fault clsProt 0
  else if (s.core st.core).mq.any (fun e => e.raw.op == 0xD2#8) then .hold
  else if !p.valid ∨ w.asid ≠ some (s.asidOf st) ∨ mClass p.af ≠ mClass r.af ∨ (r.ck ∧ !p.ckv) then .fault clsFormat 0
  else match s.rangeFault st a len 0 with
    | some (c, x) => .fault c x
    | none => .enter (tilesOf a len) row n (if 64 < n then 36 else 0)

def execMmul (o : YOps) (s : State) : Res := s.issueMatrix (rawY 0xD3 o) (State.planMul (rawY 0xD3 o))

/-- The checks of MZERO, MRD and MWR: rows, and at most so many of them (R290). -/
def State.planRows (r : Raw) (most : Nat) (s : State) (st : Strand) : MPlan :=
  let n := st.mCount r
  if most < n ∨ !s.rowsOk st (st.mRow r) n then .fault clsProt 0 else .enter [] (st.mRow r) n 0

def execMzero (o : YOps) (s : State) : Res := s.issueMatrix (rawY 0xD4 o) (State.planRows (rawY 0xD4 o) 512)
def execMrd (o : YOps) (s : State) : Res := s.issueMatrix (rawY 0xD5 o) (State.planRows (rawY 0xD5 o) 16)
def execMwr (o : YOps) (s : State) : Res := s.issueMatrix (rawY 0xD6 o) (State.planRows (rawY 0xD6 o) 16)

/-- MATRIX_COMPLETION (R280): an entry whose effect has taken place completes. -/
def execMatrixCompletion (core ident : Nat) (s : State) : Res :=
  match s.mEntry core ident with
  | some e => .next (if e.stage = 1 then s.completeMatrix core e else s)
  | none => .next s

/-- POWER_LEAVE_RETRY (R282): a strand whose take of leave failed takes it again, as it issues its instruction again. -/
def execPowerLeaveRetry (core sid : Nat) (s : State) : Res :=
  let st := s.strand sid
  .next (if st.core = core ∧ s.cycle < st.stallUntil then s.modStrand sid (fun st => { st with stallUntil := s.cycle }) else s)

end Sys2Proof.Machine
end

