-- ==== Sys2Proof/Machine/Epilogue.lean ====
section
/-! DEFINITION. The epilogue, the comparator tree and the checksum lane (R294 to R308), and the start of a matrix queue entry. -/

namespace Sys2Proof.Machine

/-! ## MEPI (R297, R298) -/

/-- The row stride of an output format. -/
def outStride (af : Nat) : Nat :=
  match af with
  | 8 => 512
  | 9 | 10 => 256
  | 13 => 96
  | _ => 128

/-- The bits of an element of a format. -/
def outBits (af : Nat) : Nat := tyWidth af

/-- Elements packed one after another. -/
def packElems (w : Nat) (l : List Nat) : Nat := joinElems w l

/-- The activation of a plain MEPI on an exact value. -/
def activate (act lo hi : Nat) (y : Ex) : Ex :=
  let l := fmtF32.value lo
  let h := fmtF32.value hi
  if y.isNan then y
  else if act = 1 then (if y.isNeg then .fin false 0 0 else y)
  else if act = 2 then
    let y := if !l.isNan && exCmp y l < 0 then l else y
    if !h.isNan && 0 < exCmp y h then h else y
  else y

/-- The word j of 32 bits of a parameter block. -/
def paramWord (bs : List Byte) (j : Nat) : Nat := ofLe ((bs.drop (4 * j)).take 4)

/-- The elements of one output row, with their events. -/
def State.epiRow (s : State) (e : MEnt) (ps : List Byte) (row : Nat) : List Rounded :=
  let r := e.raw
  let pol := if bit r.ymod 2 then 1 else if bit r.ymod 3 then 2 else 0
  let sigma := ofLe ((ps.drop 1032).take 1)
  (nats 128).map (fun j =>
    let x := fmtFa40.value (s.accRead e.cid row j)
    let y := (exFma e.rm x (fmtF32.value (paramWord ps j)) (fmtF32.value (paramWord ps (128 + j)))).1
    deliverF r.af sigma e.rm pol (activate (r.ymod % 4) (paramWord ps 256) (paramWord ps 257) y))

/-- A plain MEPI starts. -/
def State.startEpi (s : State) (core : Nat) (e : MEnt) : State :=
  let af := e.raw.af
  let out := e.aval % 2 ^ 32
  let (ps, struck, s) := s.engineSpad e.cid (e.aval / 2 ^ 32) 1040
  let s := s.accReport e.cid e.row0 e.rows
  let (s, ev) := forEach (nats e.rows) (s, (0, 0, 0)) (fun (s, ev) i =>
    let l := s.epiRow e ps (e.row0 + i)
    let s := s.spadWrite e.cid (out + i * outStride af) (leBytes (outStride af) (packElems (outBits af) (l.map Rounded.bits)))
    (s, l.foldl (fun c x => addEvent c x.event) ev))
  s.putMEntry core { e with stage := 1, status := if struck then 9 else 0, events := if af = 8 then (0, 0, 0) else ev }

/-! ## The top-k buffer (R300 to R303) -/

/-- Entry q of a top-k row. -/
def State.topkAt (s : State) (cid row q : Nat) : Nat := (kvGet 0#64 (s.cohort cid).topk (row * 8 + q)).toNat

/-- Write the entries of a top-k row. -/
def State.topkPut (s : State) (cid row : Nat) (l : List Nat) : State :=
  let c := s.cohort cid
  s.setCohort cid { c with topk := forEach (nats 8) c.topk (fun m q => kvSet 0#64 m (row * 8 + q) (BitVec.ofNat 64 (listAt 0 l q))) }

/-- A candidate as an entry. -/
def topkEntry (index value : Nat) : Nat := value + index * 2 ^ 40 + 2 ^ 63

/-- An entry precedes another in tree order (R301). -/
def precedes (a b : Nat) : Bool :=
  let c := exCmp (fmtFa40.value (bits a 39 0)) (fmtFa40.value (bits b 39 0))
  decide (0 < c) || (c == 0 && decide (bits a 51 40 < bits b 51 40))

/-- Enter a candidate: before the entries that it precedes; of equals the earlier stays first. -/
def insertTop (x : Nat) (l : List Nat) : List Nat :=
  match l with
  | [] => [x]
  | y :: t => if precedes x y then x :: y :: t else y :: insertTop x t

/-- Feed the elements of a row (R302). -/
def feedTop (cb : Nat) (row : List Nat) (l : List Nat) : List Nat :=
  (forEach ((nats row.length).zip row) l (fun l p =>
    if (fmtFa40.value p.2).isNan then l else (insertTop (topkEntry (cb + p.1) p.2) l).take 8)).take 8

/-- The valid entries of a row. -/
def State.topkRow (s : State) (cid row : Nat) : List Nat := ((nats 8).map (s.topkAt cid row)).filter (fun x => bit x 63)

/-- A cohort's accumulator save area (R303, R355). -/
def State.saveArea (s : State) (cid : Nat) : Nat :=
  let c := s.cohort cid
  let first := match c.strands.find? (fun i => (s.strand i).cidx == 0) with
    | some i => (s.strand i).spill
    | none => 0
  (s.region c.rid).rcb.savea + 32768 * first

/-- The engine of a cohort as the maker of an access. -/
def State.engineWho (s : State) (core cid : Nat) : Who :=
  let r := s.region (s.cohort cid).rid
  ⟨core, none, r.asid, r.isSystem⟩

/-- An entry as an instruction finds it in the save area: the bits that read as 0 are 0, and an entry that holds no candidate is
empty (R300). -/
def cleanEntry (x : Nat) : Nat := if bit x 63 then setBits x 62 52 0 else 0

/-- How far an entry's claim of the top-k buffer has come, in its progress: saving row i of owner o, or restoring row i. -/
def savingAt (o i : Nat) : Nat := (o + 2) * 1024 + i
def restoringAt (i : Nat) : Nat := 1024 + i

/-- An entry of the queue that has met a save-area error ends with status 9; it goes on from a place. -/
def MEnt.claimOn (e : MEnt) (bad : Bool) (at_ : Nat) : MEnt := { e with progress := at_, status := if bad then 9 else e.status }

/-- Save the rows of the buffer's owner from row i on, n of them: false while one must wait. A row that could not be saved is
noted, to be restored as empty. -/
def State.saveTop (s : State) (core own base n i : Nat) (e : MEnt) : Bool × MEnt × State :=
  match n with
  | 0 => (true, e, s)
  | n + 1 =>
    let va := (base + 64 * i) % 2 ^ 56
    let bs := (nats 8).flatMap (fun q => leBytes 8 (s.topkAt own i q))
    let lose (s : State) (c : Nat) : State :=
      let s := s.errorRecord (some (s.cohort own).rid) c va
      s.setCohort own { s.cohort own with topkLost := i :: (s.cohort own).topkLost }
    match s.strongWrite (s.engineWho core own) va bs with
    | (.ok _, s) => s.saveTop core own base n (i + 1) (e.claimOn false (savingAt own (i + 1)))
    | (.wait, s) => (false, e, s)
    | (.fault c, s) => (lose s c).saveTop core own base n (i + 1) (e.claimOn true (savingAt own (i + 1)))
    | (.remote _, s) => (lose s clsProt).saveTop core own base n (i + 1) (e.claimOn true (savingAt own (i + 1)))

/-- Restore the rows of a cohort from row i on, n of them: false while one must wait. -/
def State.restoreTop (s : State) (core cid base n i : Nat) (e : MEnt) : Bool × MEnt × State :=
  match n with
  | 0 => (true, e, s)
  | n + 1 =>
    let va := (base + 64 * i) % 2 ^ 56
    let lose (s : State) (c : Nat) : State := (s.errorRecord (some (s.cohort cid).rid) c va).topkPut cid i []
    let on (bad : Bool) : MEnt := e.claimOn bad (restoringAt (i + 1))
    if (s.cohort cid).topkLost.contains i then (s.topkPut cid i []).restoreTop core cid base n (i + 1) (on true)
    else match s.strongRead (s.engineWho core cid) va 64 0 with
      | (.ok x, s) =>
        (s.topkPut cid i ((nats 8).map (fun q => cleanEntry (bits x (64 * q + 63) (64 * q))))).restoreTop core cid base n (i + 1) (on false)
      | (.wait, s) => (false, e, s)
      | (.fault c, s) => (lose s c).restoreTop core cid base n (i + 1) (on true)
      | (.remote _, s) => (lose s clsProt).restoreTop core cid base n (i + 1) (on true)

/-- The owner's rows leave the buffer: false while one must wait. -/
def State.evictTop (s : State) (core own : Nat) (e : MEnt) : Bool × MEnt × State :=
  let rows := (s.cohort own).rows
  let i := if savingAt own 0 ≤ e.progress ∧ e.progress ≤ savingAt own rows then e.progress - savingAt own 0 else 0
  let s := if i = 0 then s.setCohort own { s.cohort own with topkLost := [] } else s
  match s.saveTop core own (s.saveArea own) (rows - i) i e with
  | (false, e, s) => (false, e, s)
  | (true, e, s) =>
    (true, { e with progress := restoringAt 0 },
     (s.setCohort own { s.cohort own with topk := [], topkSaved := true }).modWeight core (fun w => { w with topkOwner := none }))

/-- Another entry of the queue is about to claim the buffer: its saves or restores have begun. -/
def State.claiming (s : State) (core : Nat) (e : MEnt) : Bool :=
  (s.core core).mq.any (fun x => x.ident != e.ident && x.stage == 0 && (x.raw.op == 0xD8#8 || (x.raw.op == 0xD7#8 && x.raw.af == 3))
    && decide (restoringAt 0 ≤ x.progress))

/-- The entry's cohort becomes the owner of the top-k buffer (R303): false while an access must wait, or while another entry is
saving and restoring rows. The entry keeps how far it has come and whether it met an error. -/
def State.claimTop (s : State) (core : Nat) (e : MEnt) : Bool × MEnt × State :=
  let own := (s.core core).weight.topkOwner
  let cid := e.cid
  if s.claiming core e then (false, e, s)
  else if own = some cid then (true, e, s)
  else
    let (ok, e, s) := match own with
      | some o => s.evictTop core o e
      | none => (true, e, s)
    if !ok then (false, e, s)
    else
      let rows := (s.cohort cid).rows
      let i := if restoringAt 0 ≤ e.progress ∧ e.progress ≤ restoringAt rows then e.progress - restoringAt 0 else 0
      let (ok, e, s) := if (s.cohort cid).topkSaved then s.restoreTop core cid (s.saveArea cid) (rows - i) i e else (true, e, s)
      if !ok then (false, e, s)
      else (true, e, (s.setCohort cid { s.cohort cid with topkLost := [] }).modWeight core (fun w => { w with topkOwner := some cid }))

/-! ## MEPI.ROUTE (R299) and MTOPK (R302) -/

/-- A route record for rank q of a row, with its rounding. -/
def State.routeRecord (s : State) (e : MEnt) (i q : Nat) : Nat × Nat :=
  let x := s.topkAt e.cid (e.row0 + i) q
  let token := (e.aval / 2 ^ 32 + i) % 2 ^ 32
  if bit x 63 then
    let y := roundEx fmtBf16 e.rm 0 (fmtFa40.value (bits x 39 0))
    (token + bits x 51 40 * 2 ^ 32 + q * 2 ^ 44 + 2 ^ 47 + y.bits * 2 ^ 48, y.event)
  else (token + q * 2 ^ 44, 0)

/-- MEPI.ROUTE starts. -/
def State.startRoute (s : State) (core : Nat) (e : MEnt) : State :=
  match s.claimTop core e with
  | (false, e, s) => s.putMEntry core e
  | (true, e, s) =>
    let k := e.raw.ymod % 8 + 1
    let out := e.aval % 2 ^ 32
    let (s, ev) := forEach (nats (e.rows * k)) (s, (0, 0, 0)) (fun (s, ev) x =>
      let (y, v) := s.routeRecord e (x / k) (x % k)
      (s.spadWrite e.cid (out + 8 * x) (leBytes 8 y), addEvent ev v))
    s.putMEntry core { e with stage := 1, events := ev }

/-- MTOPK starts. -/
def State.startTopk (s : State) (core : Nat) (e : MEnt) : State :=
  match s.claimTop core e with
  | (false, e, s) => s.putMEntry core e
  | (true, e, s) =>
    let done (s : State) : State := s.putMEntry core { e with stage := 1 }
    if e.raw.f = 0#3 then
      let s := s.accReport e.cid e.row0 e.rows
      done (forEach (nats e.rows) s (fun s i =>
        s.topkPut e.cid (e.row0 + i) (feedTop e.aval ((nats 128).map (s.accRead e.cid (e.row0 + i))) (s.topkRow e.cid (e.row0 + i)))))
    else if e.raw.f = 1#3 then done (forEach (nats e.rows) s (fun s i => s.topkPut e.cid (e.row0 + i) []))
    else
      let k := e.raw.ymod % 8 + 1
      done (forEach (nats (e.rows * k)) s (fun s x =>
        s.spadWrite e.cid (e.aval + 8 * x) (leBytes 8 (s.topkAt e.cid (e.row0 + x / k) (x % k)))))

/-! ## MCHK (R307, R308) -/

/-- A residue: the exact sum less the checksum, in FP32; an exact zero difference is +0. -/
def residue (l : List Nat) (ck : Nat) : Nat :=
  let d := (exAdd 0 (exSum 0 (l.map fmtFa40.value)).1 (fmtF32.value ck).neg).1
  if d.isZero then 0 else (roundEx fmtF32 0 0 d).bits

/-- A residue beyond the tolerance. -/
def flagged (tol res : Nat) : Bool :=
  let t := fmtF32.value (tol % 2 ^ 31)
  let r := fmtF32.value (res % 2 ^ 31)
  r.isNan || t.isNan || decide (0 < exCmp r t)

/-- The result block (R307). -/
def resultBlock (row0 : Nat) (rowRes colRes : List Nat) (tol : Nat) : List Byte :=
  let rows := (nats rowRes.length).filter (fun i => flagged tol (listAt 0 rowRes i))
  let cols := (nats 128).filter (fun j => flagged tol (listAt 0 colRes j))
  let mask (l : List Nat) : Nat := l.foldl (fun m i => m ||| 2 ^ i) 0
  leBytes 64 (mask (rows.map (· + row0))) ++ leBytes 16 (mask cols) ++ leBytes 4 rows.length ++ leBytes 4 cols.length
    ++ leBytes 168 0 ++ colRes.flatMap (leBytes 4) ++ rowRes.flatMap (leBytes 4)

/-- The checksums of the rows, and of every column, become +0. -/
def State.clearSums (s : State) (core : Nat) (e : MEnt) : State :=
  let c := s.cohort e.cid
  (s.setCohort e.cid { c with
      rowck := forEach (nats e.rows) c.rowck (fun m i => kvSet 0#32 m (e.row0 + i) 0#32),
      rowckBad := c.rowckBad.filter (fun i => !(e.row0 ≤ i && i < e.row0 + e.rows)) }).modWeight core
    (fun w => { w with colck := [], colckBad := [] })

/-- MCHK starts. -/
def State.startCheck (s : State) (core : Nat) (e : MEnt) : State :=
  let s := s.modWeight core (fun w => w.claimCol (s.region e.rid).asid)
  if e.raw.f = 2#3 then (s.clearSums core e).putMEntry core { e with stage := 1, status := 0 }
  else
    let s := s.accReport e.cid e.row0 e.rows
    let tol := e.aval / 2 ^ 32
    let rows := (nats e.rows).map (fun i => (nats 128).map (s.accRead e.cid (e.row0 + i)))
    let rowRes := (nats e.rows).map (fun i =>
      residue (listAt [] rows i) (s.rowSum e.cid (e.row0 + i)))
    let colRes := (nats 128).map (fun j =>
      residue (rows.map (fun r => listAt 0 r j)) ((s.core core).weight.colSum j))
    let any := rowRes.any (flagged tol) || colRes.any (flagged tol)
    let s := s.spadWrite e.cid (e.aval % 2 ^ 32) (resultBlock e.row0 rowRes colRes tol)
    let s := if e.raw.f = 1#3 then s.clearSums core e else s
    s.putMEntry core { e with stage := 1, status := if any then 6 else 0 }

/-! ## The instructions' checks (R311) -/

/-- The rows and their number. -/
def State.rowsFault (s : State) (st : Strand) (r : Raw) : Bool :=
  512 < st.mCount r || !s.rowsOk st (st.mRow r) (st.mCount r)

/-- Every tile of a list of ranges, each once. -/
def tilesAll (l : List (Nat × Nat)) : List Nat := dedup [] (l.flatMap (fun p => tilesOf p.1 p.2))

/-- MEPI's checks, plain. -/
def State.planEpi (r : Raw) (s : State) (st : Strand) : MPlan :=
  let a := st.s r.a.toNat
  let n := st.mCount r
  let out := a % 2 ^ 32
  let par := a / 2 ^ 32
  let len := n * outStride r.af
  if out % 256 ≠ 0 then .fault clsAlign out
  else if par % 16 ≠ 0 then .fault clsAlign par
  else if s.rowsFault st r ∨ overlaps out len par 1040 then .fault clsProt 0
  else match s.rangeFault st out len 0 with
    | some (c, x) => .fault c x
    | none => match s.rangeFault st par 1040 0 with
      | some (c, x) => .fault c x
      | none => .enter (tilesAll [(out, len), (par, 1040)]) (st.mRow r) n 0

def execMepi (o : YOps) (s : State) : Res := s.issueMatrix (rawY 0xD7 o) (State.planEpi (rawY 0xD7 o))

/-- The checks of an instruction that writes k entries of 8 bytes for every row. -/
def State.planRecords (r : Raw) (out k : Nat) (s : State) (st : Strand) : MPlan :=
  let len := 8 * st.mCount r * k
  if out % 256 ≠ 0 then .fault clsAlign (out % 2 ^ 56)
  else if s.rowsFault st r then .fault clsProt 0
  else match s.rangeFault st out len 0 with
    | some (c, x) => .fault c x
    | none => .enter (tilesOf out len) (st.mRow r) (st.mCount r) 0

def execMepiRoute (o : YOps) (s : State) : Res :=
  let r := rawY 0xD7 o
  s.issueMatrix r (fun s st => s.planRecords r (st.s r.a.toNat % 2 ^ 32) (r.ymod % 8 + 1) st)

/-- MTOPK.ACC: its column base (R302). -/
def execMtopkAcc (o : YOps) (s : State) : Res :=
  let r := rawY 0xD8 o
  s.issueMatrix r (fun s st =>
    let cb := st.s r.a.toNat
    if s.rowsFault st r ∨ cb % 128 ≠ 0 ∨ 4096 ≤ cb then .fault clsProt 0
    else .enter [] (st.mRow r) (st.mCount r) 0)

/-- MTOPK.CLR. -/
def execMtopkClr (o : YOps) (s : State) : Res := s.issueMatrix (rawY 0xD8 o) (State.planRows (rawY 0xD8 o) 512)

/-- MTOPK.OUT. -/
def execMtopkOut (o : YOps) (s : State) : Res :=
  let r := rawY 0xD8 o
  s.issueMatrix r (fun s st => s.planRecords r (st.s r.a.toNat) (r.ymod % 8 + 1) st)

/-- MCHK's checks. -/
def State.planCheck (r : Raw) (s : State) (st : Strand) : MPlan :=
  let out := st.s r.a.toNat % 2 ^ 32
  let len := 0x300 + 4 * st.mCount r
  if out % 256 ≠ 0 then .fault clsAlign out
  else if s.rowsFault st r then .fault clsProt 0
  else match s.rangeFault st out len 0 with
    | some (c, x) => .fault c x
    | none => .enter (tilesOf out len) (st.mRow r) (st.mCount r) 0

def execMchk (o : YOps) (s : State) : Res := s.issueMatrix (rawY 0xD9 o) (State.planCheck (rawY 0xD9 o))
def execMchkClr (o : YOps) (s : State) : Res := s.issueMatrix (rawY 0xD9 o) (State.planCheck (rawY 0xD9 o))
/-- MCHK.RST. -/
def execMchkRst (o : YOps) (s : State) : Res := s.issueMatrix (rawY 0xD9 o) (State.planRows (rawY 0xD9 o) 512)

/-! ## The start of an entry -/

/-- An entry starts, or goes on. -/
def State.startMatrix (s : State) (core : Nat) (e : MEnt) : State :=
  match e.raw.op.toNat with
  | 0xD0 => s.startFill core e
  | 0xD1 => s.startLoad core e
  | 0xD2 => s.startSwap core e
  | 0xD3 => s.startMul core e
  | 0xD5 => s.startRead core e
  | 0xD7 => if e.raw.af = 3 then s.startRoute core e else s.startEpi core e
  | 0xD8 => s.startTopk core e
  | 0xD9 => s.startCheck core e
  | _ => s.startWrite core e

/-- MATRIX_ENTRY_START (R279). -/
def execMatrixEntryStart (core ident : Nat) (s : State) : Res :=
  match s.mEntry core ident with
  | some e =>
    if s.mayStart core e then
      let s := s.startMatrix core e
      .next (match s.mEntry core ident with
        | some e => if e.stage = 1 then s.push (.matrixCompletion core ident) else s
        | none => s)
    else .next s
  | none => .next s

end Sys2Proof.Machine
end

