-- ==== Sys2Proof/Machine/Copy.lean ====
section
/-! DEFINITION. The copy engine (R313 to R332): its queue, covered tiles, barriers and signal words, XCOPY and XSTORE with
boxes, conversion, permutation and packed buffers, XGATHER, XSCAT, XMCAST, and MLDT. -/

namespace Sys2Proof.Machine

/-! ## Register sets (R320, R325, R327) -/

/-- What XCOPY and XSTORE move: the box registers, or one row of S(A) bytes. -/
structure Box where
  xb : Nat
  yn : Nat
  zn : Nat
  gy : Int
  gz : Int
  py : Nat
  pz : Nat
  mo : Nat
  sigma : Nat
  pol : Nat
  rmc : Nat
  dty : Nat
  sty : Nat
  deriving DecidableEq, Repr

/-- The box of a command; l holds the registers of its A run. -/
def boxOf (r : Raw) (l : List Nat) : Box :=
  let w (i : Nat) : Nat := listAt 0 l i
  if !bit r.ymod 0 then ⟨w 0, 1, 1, 0, 0, 0, 0, 0, 0, 0, 0, 0, 0⟩
  else
    let cvt := bit r.ymod 1
    let sty := bits (w 4) 3 0
    { xb := bits (w 0) 19 0, yn := max 1 (bits (w 0) 35 20), zn := max 1 (bits (w 0) 51 36), gy := sInt 64 (w 1),
      gz := sInt 64 (w 2), py := bits (w 3) 18 0, pz := bits (w 3) 50 32, mo := bits (w 4) 50 32,
      sigma := bits (w 4) 23 16, pol := if bit (w 4) 11 then 1 else if bit (w 4) 12 then 2 else 0, rmc := bits (w 4) 10 8,
      dty := if cvt then bits (w 4) 7 4 else sty, sty := sty }

/-- Rows hold elements: .CVT or .PERM is given. -/
def Raw.byElem (r : Raw) : Bool := bit r.ymod 1 || bit r.ymod 2

/-- The elements of a row (R320, R321). -/
def Box.elems (b : Box) : Nat := 8 * b.xb / tyWidth b.sty

/-- The bytes of a destination row. -/
def Box.out (b : Box) (r : Raw) : Nat := if Raw.byElem r then (b.elems * tyWidth b.dty + 7) / 8 else b.xb
def Box.rows (b : Box) : Nat := b.yn * b.zn

/-- The bytes of a row in global memory and in scratchpad. -/
def Box.gLen (b : Box) (r : Raw) : Nat := if r.op = 0xE0#8 then b.xb else b.out r
def Box.pLen (b : Box) (r : Raw) : Nat := if r.op = 0xE0#8 then b.out r else b.xb

/-- A row begins this far from G, and from P. -/
def Box.gAt (b : Box) (i : Nat) : Int := (i % b.yn : Nat) * b.gy + (i / b.yn : Nat) * b.gz
def Box.pAt (b : Box) (i : Nat) : Nat := i % b.yn * b.py + i / b.yn * b.pz

/-- A zero field of the box registers is set; without modifiers BX4 is not looked at. -/
def boxZeros (r : Raw) (l : List Nat) : Bool :=
  let w (i : Nat) : Nat := listAt 0 l i
  bit r.ymod 0 && (bits (w 0) 63 52 != 0 || bits (w 3) 63 51 != 0 || bits (w 3) 31 19 != 0
    || (Raw.byElem r && (bits (w 4) 63 51 != 0 || bits (w 4) 31 24 != 0 || bits (w 4) 15 13 != 0)))

/-- Types, modes and policies that R331 refuses. -/
def Box.badModes (b : Box) (r : Raw) (l : List Nat) : Bool :=
  let x := listAt 0 l 4
  let unit := if b.sty = 13 then 3 else tyWidth b.sty / 8
  Raw.byElem r && (decide (14 ≤ b.sty) || decide (14 ≤ b.dty) || b.xb % unit != 0
    || (bit r.ymod 1 && (b.rmc == 5 || b.rmc == 6 || (bit x 11 && bit x 12) || (bit x 12 && b.dty != 11 && b.dty != 13)))
    || (bit r.ymod 2 && decide (512 < b.elems)))

/-! ## Plans: what the checks at issue find -/

/-- What a command holds when it enters the queue: its covered tiles with the bytes that its barrier expects of each, the
tiles taken in the issuer's scratchpad and those in its members', list or map, members, the cohorts of abandoned members whose
barrier learns of it, payload bytes, leave, whether an error struck what was read at issue (R448), the rounding mode, and for a
command on slots the scratchpad bytes of a unit. -/
structure CEntry where
  tiles : KV Nat
  own : List Nat
  theirs : List Nat
  list : List Nat
  members : List (Nat × Bool)
  abands : List Nat
  payload : Nat
  leave : Nat
  struck : Bool
  rm : Nat
  row : Nat
  deriving DecidableEq, Repr

inductive CPlan where
  | fault (cls addr : Nat)
  | enter (e : CEntry)
  deriving DecidableEq, Repr

/-- Bytes that two ranges share. -/
def shared (a n b m : Nat) : Nat := min (a + n) (b + m) - max a b

/-- Add a range to a map of covered tiles; a byte of it counts c times for the barrier. -/
def coverTiles (m : KV Nat) (off n c : Nat) : KV Nat :=
  forEach (tilesOf off n) m (fun m t => kvPut m t ((kvFind m t).getD 0 + c * shared (256 * t) 256 off n))

/-- The scratchpad address, and the offsets of signal word and barrier (R314). -/
def Strand.spadBase (st : Strand) (r : Raw) : Nat := st.s r.spb + (if r.len = 2#2 then r.spd else 0)
def Raw.sigAt (r : Raw) : Nat := 8 * r.sigo
def Raw.barAt (r : Raw) : Option Nat := if r.len = 2#2 ∧ r.barp then some (16 * r.baro) else none

/-- The registers of the A run. -/
def Strand.runOfA (st : Strand) (r : Raw) : List Nat := (nats (Raw.uniRunA r)).map (fun i => st.s (r.a.toNat + i))

/-- Signal word and barrier: they lie in the allocation and outside the covered tiles. -/
def signalBad (r : Raw) (bytes : Nat) (tiles : KV Nat) (barHere : Bool) : Bool :=
  let off (a n : Nat) : Bool := decide (bytes < a + n) || (tilesOf a n).any (fun t => (kvFind tiles t).isSome)
  off (Raw.sigAt r) 8 || (match Raw.barAt r with
    | some o => if barHere then off o 16 else (tilesOf o 16).any (fun t => (kvFind tiles t).isSome)
    | none => false)

/-- Halfwords or words of a list in scratchpad. -/
def State.spadList (s : State) (cid off w n : Nat) : List Nat := (nats n).map (fun i => s.spadNum cid (off + w * i) w)

/-- A map is a permutation of its entries (R321). -/
def badPerm (n : Nat) (m : List Nat) : Bool := m.any (fun x => n ≤ x) || (dedup [] m).length != m.length

/-- The scratchpad rows of a box with at least one byte. -/
def Box.spadRows (b : Box) (r : Raw) (p : Nat) : List (Nat × Nat) :=
  if b.pLen r = 0 then [] else (nats b.rows).map (fun i => (p + b.pAt i, b.pLen r))

/-- The rows of a box in the weight store lie within the region's grant (R322). -/
def State.boxInGrant (s : State) (st : Strand) (b : Box) (r : Raw) (g : Nat) : Bool :=
  let last := b.rows - 1
  let ends := [0, b.yn - 1, last - (b.yn - 1), last].map (fun i => (g : Int) + b.gAt i)
  ends.all (fun x => decide (0 ≤ x) && (s.wsAddr st.rid x.toNat (b.gLen r)).isSome)

/-- XSTORE may write the weight store (R322, R426). -/
def State.mayWriteWs (s : State) (st : Strand) : Bool :=
  let r := s.regionOf st
  r.rcb.ww && bits (s.numAt (s.reg 0x970 % 2 ^ 56 + 16 * r.rcb.wsg) 16) 111 96 == 0

/-- The checks of XCOPY and XSTORE (R320 to R324, R331). -/
def State.planCopy (s : State) (st : Strand) (r : Raw) : CPlan :=
  let l := st.runOfA r
  let b := boxOf r l
  let g := st.s r.d.toNat
  let p := st.spadBase r
  let packed := bit r.ymod 3
  let perm := bit r.ymod 2
  let n := b.elems
  let bytes := (s.cohort st.cid).bytes
  let store := r.op = 0xE1#8
  if perm ∧ b.mo % 2 ≠ 0 then .fault clsAlign b.mo
  else if packed ∧ (b.xb % 128 ≠ 0 ∨ g % 128 ≠ 0) then .fault clsAlign (g % 2 ^ 56)
  else if 524288 < b.xb ∨ boxZeros r l ∨ b.badModes r l then .fault clsProt 0
  else
    let map : List (Nat × Nat) := if perm then [(b.mo, 2 * n)] else []
    let last := p + b.pAt (b.rows - 1) + b.pLen r
    if (0 < b.pLen r ∧ bytes < last) ∨ map.any (fun x => decide (bytes < x.1 + x.2)) then .fault clsProt 0
    else
      let rows := b.spadRows r p
      let tiles := forEach rows ([] : KV Nat) (fun m x => coverTiles m x.1 x.2 (if store then 0 else 1))
      let tiles := forEach map tiles (fun m x => coverTiles m x.1 x.2 0)
      let m := if perm then s.spadList st.cid b.mo 2 n else []
      let struck := perm && s.spadStruck st.cid b.mo (2 * n)
      if rows.any (fun x => map.any (fun y => overlaps x.1 x.2 y.1 y.2)) ∨ signalBad r bytes tiles true ∨ (!struck ∧ badPerm n m)
          ∨ (r.f = 1#3 ∧ !s.boxInGrant st b r g) then .fault clsProt 0
      else if tiles.any (fun t => s.engineOwns st.cid (256 * t.1) 256) then .fault clsTile (p % 2 ^ 56)
      else if r.f = 1#3 ∧ store ∧ !s.mayWriteWs st then .fault clsWsWrite 0
      else
        let payload := b.rows * b.out r
        .enter { tiles := tiles, own := tiles.map Prod.fst, theirs := [], list := m, members := [], abands := [], payload := payload,
                 leave := if 65536 < payload then 4 else 0, struck := struck,
                 rm := if b.rmc = 7 then st.frm.toNat else b.rmc, row := 0 }

/-- The checks of XGATHER and XSCAT (R325, R326, R331). -/
def State.planGather (s : State) (st : Strand) (r : Raw) : CPlan :=
  let l := st.runOfA r
  let x := listAt 0 l 0
  let gs := listAt 0 l 1
  let ixo := bits x 56 38
  let nr := bits x 37 20
  let rb := bits x 19 0
  let g := st.s r.d.toNat
  let p := st.spadBase r
  let bytes := (s.cohort st.cid).bytes
  let add := r.op = 0xE3#8 ∧ bit r.ymod 0
  if ixo % 4 ≠ 0 then .fault clsAlign ixo
  else if add ∧ (rb % 4 ≠ 0 ∨ g % 4 ≠ 0 ∨ gs % 4 ≠ 0) then .fault clsAlign (g % 2 ^ 56)
  else if bits x 63 57 ≠ 0 ∨ 131072 < nr ∨ rb = 0 ∨ 524288 < rb ∨ (0 < nr ∧ (bytes < p + nr * rb ∨ bytes < ixo + 4 * nr)) then
    .fault clsProt 0
  else
    let tiles := coverTiles (coverTiles [] p (nr * rb) (if r.op = 0xE2#8 then 1 else 0)) ixo (4 * nr) 0
    if overlaps p (nr * rb) ixo (4 * nr) ∨ signalBad r bytes tiles true then .fault clsProt 0
    else if tiles.any (fun t => s.engineOwns st.cid (256 * t.1) 256) then .fault clsTile (p % 2 ^ 56)
    else .enter { tiles := tiles, own := tiles.map Prod.fst, theirs := [], list := s.spadList st.cid ixo 4 nr, members := [], abands := [],
                  payload := nr * rb, leave := 0, struck := s.spadStruck st.cid ixo (4 * nr), rm := 0, row := 0 }

/-- The cohort that stands at a tile of a region on the cluster of a core (R327). -/
def State.memberAt (s : State) (rid core x : Nat) : Option Nat :=
  let rcb := (s.region rid).rcb
  (s.allCohorts.find? (fun c => c.2.alive && !c.2.spawned && c.2.rid == rid && rcb.tileCoord c.2.tile == x
    && clusterOf c.2.core == clusterOf core)).map Prod.fst

/-- The members of an XMCAST, with those that are abandoned (R328). -/
def State.members (s : State) (st : Strand) (r : Raw) (p n : Nat) (l : List Nat) : List (Nat × Bool) :=
  forEach l ([] : List (Nat × Bool)) (fun done x =>
    let one : Nat × Bool := match s.memberAt st.rid st.core x with
      | none => (0, true)
      | some c =>
        let bytes := (s.cohort c).bytes
        let out := decide (0 < n) && decide (bytes < p + n)
        let barOut := match Raw.barAt r with
          | some o => decide (bytes < o + 16)
          | none => false
        (c, out || barOut || s.engineOwns c p n || done.any (fun m => m.1 == c && !m.2))
    done ++ [one])

/-- The cohorts of abandoned members that stand with the named barrier in place; a cohort that another entry serves is as if
alone (R172, R328). -/
def State.abandoned (s : State) (st : Strand) (r : Raw) (ms : List (Nat × Bool)) (l : List Nat) : List Nat :=
  match Raw.barAt r with
  | none => []
  | some o => (dedup [] (l.filterMap (s.memberAt st.rid st.core))).filter (fun c =>
      !ms.any (fun m => m.1 == c && !m.2) && decide (o + 16 ≤ (s.cohort c).bytes) && barExpect (s.spadNum c o 16) != 0)

/-- The checks of XMCAST (R327, R328, R331). -/
def State.planCast (s : State) (st : Strand) (r : Raw) : CPlan :=
  let x := st.s r.a.toNat
  let mc := bits x 42 39
  let ml := bits x 38 20
  let n := bits x 19 0
  let p := st.spadBase r
  let bytes := (s.cohort st.cid).bytes
  if ml % 8 ≠ 0 then .fault clsAlign ml
  else if bits x 63 43 ≠ 0 ∨ mc = 0 ∨ 8 < mc ∨ 524288 < n ∨ bytes < ml + 8 * mc then .fault clsProt 0
  else
    let struck := s.spadStruck st.cid ml (8 * mc)
    let l := if struck then [] else s.spadList st.cid ml 8 mc
    let ms := s.members st r p n l
    let target := coverTiles [] p n 1
    let own := coverTiles [] ml (8 * mc) 0
    let me := ms.any (fun m => m.1 == st.cid && !m.2)
    let tiles := coverTiles target ml (8 * mc) 0
    let barIn : Bool := match Raw.barAt r with
      | some o => (tilesOf o 16).any (fun t => (kvFind target t).isSome)
      | none => false
    if (me && overlaps p n ml (8 * mc)) || signalBad r bytes (if me then tiles else own) false || barIn then
      .fault clsProt 0
    else if own.any (fun t => s.engineOwns st.cid (256 * t.1) 256) then .fault clsTile ml
    else .enter { tiles := tiles, own := own.map Prod.fst, theirs := target.map Prod.fst, list := [], members := ms,
                  abands := s.abandoned st r ms l, payload := n, leave := 0, struck := struck, rm := 0, row := 0 }

/-! ## Barriers (R172, R316) -/

/-- The cohorts whose barrier a command counts into. -/
def CCmd.counted (e : CCmd) : List Nat :=
  if e.raw.op = 0xE4#8 then (e.members.filter (fun m => !m.2)).map Prod.fst else [e.cid]

/-- The addition to a barrier that an issue would make is refused (R172). -/
def State.barRefuses (s : State) (cid off n : Nat) : Bool :=
  let x := s.spadNum cid off 16
  barExpect x == 0 || decide (2 ^ 40 ≤ barPending x + n)

def State.barAdd (s : State) (sid cid off n : Nat) : State :=
  let x := s.spadNum cid off 16
  s.barWrite sid cid off (barSetPending x (barPending x + n))

/-- A barrier learns that a member was abandoned (R172, R328). -/
def State.barAband (s : State) (sid cid off : Nat) : State :=
  s.barWrite sid cid off (setBits (s.spadNum cid off 16) 17 17 1)

/-- Subtract bytes from a barrier, and say that some will not come: false where PENDING would go below 0. -/
def State.barSub (s : State) (sid cid off n : Nat) (aband : Bool) : Bool × State :=
  let x := s.spadNum cid off 16
  let ok := decide (n ≤ barPending x)
  let x := if aband || !ok then setBits x 17 17 1 else x
  (ok, s.barWrite sid cid off (barSetPending x (barPending x - n)))

/-- Subtract bytes from the barrier of a cohort of the command that still lives. -/
def State.cmdSub (s : State) (e : CCmd) (cid n : Nat) (aband : Bool) : Bool × State :=
  match e.bar with
  | some o => if (s.cohort cid).alive && (n != 0 || aband) then s.barSub e.sid cid o n aband else (true, s)
  | none => (true, s)

/-! ## The queue (R313) -/

def State.command (s : State) (core ident : Nat) : Option CCmd := (s.core core).cq.find? (fun e => e.ident == ident)
def State.putCommand (s : State) (core : Nat) (e : CCmd) : State :=
  s.modCore core (fun c => { c with cq := c.cq.map (fun x => if x.ident = e.ident then e else x) })

/-- An earlier command of the same strand has not started. -/
def startsBefore (l : List CCmd) (e : CCmd) : Bool := l.any (fun x => x.sid == e.sid && x.seq < e.seq && x.stage == 0)

/-- Commands that may start, or go on, are due. -/
def State.pokeCopy (s : State) (core : Nat) : State :=
  forEach (s.core core).cq s (fun s e =>
    if e.stage = 1 ∨ (e.stage = 0 ∧ !startsBefore (s.core core).cq e) then s.push (.copyCommandStart core e.ident) else s)

def CCmd.box (e : CCmd) : Box := boxOf e.raw (e.regs.map BitVec.toNat)
def CCmd.reg (e : CCmd) (i : Nat) : Nat := (listAt 0#64 e.regs i).toNat

/-- The rows of scratchpad that a box has still to touch once it is done with n of them. -/
def CCmd.rowsLeft (e : CCmd) (n : Nat) : List (Nat × Nat) := (e.box.spadRows e.raw e.spadBase).drop n

/-- The scratchpad ranges of a command's payload that it has still to access: bytes that it has not yet read or written. A map, a
list and records have been read at issue (R315). -/
def CCmd.touches (e : CCmd) : List (Nat × Nat) :=
  let op := e.raw.op.toNat
  let p := e.spadBase
  let b := e.box
  if e.stage = 3 then []
  else if op ≤ 0xE1 ∧ bit e.raw.ymod 3 then
    (if op = 0xE0 then [(p + 128 * e.progress, e.reg 0 - 128 * e.progress)] else if e.stash = [] then [(p, e.reg 0)] else [])
  else if op ≤ 0xE1 ∧ Raw.byElem e.raw then
    e.rowsLeft (if op = 0xE0 then e.progress else e.progress / max 1 (b.out e.raw) + b2n (e.stash != []))
  else if op ≤ 0xE1 then
    (match e.rowsLeft (e.progress / max 1 b.xb) with
      | [] => []
      | x :: rest => (x.1 + e.progress % max 1 b.xb, x.2 - e.progress % max 1 b.xb) :: rest)
  else if op ≤ 0xE3 then [(p + e.progress, bits (e.reg 0) 37 20 * bits (e.reg 0) 19 0 - e.progress)]
  else if op = 0xE4 then [(p + e.progress, bits (e.reg 0) 19 0 - e.progress)]
  else if op = 0xE5 ∧ !bit e.raw.ymod 0 then []
  else [(p + e.row * e.progress, 2 ^ 20)]

/-- The command has made its last access to a covered tile (R315). -/
def CCmd.doneWith (e : CCmd) (tile : Nat) : Bool := !e.touches.any (fun x => overlaps x.1 x.2 (256 * tile) 256)

/-- The covered tiles that a command is done with may go back. -/
def State.pokeTiles (s : State) (core : Nat) (e : CCmd) : State :=
  forEach (e.tiles.filter (fun t => e.doneWith t.1)) s (fun s t => s.push (.copyTileReturn core e.ident t.1))

/-- Flip tiles of a cohort to a command. -/
def State.enterCopy (s : State) (sid : Nat) (r : Raw) (p : CEntry) : State :=
  let st := s.strand sid
  let (ident, s) := s.nextId
  let (seq, s) := s.nextSeq
  let e : CCmd :=
    { ident := ident, sid := sid, cid := st.cid, rid := st.rid, asid := s.asidOf st, raw := r, pc := st.pc.toNat, seq := seq,
      stage := 0, dval := st.s r.d.toNat, regs := (st.runOfA r).map (BitVec.ofNat 64), spadBase := st.spadBase r,
      sigVal := BitVec.ofNat 64 (st.s r.sv), rm := p.rm, row := p.row, list := p.list, tiles := p.tiles, bar := Raw.barAt r,
      members := p.members, leave := p.leave, progress := 0, left := p.payload, code := if p.struck then 4 else 0, mask := 0,
      faddr := 0, stash := [], inbox := none, failed := p.struck, events := (0, 0, 0), grant := none, byHost := false, wts := 0,
      retryAt := 0 }
  let s := s.ownTiles st.cid ident p.own
  let s := forEach (p.members.filter (fun m => !m.2)) s (fun s m => s.ownTiles m.1 ident p.theirs)
  let s := match e.bar with
    | some o => forEach p.abands (forEach e.counted s (fun s c => s.barAdd sid c o p.payload)) (fun s c => s.barAband sid c o)
    | none => s
  let s := s.modStrand sid (fun st => st.next r.bytes)
  ((s.modCore st.core (fun c => { c with cq := c.cq ++ [e] })).pokeTiles st.core e).pokeCopy st.core

/-- The queue of a strand's core is full (R313). -/
def State.copyFull (s : State) (sid : Nat) : Bool := decide (32 ≤ (s.core (s.strand sid).core).cq.length)

/-- An engine instruction takes the plan that its checks gave: its fault, or a place in the queue, its addition to the
barrier, its leave. The strand's own accesses to the tiles come before they flip (R187). -/
def State.enterPlan (s : State) (sid : Nat) (r : Raw) (p : CPlan) : State :=
  let st := s.strand sid
  match p with
  | .fault c a => s.fault sid r c a
  | .enter p =>
    if s.tilesBusy sid (p.own ++ (if p.members.contains (st.cid, false) then p.theirs else [])) then s
    else
      let cids := if r.op = 0xE4#8 then (p.members.filter (fun m => !m.2)).map Prod.fst else [st.cid]
      let refused := match Raw.barAt r with
        | some o => cids.any (fun c => s.barRefuses c o p.payload)
        | none => false
      if refused then s.fault sid r clsProt 0
      else
        let (ok, s) := s.takeLeave sid p.leave (s.asidOf st) (s.regionOf st).pool
        if ok then s.enterCopy sid r p else s

/-- An engine instruction issues. -/
def State.issueCopy (s : State) (r : Raw) (plan : State → Strand → CPlan) : Res :=
  s.issue r (fun sid s => if s.copyFull sid then s else s.enterPlan sid r (plan s (s.strand sid)))

def execXcopy (o : XOps) (s : State) : Res := s.issueCopy (rawX 0xE0 o) (fun s st => s.planCopy st (rawX 0xE0 o))
def execXstore (o : XOps) (s : State) : Res := s.issueCopy (rawX 0xE1 o) (fun s st => s.planCopy st (rawX 0xE1 o))
def execXgather (o : XOps) (s : State) : Res := s.issueCopy (rawX 0xE2 o) (fun s st => s.planGather st (rawX 0xE2 o))
def execXscat (o : XOps) (s : State) : Res := s.issueCopy (rawX 0xE3 o) (fun s st => s.planGather st (rawX 0xE3 o))
def execXmcast (o : XOps) (s : State) : Res := s.issueCopy (rawX 0xE4 o) (fun s st => s.planCast st (rawX 0xE4 o))

/-! ## Reading and writing (R187, R319) -/

/-- What an access of a command comes to: done with its bytes, a wait, a fault for triage, an uncorrectable error. -/
inductive EngR where
  | ok (bs : List Byte)
  | wait
  | fault (cls : Nat)
  | lost
  deriving DecidableEq, Repr

/-- The engine as the maker of an access. -/
def State.cmdWho (s : State) (core : Nat) (e : CCmd) : Who := ⟨core, none, e.asid, (s.region e.rid).isSystem⟩

/-- What the command asks of packed pages. -/
def CCmd.packing (e : CCmd) : Nat := if e.raw.op.toNat ≤ 0xE1 && bit e.raw.ymod 3 then 1 else 0

/-- Ask the peer of a window for an access of a command, once (R438). -/
def State.cmdPeer (s : State) (core : Nat) (e : CCmd) (pa n : Nat) (write : Option (List Byte)) : EngR × State :=
  match e.inbox with
  | some bs => (.ok bs, s)
  | none =>
    if s.fabric.peers.any (fun q => q.slot == 8 + core && q.sid == e.ident) then (.wait, s)
    else match s.windowAccess e.ident (8 + core) 0 core pa n 15 write with
      | (.fault c, s) => (.fault c, s)
      | (_, s) => (.wait, s)

/-- Ask the peer of a window for an atomic of a command, once (R438). -/
def State.cmdAtomic (s : State) (core : Nat) (e : CCmd) (pa f ty x : Nat) : EngR × State :=
  match e.inbox with
  | some bs => (.ok bs, s)
  | none =>
    if s.fabric.peers.any (fun q => q.slot == 8 + core && q.sid == e.ident) then (.wait, s)
    else match s.windowAtomic e.ident (8 + core) 0 pa 4 f ty x 0 with
      | (.fault c, s) => (.fault c, s)
      | (_, s) => (.wait, s)

/-- Read n bytes of one line from global memory, or from the weight store. -/
def State.cmdRead (s : State) (core : Nat) (e : CCmd) (a n : Nat) : EngR × State :=
  if e.raw.op.toNat ≤ 0xE1 ∧ e.raw.f = 1#3 then
    match wsPlace e.grant a n with
    | none => (.fault clsProt, s)
    | some x =>
      if s.wsRefreshes x n then (.wait, s)
      else if s.wsStruck x n then (.lost, s.lifeAdd 9 1) else (.ok (s.wsBytes x n), s)
  else if s.behind e.sid e.seq (newAcc 0 a n 0 false) then (.wait, s)
  else match s.strongRead (s.cmdWho core e) a n e.packing with
    | (.ok x, s) => (.ok (leBytes n x), s)
    | (.wait, s) => (.wait, s)
    | (.remote pa, s) => s.cmdPeer core e pa n none
    | (.fault c, s) => (if c = clsUncorr then .lost else .fault c, s)

/-- Write bytes of one line to global memory, or to the weight store. -/
def State.cmdWrite (s : State) (core : Nat) (e : CCmd) (a : Nat) (bs : List Byte) : EngR × State :=
  let n := bs.length
  if e.raw.op.toNat ≤ 0xE1 ∧ e.raw.f = 1#3 then
    match wsPlace e.grant a n with
    | none => (.fault clsProt, s)
    | some x =>
      if s.wsRefreshes x n then (.wait, s)
      else
        let whole (w : Nat) : Bool := decide (x ≤ 8 * w) && decide (8 * w + 8 ≤ x + n)
        (.ok [], { s with pkg := { s.pkg with
          wstore := forEach (cellsOf x bs) s.pkg.wstore (fun m c => kvSet 0#8 m c.1 c.2),
          wstoreBad := s.pkg.wstoreBad.filter (fun w => !whole w) } })
  else if s.behind e.sid e.seq (newAcc 0 a n 0 true) then (.wait, s)
  else match s.homeStore (s.cmdWho core e) a bs e.packing with
    | (.ok _, s) => (.ok [], s)
    | (.wait, s) => (.wait, s)
    | (.remote pa, s) => s.cmdPeer core e pa n (some bs)
    | (.fault c, s) => (if c = clsUncorr then .lost else .fault c, s)

/-- Read scratchpad bytes: lost where an error struck them. -/
def State.cmdSpad (s : State) (cid off n : Nat) : EngR × State :=
  if s.spadStruck cid off n then (.lost, s.lifeAdd 2 1) else (.ok (s.spadBytes cid off n), s)

/-- Write scratchpad bytes at the destination, in every living member for XMCAST. -/
def State.cmdPut (s : State) (e : CCmd) (off : Nat) (bs : List Byte) : State :=
  forEach e.counted s (fun s c => if (s.cohort c).alive then s.spadWrite c off bs else s)

/-! ## Steps of a command -/


/-- A global address of the command, or an offset in the weight store. -/
def CCmd.at (e : CCmd) (d : Int) : Nat :=
  if e.raw.op.toNat ≤ 0xE1 ∧ e.raw.f = 1#3 then ((e.dval : Int) + d).toNat else wrapN 56 ((e.dval : Int) + d)

/-- At most n bytes from an address, within its line. -/
def inLine (a n : Nat) : Nat := min n (128 - a % 128)

/-- The next thing that a command does: load bytes into scratchpad, store bytes of it, put bytes that it holds, fetch
bytes to hold, zero bytes, skip a row, add a word, convert a row in either direction, decode a line, encode its lines;
its end, or an illegal header. -/
inductive CStep where
  | load (a off n : Nat)
  | store (off a n : Nat)
  | put (k a n : Nat)
  | fetch (a n : Nat)
  | zero (off n : Nat)
  | skip (n : Nat)
  | add (off a : Nat)
  | convIn (off : Nat)
  | convOut (off : Nat)
  | decode (off : Nat)
  | encode
  | illegal (a : Nat)
  | done
  deriving DecidableEq, Repr

/-- XCOPY and XSTORE of bytes: progress counts payload bytes. -/
def CCmd.stepRaw (e : CCmd) : CStep :=
  let b := e.box
  if b.rows * b.xb ≤ e.progress then .done
  else
    let i := e.progress / b.xb
    let k := e.progress % b.xb
    let a := e.at (b.gAt i + k)
    let off := e.spadBase + b.pAt i + k
    let n := inLine a (b.xb - k)
    if e.raw.op = 0xE0#8 then .load a off n else .store off a n

/-- XCOPY of elements: progress counts rows. -/
def CCmd.stepIn (e : CCmd) : CStep :=
  let b := e.box
  if b.xb = 0 ∨ b.rows ≤ e.progress then .done
  else
    let k := e.stash.length
    let a := e.at (b.gAt e.progress + k)
    if k < b.xb then .fetch a (inLine a (b.xb - k)) else .convIn (e.spadBase + b.pAt e.progress)

/-- XSTORE of elements: progress counts payload bytes; the stash holds the row being written. -/
def CCmd.stepOut (e : CCmd) : CStep :=
  let b := e.box
  let out := b.out e.raw
  if b.rows * out ≤ e.progress then .done
  else
    let i := e.progress / out
    let k := e.progress % out
    let a := e.at (b.gAt i + k)
    if e.stash = [] then .convOut (e.spadBase + b.pAt i) else .put k a (inLine a (out - k))

/-- A header byte of a packed buffer: SCNT and ENC. -/
def hdrScnt (h : Nat) : Nat := bits h 6 4
def hdrEnc (h : Nat) : Nat := h % 16

/-- The sectors that an encoding gives in a packed buffer; ZRUN by its mask (R324). -/
def encSectors (enc : Nat) (img : List Byte) : Nat :=
  match enc with
  | 0 => 4
  | 1 => 0
  | 2 => 1
  | 9 => sectorsFor (4 + 4 * popN 32 (ofLe (img.take 4)))
  | 3 => sectorsFor 26
  | 4 => sectorsFor 42
  | 5 => sectorsFor 74
  | 6 => sectorsFor 40
  | 7 => sectorsFor 72
  | _ => sectorsFor 74

/-- A header that R324 calls illegal, as far as the header itself and, once read, the image tell. -/
def badHeader (h : Nat) : Bool := bit h 7 || 10 ≤ hdrEnc h || 4 < hdrScnt h || (hdrEnc h == 9 && hdrScnt h == 0)
  || (hdrEnc h != 9 && hdrScnt h != encSectors (hdrEnc h) [])
def badImage (h : Nat) (img : List Byte) : Bool :=
  hdrEnc h == 9 && (23 < popN 32 (ofLe (img.take 4)) || hdrScnt h != encSectors 9 img)

/-- Bytes of the header array with its padding (R323). -/
def headBytes (lines : Nat) : Nat := 32 * ((lines + 31) / 32)

/-- .UNPACK: the stash holds the header array and then the sectors of the line in hand; progress counts lines. -/
def CCmd.stepUnpack (e : CCmd) : CStep :=
  let lines := e.reg 0 / 128
  let have_ := e.stash.length
  if have_ < lines then
    let a := e.at have_
    .fetch a (inLine a (lines - have_))
  else if lines ≤ e.progress then .done
  else
    let hs := e.stash.map BitVec.toNat
    let h := listAt 0 hs e.progress
    if badHeader h then .illegal (e.at e.progress)
    else
      let before := (hs.take e.progress).foldl (fun n x => n + hdrScnt x) 0
      let got := have_ - lines
      let a := e.at (headBytes lines + 32 * before + got)
      if got < 32 * hdrScnt h then .fetch a (inLine a (32 * hdrScnt h - got))
      else if badImage h (e.stash.drop lines) then .illegal (e.at e.progress)
      else .decode (e.spadBase + 128 * e.progress)

/-- .PACK: the stash holds the buffer; progress counts its bytes written. -/
def CCmd.stepPack (e : CCmd) : CStep :=
  if e.reg 0 = 0 then .done
  else if e.stash = [] then .encode
  else if e.stash.length ≤ e.progress then .done
  else
    let a := e.at e.progress
    .put e.progress a (inLine a (e.stash.length - e.progress))

/-- XGATHER and XSCAT: progress counts bytes of rows. -/
def CCmd.stepRows (e : CCmd) : CStep :=
  let rb := bits (e.reg 0) 19 0
  let nr := bits (e.reg 0) 37 20
  if nr * rb ≤ e.progress then .done
  else
    let i := e.progress / rb
    let k := e.progress % rb
    let idx := listAt 0 e.list i
    let off := e.spadBase + e.progress
    let a := e.at ((idx : Int) * sInt 64 (e.reg 1) + k)
    if idx = 0xFFFFFFFF then (if e.raw.op = 0xE2#8 then .zero off rb else .skip rb)
    else if e.raw.op = 0xE2#8 then .load a off (inLine a (rb - k))
    else if bit e.raw.ymod 0 then .add off a
    else .store off a (inLine a (rb - k))

/-- XMCAST. -/
def CCmd.stepCast (e : CCmd) : CStep :=
  let n := bits (e.reg 0) 19 0
  if n ≤ e.progress then .done
  else
    let a := e.at e.progress
    .load a (e.spadBase + e.progress) (inLine a (n - e.progress))

def CCmd.next (e : CCmd) : CStep :=
  let op := e.raw.op.toNat
  if op ≤ 0xE1 then
    (if bit e.raw.ymod 3 then (if op = 0xE0 then e.stepUnpack else e.stepPack)
     else if !Raw.byElem e.raw then e.stepRaw
     else if op = 0xE0 then e.stepIn else e.stepOut)
  else if op = 0xE4 then e.stepCast else e.stepRows

/-- A row of elements converted and permuted, with its events (R321). -/
def CCmd.convert (e : CCmd) (src : List Byte) : List Nat × (Nat × Nat × Nat) :=
  let b := e.box
  let els := unpack (tyWidth b.sty) b.elems src
  let els := if bit e.raw.ymod 2 then e.list.map (listAt 0 els) else els
  if bit e.raw.ymod 1 then
    let (l, _, ev) := convertAll b.sty b.dty b.sigma e.rm b.pol els
    (l, ev)
  else (els, (0, 0, 0))

/-- The bytes of a destination row. The bits of its last byte that no element fills are free (log 12). -/
def State.rowBytes (s : State) (e : CCmd) (l : List Nat) : List Byte × State :=
  let b := e.box
  let w := tyWidth b.dty
  let used := w * b.elems
  if used % 8 = 0 then (leBytes (used / 8) (packElems w l), s)
  else
    let (f, s) := s.freeVal
    (leBytes (b.out e.raw) (packElems w l + 2 ^ used * (f % 2 ^ (8 - used % 8))), s)

/-- The packed image of a line: its header and sectors (R323). -/
def packLine (line : List Byte) : Nat × List Byte :=
  let x := encodeLine line
  let (n, img) := if x.enc = 2 then (1, line.take 8) else (x.sectors, x.image)
  (16 * n + x.enc, leBytes (32 * n) (ofLe img))

/-- The lines of scratchpad bytes. -/
def linesIn (n : Nat) (bs : List Byte) : List (List Byte) :=
  match n with
  | 0 => []
  | n + 1 => bs.take 128 :: linesIn n (bs.drop 128)

/-- The packed buffer of lines. -/
def packBuffer (lines : List (List Byte)) : List Byte :=
  let ps := lines.map packLine
  leBytes (headBytes lines.length) (ofLe (ps.map (fun p => BitVec.ofNat 8 p.1))) ++ (ps.map Prod.snd).flatten

/-- Lines of a packed buffer whose header and sectors lie within its first n bytes. -/
def packedLines (buf : List Byte) (lines n : Nat) : Nat :=
  let h := headBytes lines
  if n < h then 0
  else
    let cnt := (buf.take lines).map (fun x => 32 * hdrScnt x.toNat)
    ((nats lines).filter (fun k => (cnt.take (k + 1)).foldl (fun a c => a + c) h ≤ n)).length

/-! ## Ends (R317, R319) -/

/-- The code of a fault that triage returned. -/
def codeOf (cls : Nat) : Nat := if cls = clsXlate then 1 else if cls = clsPacked then 3 else 2

/-- A command stops: its undelivered bytes leave its barrier, and an error record is due. -/
def State.stopCommand (s : State) (core : Nat) (e : CCmd) (code cls addr : Nat) : State :=
  let due := e.tiles.foldl (fun n t => n + t.2) 0
  let s := forEach e.counted s (fun s c => (s.cmdSub e c (e.left - due) true).2)
  let st := s.strand e.sid
  let s := s.record e.rid 0 cls e.pc (addr % 2 ^ 56) (s.tileOf st) st.strandId 1
  let s := { s with experts := { s.experts with
    queues := s.experts.queues.map (fun (q : Nat × List DRec) => (q.1, q.2.filter (fun d => !(d.core == core && d.ident == some e.ident)))) } }
  s.putCommand core { e with stage := 3, failed := true, code := code, stash := [], inbox := none }

/-- The signal value (R317). -/
def CCmd.signal (e : CCmd) : Nat :=
  let m := bitsLe (e.members.map Prod.snd)
  if e.failed ∨ m ≠ 0 then 2 ^ 63 + (e.sigVal.toNat &&& 0x0000FFFFFFFF0000) + m % 256 * 256 + e.code else e.sigVal.toNat

/-- A command whose tiles are back writes its signal word and leaves the queue. The wts of what it wrote reaches the core's ACQTS with
it, so that an acquiring fence after the signal has been read sees the payload (R183; log 51). The events of a command that
stopped are those of every row that it converted, also of a row that it did not write to its end (DESIGN CHOICE, log 54). -/
def State.finishCommand (s : State) (core : Nat) (e : CCmd) : State :=
  let s := s.noteTime core e.wts
  let s := if (s.cohort e.cid).alive then s.spadWrite e.cid (Raw.sigAt e.raw) (leBytes 8 e.signal) else s
  let (cross, s) := s.countEvents e.rid e.events
  let s := if cross then s.laterClass e.sid clsThresh e.pc 0 e.seq (rawWords e.raw) else s
  let s := s.giveLeave core e.leave e.asid (s.region e.rid).pool
  let s := s.modCore core (fun c => { c with cq := c.cq.filter (fun x => x.ident != e.ident) })
  (forEach (e.cid :: e.members.map Prod.fst) s State.cohortCheck).pokeCopy core

/-- A command returns the tiles that it is done with one by one; one that has done its work and has no tiles left ends. -/
def State.returnTiles (s : State) (core : Nat) (e : CCmd) : State :=
  if e.stage = 3 ∧ e.tiles = [] then s.finishCommand core e else s.pokeTiles core e

/-- COPY_TILE_RETURN (R315, R316): one covered tile that the command is done with flips back, and its bytes leave the barrier. -/
def execCopyTileReturn (core ident tile : Nat) (s : State) : Res :=
  match s.command core ident with
  | none => .next s
  | some e =>
    match (if e.doneWith tile then kvFind e.tiles tile else none) with
    | none => .next s
    | some due =>
      let e' := { e with tiles := kvDel e.tiles tile, left := e.left - due }
      let s := forEach (dedup [] (e.cid :: e.members.map Prod.fst)) s (fun s c =>
        let x := s.cohort c
        s.setCohort c { x with owners := x.owners.filter (fun o => o.1 != tile || o.2 != ident + 1) })
      let (ok, s) := forEach e.counted (true, s) (fun (ok, s) c =>
        let (k, s) := s.cmdSub e c due false
        (ok && k, s))
      let s := s.putCommand core e'
      let s := if ok || e.failed then s else s.stopCommand core e' 2 clsProt (e.bar.getD 0)
      match s.command core ident with
      | some e => .next (if e.stage = 3 then s.returnTiles core e else s)
      | none => .next s

/-! ## Running (R313, R319, R321) -/

/-- The command has delivered n more bytes at a home: they leave its barrier. -/
def State.delivered (s : State) (e : CCmd) (n : Nat) : Bool × CCmd × State :=
  -- members of a barrier that counts the bytes see them (R186)
  let s := if e.bar.isSome then s.modCore (s.cohort e.cid).core (fun c => { c with lt := max c.lt e.wts }) else s
  let (ok, s) := s.cmdSub e e.cid n false
  (ok, { e with left := e.left - n }, s)

/-- The command n bytes or rows on, and one that has written n bytes at an address. -/
def CCmd.past (e : CCmd) (n : Nat) : CCmd := { e with progress := e.progress + n, inbox := none }
def CCmd.wrote (e : CCmd) (s : State) (core a n : Nat) : CCmd :=
  if e.raw.op.toNat ≤ 0xE1 ∧ e.raw.f = 1#3 then e else { e with wts := max e.wts (s.wtsAt (s.cmdWho core e) a n) }

/-- A command has met a fault: it is with triage, in the mode that triage has now (R319, R454). -/
def State.cmdFault (s : State) (core : Nat) (e : CCmd) (cls addr : Nat) : State :=
  (if s.hostMode 1 then s.vector 2 else s).putCommand core { e with stage := 2, mask := cls, faddr := addr, byHost := s.hostMode 1 }

/-- One step of a command: the command after it, or none once it waits, stops or is done. -/
def State.stepCommand (s : State) (core : Nat) (e : CCmd) : Option CCmd × State :=
  let waits (s : State) : Option CCmd × State := (none, s.putCommand core e)
  let fails (s : State) (c a : Nat) : Option CCmd × State :=
    (none, s.cmdFault core e c a)
  let lost (s : State) (a : Nat) : Option CCmd × State := (none, s.stopCommand core e 4 clsUncorr a)
  let sent (s : State) (e : CCmd) (n : Nat) : Option CCmd × State :=
    let (ok, e, s) := s.delivered e n
    if ok then (some e, s) else (none, s.stopCommand core e 2 clsProt (e.bar.getD 0))
  let read (a n : Nat) (f : List Byte → State → Option CCmd × State) : Option CCmd × State :=
    match s.cmdRead core e a n with
    | (.ok bs, s) => f bs s
    | (.wait, s) => waits s
    | (.fault c, s) => fails s c a
    | (.lost, s) => lost s a
  let write (s : State) (a : Nat) (bs : List Byte) (f : CCmd → State → Option CCmd × State) : Option CCmd × State :=
    match s.cmdWrite core e a bs with
    | (.ok _, s) => f (e.wrote s core a bs.length) s
    | (.wait, s) => waits s
    | (.fault c, s) => fails s c a
    | (.lost, s) => lost s a
  let spad (off n : Nat) (f : List Byte → State → Option CCmd × State) : Option CCmd × State :=
    match s.cmdSpad e.cid off n with
    | (.ok bs, s) => f bs s
    | (_, s) => lost s 0
  let on (n : Nat) : CCmd := e.past n
  match e.next with
  | .done => (none, s.putCommand core { e with stage := 3, stash := [] })
  | .load a off n => read a n (fun bs s => (some (on n), s.cmdPut e off bs))
  | .store off a n => spad off n (fun bs s => write s a bs (fun e s => sent s (e.past n) n))
  | .fetch a n => read a n (fun bs s => (some { e with stash := e.stash ++ bs, inbox := none }, s))
  | .put k a n =>
    let bs := (e.stash.drop k).take n
    write s a bs (fun e s =>
      let e' := e.past n
      if bit e.raw.ymod 3 then
        let lines := e.reg 0 / 128
        sent s e' (128 * (packedLines e.stash lines e'.progress - packedLines e.stash lines e.progress))
      else sent s (if k + n = e.stash.length then { e' with stash := [] } else e') n)
  | .zero off n => (some (on n), s.cmdPut e off (List.replicate n 0#8))
  | .skip n => sent s (on n) n
  | .add off a => spad off 4 (fun bs s =>
      if s.behind e.sid e.seq (newAcc 0 a 4 0 true) then waits s
      else match s.atomicAt (s.cmdWho core e) a 4 needRW with
        | (.ok pa, s) =>
          if s.isProtected pa then fails s clsProt a
          else
            let s := s.writeOf (s.cmdWho core e) (cellsOf pa (leBytes 4 (atomNew 0 8 (s.numAt pa 4) (ofLe bs) 0)))
            sent s ((e.wrote s core a 4).past 4) 4
        | (.wait, s) => waits s
        | (.fault c, s) => if c = clsUncorr then lost s a else fails s c a
        | (.remote pa, s) => match s.cmdAtomic core e pa 0 8 (ofLe bs) with
          | (.ok _, s) => sent s (on 4) 4
          | (.fault c, s) => fails s c a
          | (_, s) => waits s)
  | .convIn off =>
    let (l, ev) := e.convert e.stash
    let (bs, s) := s.rowBytes e l
    (some { on 1 with stash := [], events := addEvents e.events ev }, s.cmdPut e off bs)
  | .convOut off => spad off e.box.xb (fun bs s =>
      let (l, ev) := e.convert bs
      let (row, s) := s.rowBytes e l
      (some { e with stash := row, events := addEvents e.events ev }, s))
  | .decode off =>
    let lines := e.reg 0 / 128
    let img := e.stash.drop lines
    let h := (listAt 0#8 e.stash e.progress).toNat
    let line := (decodeLine (hdrEnc h) (ofLe (img.take 8)) img).getD []
    (some { on 1 with stash := e.stash.take lines }, s.cmdPut e off line)
  | .encode => spad e.spadBase (e.reg 0) (fun bs s => (some { e with stash := packBuffer (linesIn (e.reg 0 / 128) bs) }, s))
  | .illegal a => (none, s.stopCommand core e 3 clsPacked a)

/-- Run a command, at most fuel steps. -/
def State.runCommand (s : State) (core fuel : Nat) (e : CCmd) : State :=
  match fuel with
  | 0 => s.putCommand core e
  | fuel + 1 =>
    match s.stepCommand core e with
    | (some e, s) => s.runCommand core fuel e
    | (none, s) => s

/-- Steps that a command can take. -/
def CCmd.fuel (e : CCmd) : Nat := 4 * e.left + 4 * e.box.xb + 16

/-- A copy command starts, or goes on, at most so many steps. -/
def State.startCopy (s : State) (core fuel : Nat) (e : CCmd) : State :=
  let e := { e with stage := 1, grant := if e.stage = 0 then s.grantOf e.rid else e.grant }
  let s := s.putCommand core e
  -- an error struck the map or the list that was read at issue
  let s := if e.failed then s.stopCommand core e 4 clsUncorr 0 else s.runCommand core (min fuel e.fuel) e
  match s.command core e.ident with
  | some e => (s.returnTiles core e).pokeCopy core
  | none => s

/-- Triage repaired what a command met: it goes on (R319). -/
def State.copyRepaired (s : State) (core ident : Nat) : State :=
  match s.command core ident with
  | some e => if e.stage = 2 then (s.putCommand core { e with stage := 1 }).push (.copyCommandStart core ident) else s
  | none => s

/-- The step that a command is at writes global memory. -/
def CCmd.writes (e : CCmd) : Bool :=
  match e.next with
  | .store _ _ _ | .put _ _ _ | .add _ _ => true
  | _ => false

/-- Triage returned the fault that a command met: it stops (R319). A write fault on a page that migrates is never returned
(R388). -/
def State.copyReturned (s : State) (core ident : Nat) : State :=
  match s.command core ident with
  | some e =>
    let (moves, s) := if e.stage = 2 ∧ e.mask = clsProt ∧ e.writes then s.migrating (s.cmdWho core e) e.faddr else (false, s)
    if e.stage = 2 ∧ !moves then
      let s := s.stopCommand core e (codeOf e.mask) e.mask e.faddr
      (match s.command core ident with
        | some e => s.returnTiles core e
        | none => s)
    else s
  | none => s

/-! ## MLDT (R329) -/

/-- MLDT: rows of 64 halfwords into registers, transposed. It reads its rows as it issues, so that every fault is precise; its
destinations are empty until LOAD_DATA_ARRIVAL brings the values (R28). -/
def execMldt (o : MOps) (s : State) : Res :=
  let r := rawM 0xDA o
  s.issue r (fun sid s =>
    let st := s.strand sid
    let off := (st.s r.a.toNat : Int) + r.dispM
    let n := 8 * (r.f.toNat + 1)
    match s.spadCheck st.cid off (128 * n) 128 with
    | some c => s.fault sid r c (wrapN 56 off)
    | none =>
      let o0 := off.toNat
      if s.spadStruck st.cid o0 (128 * n) then
        ((s.errorRecord (some st.rid) clsUncorr 0).lifeAdd 2 1).fault sid r clsUncorr (wrapN 56 off)
      else
        let d := st.eff r r.d.toNat
        let half (row t : Nat) : Nat := s.spadNum st.cid (o0 + 128 * row + 2 * t) 2
        let lanes := (nats (n / 2)).flatMap (fun i => st.active.map (fun t =>
          ((d + i) * 64 + t, BitVec.ofNat 32 (half (2 * i) t + 2 ^ 16 * half (2 * i + 1) t))))
        let (seq, s) := s.nextSeq
        let f : Fill := { seq := seq, regs := natsFrom (keyV d) (n / 2), lanes := lanes, uregs := [], flags := 0#5, kind := .rows }
        let s := s.setStrand sid { (st.emptyAll f.regs).next r.bytes with fills := st.fills ++ [f] }
        s.push (.loadDataArrival sid (8 + seq)))

end Sys2Proof.Machine
end

