-- ==== Sys2Proof/Machine/Expert.lean ====
section
/-! DEFINITION. The routed-expert path (R333 to R348): the layer configuration block, dispatch engines with capacity, batches and
late records, product work, XDISP, XCOMB and their reverse forms; the start of an engine command. -/

namespace Sys2Proof.Machine

/-! ## The layer configuration block (R333, R336) -/

def lcbEstate (x : Nat) : Nat := bits x 1015 960
def lcbSlotc (x : Nat) : Nat := bits x 951 896
def lcbCapc (x : Nat) : Nat := bits x 887 832
def lcbGin (x : Nat) : Nat := bits x 823 768
def lcbOut (x : Nat) : Nat := bits x 759 704
def lcbCstate (x : Nat) : Nat := bits x 695 640
def lcbCbuf (x : Nat) : Nat := bits x 631 576
def lcbBstride (x : Nat) : Nat := bits x 575 512
def lcbEin (x : Nat) : Nat := bits x 503 448
def lcbTin (x : Nat) : Nat := bits x 439 384
def lcbPentry (x : Nat) : Nat := bits x 375 320
def lcbPswz (x : Nat) : Bool := bit x 304
def lcbPtiles (x : Nat) : Nat := bits x 303 292
def lcbPallot (x : Nat) : Nat := bits x 291 288
def lcbBlive (x : Nat) : Nat := bits x 287 256
def lcbCf (x : Nat) : Nat := bits x 239 224
def lcbClosew (x : Nat) : Nat := bits x 223 192
def lcbTper (x : Nat) : Nat := bits x 191 160
def lcbRfill (x : Nat) : Nat := bits x 159 128
def lcbDm (x : Nat) : Nat := bits x 127 112
def lcbTbu (x : Nat) : Nat := bits x 111 96
def lcbNtok (x : Nat) : Nat := bits x 83 64
def lcbTokbase (x : Nat) : Nat := bits x 63 32
def lcbBcap (x : Nat) : Nat := bits x 28 16
def lcbClose (x : Nat) : Bool := bit x 15
def lcbMode (x : Nat) : Bool := bit x 14
def lcbK (x : Nat) : Nat := bits x 13 10
def lcbNexp (x : Nat) : Nat := bits x 9 0

/-- Bytes of a token row, of a product row, and where a batch buffer's rows begin. -/
def lcbTb (x : Nat) : Nat := 32 * lcbTbu x
def lcbRb (x : Nat) : Nat := 4 * lcbDm x
def lcbRoff (x : Nat) : Nat := (8 * lcbBcap x + 255) / 256 * 256
/-- BUF(e, x) of R336. -/
def lcbBuf (x e b : Nat) : Nat := (lcbEin x + (2 * e + b) * lcbBstride x) % 2 ^ 56
/-- The token-local index of a token. -/
def lcbIndex (x token : Nat) : Nat := (token + 2 ^ 32 - lcbTokbase x) % 2 ^ 32

/-- A misaligned address field, if any (R347). -/
def lcbMisaligned (x : Nat) : Option Nat :=
  if lcbEstate x % 1024 ≠ 0 then some (lcbEstate x)
  else if lcbEin x % 256 ≠ 0 then some (lcbEin x)
  else if lcbBstride x % 256 ≠ 0 then some (lcbBstride x % 2 ^ 56)
  else none

/-- Fields within the limits of R333. -/
def lcbOk (x : Nat) : Bool :=
  let zeros := [(319, 305), (255, 240), (95, 84), (31, 29), (1023, 1016), (959, 952), (895, 888), (831, 824), (767, 760), (703, 696),
    (639, 632), (511, 504), (447, 440), (383, 376)].all (fun f => bits x f.1 f.2 == 0)
  zeros && lcbPentry x % 4 == 0 && decide (lcbPtiles x ≤ 2048) && decide (1 ≤ lcbPallot x) && decide (1000 ≤ lcbTper x)
    && (!lcbClose x || decide (1 ≤ lcbClosew x)) && decide (1 ≤ lcbDm x) && decide (lcbDm x ≤ 16384)
    && decide (1 ≤ lcbTbu x) && decide (lcbTbu x ≤ 2048) && decide (1 ≤ lcbNtok x) && decide (1 ≤ lcbBcap x)
    && decide (lcbBcap x ≤ 4096) && decide (1 ≤ lcbK x) && decide (lcbK x ≤ 8) && decide (1 ≤ lcbNexp x)
    && decide (lcbNexp x ≤ 512)

/-! ## Expert state (R335), combine entries (R337), route records (R299) -/

def esOpent (b : Nat) : Nat := bits b 511 448
def esBseq (b : Nat) : Nat := bits b 351 320
def esCn (b x : Nat) : Nat := if x = 0 then bits b 124 112 else bits b 12 0
def esSetCn (b x v : Nat) : Nat := if x = 0 then setBits b 124 112 v else setBits b 12 0 v
def esN (b x : Nat) : Nat := if x = 0 then bits b 92 80 else bits b 108 96
def esSetN (b x v : Nat) : Nat := if x = 0 then setBits b 92 80 v else setBits b 108 96 v
def esOpen (b : Nat) : Bool := bit b 78
def esX (b : Nat) : Nat := bits b 77 77
def esFill (b : Nat) : Nat := bits b 76 64
def esLcnt (b : Nat) : Nat := bits b 38 32
def esLhead (b : Nat) : Nat := bits b 29 24
def esBusy (b x : Nat) : Bool := bit b (16 + x)
def esSetBusy (b x : Nat) (v : Bool) : Nat := setBits b (16 + x) (16 + x) (b2n v)
/-- A count that stops at 2^32 - 1 goes up: BAD, LATE, DROP at these bits. -/
def esCount (b lo : Nat) : Nat := setBits b (lo + 31) lo (min (bits b (lo + 31) lo + 1) (2 ^ 32 - 1))
def esBad : Nat := 352
def esLate : Nat := 384
def esDrop : Nat := 416

def recScore (r : Nat) : Nat := bits r 63 48
def recValid (r : Nat) : Bool := bit r 47
def recRank (r : Nat) : Nat := bits r 46 44
def recExpert (r : Nat) : Nat := bits r 43 32
def recToken (r : Nat) : Nat := bits r 31 0

/-! ## The engines' accesses -/

/-- Why an engine stops: it must wait (for an access of some bytes, or for something else); a peer must first answer an access to a
window, a write or not, of a number word and data (R438); a fault for triage; an uncorrectable error. -/
inductive EErr where
  | wait (range : Option (Nat × Nat))
  | peer (pa n : Nat) (write : Bool) (data : List Byte)
  | fault (cls addr : Nat)
  | lost (addr : Nat)
  deriving DecidableEq, Repr

/-- A unit of an engine's work. It takes effect whole, or not at all. -/
abbrev Eng (α : Type) := ExceptT EErr (StateM State) α

/-- Let an access that must wait set going what it waits for, line by line: the translation, the write-back of the core's own bytes, a
snoop. -/
def State.prepare (s : State) (w : Who) (va n : Nat) : State :=
  forEach (pieces (va % 2 ^ 56) n) s (fun s p => match s.translate w p.1 with
    | (.hit pa _, s) =>
      if isWindow pa then s
      else
        let (_, s) := s.writeBack w.core (pa / 128)
        s.noteBlocked (pa / 128) (some w.core)
    | (_, s) => s)

/-- Who asks peers for a unit of work: the key of its answers (Experts.remote), and how the request names it. -/
structure Asker where
  key : Nat
  sid : Nat
  slot : Nat
  deriving DecidableEq, Repr

/-- Who works for a layer: the maker of its accesses, the strand and the place in its program order that they come after (R183;
none for what time brings), the pool whose allowance it takes from, the issuing region, the die, the LCB's address, the block, and who
asks peers (none at issue). -/
structure Job where
  who : Who
  own : Option (Nat × Nat)
  pool : Nat
  rid : Nat
  die : Nat
  lcb : Nat
  x : Nat
  asker : Option Asker
  deriving DecidableEq, Repr

/-- What peers have answered to the unit of work in hand, in order. -/
def State.answers (s : State) (key : Nat) : List (Option (List Byte)) := kvGet [] s.experts.remote key
def State.setAnswers (s : State) (key : Nat) (l : List (Option (List Byte))) : State :=
  { s with experts := { s.experts with remote := kvSet [] s.experts.remote key l } }

/-- The asker's request is on its way. -/
def State.asked (s : State) (a : Asker) : Bool := s.fabric.peers.any (fun q => q.slot == a.slot && q.sid == a.sid)

/-- Run a unit of work: a failed one leaves the state as it was, but for the answers of peers, which it meets again when it runs
again, and for a host's answer that its fault has used up (R377). One that waits without an address has written nothing yet, and keeps
the place that it has taken at a counter's home. -/
def runEng {α : Type} (j : Job) (m : Eng α) (s : State) : Except EErr α × State :=
  match m.run.run s with
  | (.ok a, s') => (.ok a, s')
  | (.error (.wait (some (va, n))), _) => (.error (.wait (some (va, n))), s.prepare j.who va n)
  | (.error (.wait none), s') =>
    (.error (.wait none), match j.asker with
      | some a => s'.setAnswers a.key (s.answers a.key)
      | none => s')
  | (.error (.peer pa n write data), _) => (match j.asker with
      | some a => (.error (.wait none), if s.asked a then s else (s.askPeer a.sid a.slot 0 pa n write data).2)
      | none => (.error (.fault clsProt 0), s))
  | (.error (.fault c a), _) => (.error (.fault c a), (s.translate j.who a).2)
  | (.error x, _) => (.error x, s)

/-- What an access of n bytes answered. -/
def egAnswer (r : MemR) (va n : Nat) : Eng Nat :=
  match r with
  | .ok x => pure x
  | .wait => throw (.wait (some (va, n)))
  | .remote _ => throw (.fault clsProt va)
  | .fault c => if c = clsUncorr then throw (.lost va) else throw (.fault c va)

/-- An access that a peer serves: its answer, once it has come (R438). -/
def egRemote (j : Job) (va pa n : Nat) (write : Bool) (data : List Byte) : Eng (List Byte) := do
  let s ← get
  let ww := s.winWord (winOf pa)
  if !winValid ww || winKind ww != 0 then throw (.fault clsProt va)
  else match j.asker with
    | none => throw (.fault clsProt va)
    | some a => match s.answers a.key with
      | [] => throw (.peer pa n write data)
      | none :: _ => throw (.fault clsProt va)
      | some bs :: rest =>
        set (s.setAnswers a.key rest)
        pure bs

/-- An access comes after the issuing strand's own earlier accesses to the same bytes (R183, R348). -/
def egAfter (j : Job) (a n : Nat) (write : Bool) : Eng Unit := do
  let s ← get
  match j.own with
  | some (sid, seq) => if s.behind sid seq (newAcc 0 a n 0 write) then throw (.wait (some (a, n))) else pure ()
  | none => pure ()

/-- Read the pieces of a range that lie each in one line. -/
def egPieces (j : Job) (l : List (Nat × Nat)) : Eng (List Byte) := do
  match l with
  | [] => pure []
  | (a, n) :: rest =>
    let s ← get
    let (r, s) := s.strongRead j.who a n 0
    set s
    let bs ← (match r with
      | .remote pa => egRemote j a pa n false []
      | r => do
        let x ← egAnswer r a n
        pure (leBytes n x))
    let more ← egPieces j rest
    pure (bs ++ more)

def egRead (j : Job) (va n : Nat) : Eng Nat := do
  let a := va % 2 ^ 56
  egAfter j a n false
  let bs ← egPieces j (pieces a n)
  pure (ofLe bs)

/-- Write bytes piece by piece. -/
def egPut (j : Job) (va : Nat) (bs : List Byte) (l : List (Nat × Nat)) : Eng Unit := do
  match l with
  | [] => pure ()
  | (a, n) :: rest =>
    let mine := (bs.drop (a - va)).take n
    let s ← get
    let (r, s) := s.strongWrite j.who a mine
    set s
    (match r with
      | .remote pa => do
        let _ ← egRemote j a pa n true mine
        pure ()
      | r => do
        let _ ← egAnswer r a n
        pure ())
    egPut j va bs rest

def egWrite (j : Job) (va : Nat) (bs : List Byte) : Eng Unit := do
  let a := va % 2 ^ 56
  egAfter j a bs.length true
  egPut j a bs (pieces a bs.length)

def egMod (f : State → State) : Eng Unit := modify f

/-- A counter's home block at a virtual address, of a kind. -/
def egCounter (j : Job) (va kind : Nat) : Eng Nat := do
  let s ← get
  let a := va % 2 ^ 56
  let (r, s) := s.atomicAt j.who a 64 needRW
  set s
  let pa ← egAnswer r a 64
  let s ← get
  if pa % 64 ≠ 0 ∨ !s.isProtected pa ∨ blkKind (s.blk pa) ≠ kind then throw (.fault clsProt a) else pure pa

/-- The request of an expert's engine at a counter's home, for the job's core. -/
def engineReq (j : Job) (e : Nat) : CtrReq := .engine j.who.core (1 + e % 2)

/-- Take one unit of an expert's capacity (R340), through the allowance of the job's core (R271). -/
def egTake (j : Job) (e : Nat) : Eng Bool := do
  let pa ← egCounter j (lcbCapc j.x + 64 * e) 1
  let s ← get
  let (r, s) := s.engineTake (engineReq j e) j.who.core pa 1 j.who.asid j.pool
  set s
  match r with
  | .wait => throw (.wait none)
  | .ok => pure true
  | .fail => pure false

/-- Take the next slot of a batch. -/
def egSlot (j : Job) (e : Nat) : Eng Nat := do
  let pa ← egCounter j (lcbSlotc j.x + 64 * e) 2
  let s ← get
  let (r, base, s) := s.enginePick (engineReq j e) j.who.core pa j.who.asid j.pool
  set s
  match r with
  | .wait => throw (.wait none)
  | .ok => pure base
  | .fail => throw (.fault clsProt ((lcbSlotc j.x + 64 * e) % 2 ^ 56))

/-- Initialise a counter of an expert at its home, in the home's order (R255, R264). -/
def egInit (j : Job) (e pa blk : Nat) : Eng Unit := do
  let q := engineReq j e
  let s ← get
  let (turn, s) := s.homeTurn pa j.who.core q
  set s
  if turn then egMod (fun s => (s.initCtr pa blk).ctrLeave pa q) else throw (.wait none)

/-- Set an expert's capacity (R338, R339). -/
def egRefill (j : Job) (e v : Nat) : Eng Unit := do
  let pa ← egCounter j (lcbCapc j.x + 64 * e) 1
  egInit j e pa (initBlock false true (fun i => if i = 0 then v else if i = 2 then 1 else 0) 0)

def egState (j : Job) (e : Nat) : Eng Nat := egRead j (lcbEstate j.x + 1024 * e) 64
def egPutState (j : Job) (e b : Nat) : Eng Unit := egWrite j (lcbEstate j.x + 1024 * e) (leBytes 64 b)

/-! ## The combine (R345) -/

/-- The combined element i of ranks with their scores and rows. -/
def combineElem (l : List (Nat × List Byte)) (i : Nat) : Nat :=
  l.foldl (fun acc p =>
    (roundEx fmtF32 0 0 (exFma 0 (fmtBf16.value p.1) (fmtF32.value (ofLe ((p.2.drop (4 * i)).take 4))) (fmtF32.value acc)).1).bits) 0

/-- The rows of the ranks from q on, n of them, that carry a contribution. -/
def egRows (j : Job) (u z scores n q : Nat) : Eng (List (Nat × List Byte)) := do
  match n with
  | 0 => pure []
  | n + 1 =>
    let rest ← egRows j u z scores n (q + 1)
    if bit z q then pure rest
    else
      let rb := lcbRb j.x
      let x ← egRead j (lcbCbuf j.x + (u * lcbK j.x + q) * rb) rb
      pure ((scores / 2 ^ (16 * q) % 2 ^ 16, leBytes rb x) :: rest)

/-- CheckDone: a token whose every rank is filled is combined. -/
def egCheckDone (j : Job) (u : Nat) : Eng Unit := do
  let at_ := lcbCstate j.x + 32 * u
  let x ← egRead j at_ 32
  if x % 256 = 2 ^ lcbK j.x - 1 then
    let rows ← egRows j u (x / 256 % 256) (x / 2 ^ 64 % 2 ^ 128) (lcbK j.x) 0
    egWrite j (lcbOut j.x + u * lcbRb j.x) ((nats (lcbDm j.x)).map (fun i => leBytes 4 (combineElem rows i))).flatten
    egWrite j at_ (leBytes 8 (setBits (x % 2 ^ 64) 16 16 1))
  else pure ()

/-- Fill a rank with a zero-contribution marker. -/
def egMarker (j : Job) (u q : Nat) : Eng Unit := do
  let at_ := lcbCstate j.x + 32 * u
  let x ← egRead j at_ 8
  egWrite j at_ (leBytes 8 (setBits (setBits x q q 1) (8 + q) (8 + q) 1))
  egCheckDone j u

/-! ## Batches and product work (R341) -/

/-- Product work enters its bin when the bin's pending list and formed place are both empty. -/
def State.tryProduct (s : State) (p : Product) : Bool × State :=
  let b := binOf p.key.entry
  let x := s.bin p.core b
  if x.pending.isEmpty && x.formed.isNone then
    (true, (s.enterAll p.core b p.key ((nats 64).map (fun t => (t, ⟨p.args, 0, 0⟩)))).2)
  else (false, s)

/-- Product work that cannot enter yet tries again 1,024 cycles later. -/
def State.spawnProduct (s : State) (p : Product) : State :=
  let (ok, s) := s.tryProduct p
  if ok then s
  else { s with experts := { s.experts with products := s.experts.products ++ [{ p with retryAt := s.cycle + 1024 }] } }

/-- The die and core that R136 gives first for a tile of coordinates (tx, ty, 0). -/
def firstCore (r : Rcb) (tx ty : Nat) : Nat × Nat :=
  let f := (tx ^^^ (ty * 2 ^ 6)) % 2 ^ 32
  let g := f ^^^ r.salt
  let h := (g % 2 ^ 16) ^^^ (g / 2 ^ 16 % 2 ^ 16)
  let (die, slice) := if r.both then (h % 96 / 48, h % 48) else (r.die, h % 48)
  (die, (homeCores die slice).headD 0)

/-- Close(e): the block after it. It writes nothing before the slot counter is initialised. -/
def egClose (j : Job) (e b : Nat) : Eng Nat := do
  if !esOpen b then pure b
  else
    let x := esX b
    let n := esFill b
    let slots ← egCounter j (lcbSlotc j.x + 64 * e) 2
    let s ← get
    let sys := blkSys (s.blk slots)
    egInit j e slots (initBlock true sys (fun i => if i = 1 then lcbBcap j.x else if i = 2 then 1 else 0) 0)
    let r := (s.region j.rid).rcb
    let seq := esBseq b
    let (_, core) := firstCore r e (seq % 2 ^ 20)
    let buf := lcbBuf j.x e x
    let args := [e % 2 ^ 12 + x * 2 ^ 12 + n * 2 ^ 13, seq, buf % 2 ^ 32, buf / 2 ^ 32]
    let key : BinKey := { rid := j.rid, entry := lcbPentry j.x, allot := 8 * (lcbPallot j.x + 1), tiles := lcbPtiles j.x,
                          swz := lcbPswz j.x }
    egMod (fun s => s.spawnProduct { die := j.die, core := core, key := key, args := args.map (BitVec.ofNat 32), lcb := j.lcb,
                                     expert := e, retryAt := 0 })
    let b := esSetCn (esSetBusy (esSetN b x n) x true) x 0
    pure (setBits (setBits (setBits (setBits b 351 320 ((seq + 1) % 2 ^ 32)) 77 77 (1 - x)) 76 64 0) 78 78 0)

/-- The open batch of an expert is closed, if it satisfies a condition. -/
def egCloseIf (j : Job) (e : Nat) (p : Nat → Bool) : Eng Unit := do
  let b ← egState j e
  if esOpen b ∧ p b then
    let b ← egClose j e b
    egPutState j e b
  else pure ()

/-- Place(e, r): a record goes into the open batch; its batch is closed as a unit of its own (egCloseIf). A late one leaves the late
queue. -/
def egPlace (j : Job) (e r : Nat) (late : Bool) : Eng Unit := do
  let b ← egState j e
  let x := esX b
  if !esOpen b && esBusy b x then throw (.wait none)
  else
    let s ← get
    let b := if esOpen b then b else setBits (setBits b 78 78 1) 511 448 s.ns
    let b := if late then setBits (setBits b 38 32 (esLcnt b - 1)) 29 24 ((esLhead b + 1) % 64) else b
    let u := lcbIndex j.x (recToken r)
    let tb := lcbTb j.x
    let row ← egRead j (lcbTin j.x + u * tb) tb
    let slot ← egSlot j e
    let buf := lcbBuf j.x e x
    egWrite j (buf + lcbRoff j.x + slot * tb) (leBytes tb row)
    egWrite j (buf + 8 * slot) (leBytes 8 r)
    egWrite j (lcbCstate j.x + 32 * u + 8 + 2 * recRank r) (leBytes 2 (recScore r))
    egPutState j e (setBits b 76 64 (esFill b + 1))

/-- A batch that is full. -/
def esFull (x b : Nat) : Bool := esFill b == lcbBcap x

/-- The place of a late record among all that are late. -/
def lateKey (lcb e slot : Nat) : Nat := (lcb * 512 + e) * 64 + slot

/-- The owner engine handles a record (R340), a stage at a time: the stage that follows, none when it has been handled. A unit of
capacity once taken stays taken while placement waits. A bad record that names no expert counts in expert 0's block (log 31). -/
def egRecord (j : Job) (r stage : Nat) : Eng (Option Nat) := do
  let u := lcbIndex j.x (recToken r)
  let q := recRank r
  let e := recExpert r
  if lcbNtok j.x ≤ u ∨ lcbK j.x ≤ q ∨ (recValid r ∧ lcbNexp j.x ≤ e) then
    let e := if e < lcbNexp j.x then e else 0
    let b ← egState j e
    egPutState j e (esCount b esBad)
    pure none
  else if !recValid r then
    egMarker j u q
    pure none
  else match stage with
    | 0 =>
      let ok ← egTake j e
      if ok then pure (some 1)
      else
        let b ← egState j e
        if esLcnt b < 64 then
          let slot := (esLhead b + esLcnt b) % 64
          egWrite j (lcbEstate j.x + 1024 * e + 0x200 + 8 * slot) (leBytes 8 r)
          egPutState j e (esCount (setBits b 38 32 (esLcnt b + 1)) esLate)
          egMod (fun s => { s with experts := { s.experts with late := kvPut s.experts.late (lateKey j.lcb e slot) (j.who.core, j.own.getD (0, 0)) } })
        else
          egPutState j e (esCount b esDrop)
          egMarker j u q
        pure none
    | 1 =>
      egPlace j e r false
      pure (some 2)
    | _ =>
      egCloseIf j e (esFull j.x)
      pure none

/-- Take the oldest record out of an expert's late queue and place it, a stage at a time: the stage that follows, none when the
queue is empty or the capacity used up (R338). Its take goes through the core that issued the XDISP carrying it (R340), and its row is
read after that strand's earlier accesses (R183, R348). -/
def egDrain (j : Job) (e stage : Nat) : Eng (Option Nat) := do
  let b ← egState j e
  let s ← get
  let (core, own) := (kvFind s.experts.late (lateKey j.lcb e (esLhead b))).getD (j.who.core, (0, 0))
  let mine := { j with who := { j.who with core := core }, own := some own }
  match stage with
  | 0 =>
    if esLcnt b = 0 then pure none
    else
      let ok ← egTake mine e
      pure (if ok then some 1 else none)
  | 1 =>
    let r ← egRead mine (lcbEstate j.x + 1024 * e + 0x200 + 8 * esLhead b) 8
    egPlace mine e r true
    pure (some 2)
  | _ =>
    egCloseIf mine e (esFull j.x)
    pure (some 0)

/-! ## Layers and what reaches an engine (R334, R338, R339) -/

/-- The layer of an LCB, while its region lives. -/
def State.layerOf (s : State) (pa : Nat) : Option Layer :=
  s.experts.layers.find? (fun l => l.pa == pa && decide (1 ≤ (s.region l.rid).state) && decide ((s.region l.rid).state ≤ 4))
def State.putLayer (s : State) (l : Layer) : State :=
  { s with experts := { s.experts with layers := l :: s.experts.layers.filter (fun x => x.pa != l.pa) } }

/-- A dispatch engine as the asker of peers. -/
def engineAsker (die engine : Nat) : Asker := let k := die * 2 + engine % 2; ⟨k, k, 200 + k⟩

/-- The work of an engine for a layer, with its block as the latest command read it (R334). -/
def State.layerJob (s : State) (l : Layer) (engine : Nat) : Job :=
  let r := s.region l.rid
  ⟨⟨l.core, none, l.asid, r.isSystem⟩, none, r.pool, l.rid, l.die, l.pa, l.block.toNat, some (engineAsker l.die engine)⟩

def Layer.inst (l : Layer) (engine : Nat) : Nat := if engine % 2 = 0 then l.inst0 else l.inst1
def Layer.setInst (l : Layer) (engine i : Nat) : Layer := if engine % 2 = 0 then { l with inst0 := i } else { l with inst1 := i }

/-- The instants of a layer so far. -/
def State.instants (s : State) (x : Nat) : Nat := s.ns / max 1 (lcbTper x)

/-- A layer's block as a command reads it; with another period, instants are counted anew. -/
def State.noteBlock (s : State) (l : Layer) (x : Nat) : State :=
  let l' := { l with block := BitVec.ofNat 1024 x }
  s.putLayer (if lcbTper x = lcbTper l.block.toNat then l' else { l' with inst0 := s.instants x, inst1 := s.instants x })

/-- One of the things that a step or an instant has for an expert. -/
inductive SweepOp where
  | close (e : Nat)
  | refill (e v : Nat)
  | drain (e : Nat)
  deriving DecidableEq, Repr

/-- Experts that an engine owns (R334). -/
def ownedBy (x engine : Nat) : Nat := (lcbNexp x + 1 - engine % 2) / 2

/-- What an instant has for an expert (R338); in compatibility mode it only closes (R339). -/
def instantOps (x e : Nat) : List SweepOp :=
  (if lcbClose x then [] else [.close e]) ++ (if lcbMode x then [] else [.refill e (lcbRfill x), .drain e])

/-- A part of a step: every capacity is set, then every late queue drained (R339). Of an instant: expert by expert (R338). None after
the last part. -/
def sweepPart (x engine : Nat) (w : DWork) (part : Nat) : Option SweepOp :=
  let m := ownedBy x engine
  let e (i : Nat) : Nat := engine % 2 + 2 * i
  match w with
  | .step v => if part < m then some (.refill (e part) v) else if part < 2 * m then some (.drain (e (part - m))) else none
  | .instants _ =>
    let k := (instantOps x 0).length
    if k = 0 ∨ m ≤ part / k then none else (instantOps x (e (part / k)))[part % k]?
  | _ => none

/-- One unit of a part: the stage that follows within it, none when it is done. -/
def egSweep (j : Job) (op : SweepOp) (stage : Nat) : Eng (Option Nat) := do
  match op with
  | .close e =>
    egCloseIf j e (fun _ => true)
    pure none
  | .refill e v =>
    egRefill j e v
    pure none
  | .drain e => egDrain j e stage

/-- The open batch of an expert has run through its window (R338). -/
def windowOver (x ns b : Nat) : Bool := lcbClose x && decide (esOpent b + lcbClosew x ≤ ns)

/-- One unit of an engine's work: the place in the queue after it, none when it is done. -/
def State.runWork (s : State) (j : Job) (engine : Nat) (d : DRec) : Except EErr (Option DRec) × State :=
  let follow (r : Except EErr (Option Nat) × State) (done : Option DRec) : Except EErr (Option DRec) × State :=
    match r with
    | (.ok (some n), s) => (.ok (some { d with stage := n }), s)
    | (.ok none, s) => (.ok done, s)
    | (.error x, s) => (.error x, s)
  match d.work with
  | .record r => follow (runEng j (egRecord j r.toNat d.stage) s) none
  | .window e => follow (runEng j (do egCloseIf j e (windowOver j.x s.ns); pure none) s) none
  | .step _ => (match sweepPart j.x engine d.work d.part with
      | some op => follow (runEng j (egSweep j op d.stage) s) (some { d with part := d.part + 1, stage := 0 })
      | none => (.ok none, s))
  | .instants n => (match sweepPart j.x engine d.work d.part with
      | some op => follow (runEng j (egSweep j op d.stage) s) (some { d with part := d.part + 1, stage := 0 })
      | none => (.ok (if n ≤ 1 then none else some { d with work := .instants (n - 1), part := 0, stage := 0 }), s))

/-- The queue of an engine of a die. -/
def engineKey (die engine : Nat) : Nat := die * 2 + engine % 2
def State.engineQueue (s : State) (die engine : Nat) : List DRec := kvGet [] s.experts.queues (engineKey die engine)
def State.setQueue (s : State) (die engine : Nat) (l : List DRec) : State :=
  { s with experts := { s.experts with queues := kvSet [] s.experts.queues (engineKey die engine) l } }

/-- Instants so far of a layer that have not yet reached an engine, where they have anything to do. -/
def State.newInstants (s : State) (l : Layer) (engine : Nat) : Nat :=
  let x := l.block.toNat
  if instantOps x 0 = [] then 0 else s.instants x - l.inst engine

/-- The instants that have come reach an engine, before any record that comes at the same time (R348). -/
def State.arriveInstants (s : State) (die engine : Nat) : State :=
  forEach (s.experts.layers.filter (fun l => l.die == die)) s (fun s l =>
    match s.layerOf l.pa with
    | none => s
    | some l =>
      let n := s.newInstants l engine
      if n = 0 then s
      else
        let q := s.engineQueue die engine
        let d : DRec := ⟨l.core, none, l.asid, l.rid, l.pa, .instants n, 0, 0⟩
        let q := match q.getLast? with
          | some last => (match last.lcb == l.pa, last.work with
              | true, .instants m => q.dropLast ++ [{ last with work := .instants (m + n) }]
              | _, _ => q ++ [d])
          | none => q ++ [d]
        (s.setQueue die engine q).putLayer (l.setInst engine (s.instants l.block.toNat)))

/-- Work reaches an engine, after the instants that have come. -/
def State.enqueueWork (s : State) (die engine : Nat) (d : DRec) : State :=
  let s := s.arriveInstants die engine
  s.setQueue die engine (s.engineQueue die engine ++ [d])

/-- The engines of a die look again at what waits. -/
def State.pokeEngines (s : State) (die : Nat) : State :=
  (s.push (.dispatchRecord die 0)).push (.dispatchRecord die 1)

/-- DISPATCH_INSTANT (R338): the instants that have come reach an engine. -/
def execDispatchInstant (die engine : Nat) (s : State) : Res :=
  let s := s.arriveInstants die engine
  .next (if (s.engineQueue die engine).isEmpty then s else s.push (.dispatchRecord die (engine % 2)))

/-- The window of an expert's open batch has run out, and its close is not yet under way. Where the state block cannot be read yet, the
engine takes the close up, which waits for it and looks again. -/
def State.windowOut (s : State) (l : Layer) (expert : Nat) : Bool :=
  let j := s.layerJob l expert
  decide (expert < lcbNexp j.x) && lcbClose j.x
    && !(s.engineQueue l.die expert).any (fun d => d.lcb == l.pa && d.work == .window expert)
    && (match (runEng j (egState j expert) s).1 with
      | .ok b => esOpen b && windowOver j.x s.ns b
      | .error (.wait _) => true
      | .error _ => false)

/-- BATCH_CLOSE_WINDOW (R338): the close of an open batch whose window has run out reaches the engine. -/
def execBatchCloseWindow (lcb expert : Nat) (s : State) : Res :=
  match s.layerOf lcb with
  | none => .next s
  | some l =>
    if s.windowOut l expert then
      .next ((s.enqueueWork l.die expert ⟨l.core, none, l.asid, l.rid, l.pa, .window expert, 0, 0⟩).push
        (.dispatchRecord l.die (expert % 2)))
    else .next s

/-- A batch of a layer whose window has run out, as LCB and expert. -/
def State.windowDue (s : State) : Option (Nat × Nat) :=
  (s.experts.layers.filterMap (fun l => match s.layerOf l.pa with
    | some l => ((nats (lcbNexp l.block.toNat)).find? (s.windowOut l)).map (fun e => (l.pa, e))
    | none => none)).head?

/-- An instant has come that has not reached an engine of a die. -/
def State.freshInstant (s : State) (die engine : Nat) : Bool :=
  s.experts.layers.any (fun l => l.die == die && (match s.layerOf l.pa with
    | some l => s.newInstants l engine != 0
    | none => false))

/-- PRODUCT_SPAWN_RETRY (R341). -/
def execProductSpawnRetry (lcb expert : Nat) (s : State) : Res :=
  match s.experts.products.find? (fun p => p.lcb == lcb && p.expert == expert) with
  | none => .next s
  | some p =>
    if s.cycle < p.retryAt then .next s
    else .next ({ s with experts := { s.experts with products := s.experts.products.erase p } }.spawnProduct p)

/-! ## Records (R340, R343) -/

/-- Work that a command carried has been handled: its bytes leave the barrier, and the last of it ends the command; retryAt counts
the work that went out to the engines. -/
def State.recordDone (s : State) (core : Nat) (e : CCmd) (bytes : Nat) : State :=
  let (ok, e, s) := s.delivered { e with wts := s.topTime } bytes
  let e := { e with progress := e.progress + 1 }
  if !ok then
    let s := s.stopCommand core e 2 clsProt (e.bar.getD 0)
    match s.command core e.ident with
    | some e => s.returnTiles core e
    | none => s
  else if e.progress = e.retryAt then
    let e := { e with stage := 3 }
    (s.putCommand core e).returnTiles core e
  else s.putCommand core e

/-- An engine's work for a command failed: the command waits, meets triage, or stops. -/
def State.workFailed (s : State) (core : Nat) (e : CCmd) (x : EErr) : State :=
  match x with
  | .wait _ | .peer _ _ _ _ => s.putCommand core e
  | .fault c a => s.cmdFault core e c a
  | .lost a =>
    let s := s.stopCommand core e 4 clsUncorr a
    match s.command core e.ident with
    | some e => s.returnTiles core e
    | none => s

/-- The job of a place in the queue: the layer's, as its command's region and core have it. -/
def State.workJob (s : State) (l : Layer) (engine : Nat) (d : DRec) (e : Option CCmd) : Job :=
  let j := s.layerJob l engine
  match e with
  | some e => { j with who := { s.cmdWho d.core e with asid := d.asid }, own := some (e.sid, e.seq) }
  | none => j

/-- A unit of an engine's work is done: what it leaves of its place in the queue, the record handled, the next unit due. -/
def State.workDone (s : State) (die engine : Nat) (j : Job) (e : Option CCmd) (d : DRec) (rest : List DRec) (left : Option DRec) :
    State :=
  let s := s.setQueue die engine (match left with | some d => d :: rest | none => rest)
  let s := match left, e with
    | none, some e => s.recordDone d.core e (match d.work with | .record _ => lcbTb j.x | _ => 0)
    | _, _ => s
  if left.isNone && rest.isEmpty then s else s.push (.dispatchRecord die (engine % 2))

/-- What an engine has asked, at counters' homes and of peers, for a unit of work that is dropped. -/
def State.engineForget (s : State) (die engine : Nat) : State :=
  let a := engineAsker die engine
  let mine (q : CtrReq) : Bool := match q with
    | .engine c k => k == 1 + engine % 2 && dieOf c == die
    | _ => false
  let s := forEach (s.homes.ctrqs.map Prod.fst) s (fun s pa => s.ctrDrop pa mine)
  { s.setAnswers a.key [] with fabric := { s.fabric with peers := s.fabric.peers.filter (fun q => q.slot != a.slot) } }

/-- DISPATCH_RECORD: an engine goes on with the first place of its queue, which holds all behind it (R334, R340). What came with a
command or a region that is gone is dropped. -/
def execDispatchRecord (die engine : Nat) (s : State) : Res :=
  let s := s.arriveInstants die engine
  match s.engineQueue die engine with
  | [] => .next s
  | d :: rest =>
    let e := d.ident.bind (s.command d.core)
    match s.layerOf d.lcb with
    | none => .next ((s.engineForget die engine).setQueue die engine rest)
    | some l =>
      if d.ident.isSome ∧ e = none then .next (((s.engineForget die engine).setQueue die engine rest).push (.dispatchRecord die (engine % 2)))
      else if e.any (fun e => e.stage != 1) then .next s
      else
        let j := s.workJob l engine d e
        match s.runWork j engine d with
        | (.ok left, s) => .next (s.workDone die engine j e d rest left)
        | (.error x, s) => (match e with
            | some e => .next (s.workFailed d.core e x)
            | none => .next s)

/-! ## Issue (R342 to R347) -/

/-- The fields of the CX register. -/
def cxM (x : Nat) : Nat := bits x 44 32
def cxFirst (x : Nat) : Nat := bits x 28 16
def cxBuf (x : Nat) : Nat := bits x 12 12
def cxExpert (x : Nat) : Nat := bits x 11 0
def cxZeros (x : Nat) : Bool := bits x 63 45 == 0 && bits x 31 29 == 0 && bits x 15 13 == 0

/-- What the LCB checks find at issue: a wait, a precise fault, or the block with the layer's physical address. -/
inductive LcbR where
  | wait
  | fault (cls addr : Nat)
  | ok (pa x : Nat)
  deriving DecidableEq, Repr

/-- Read the LCB for an instruction (R333, R334, R347). A fault of this read is precise too (log 31). -/
def State.readLcb (s : State) (sid a : Nat) : LcbR × State :=
  let st := s.strand sid
  let w := s.who sid
  if a % 128 ≠ 0 then (.fault clsAlign a, s)
  else
    let j : Job := ⟨w, some (sid, s.seq), 0, 0, 0, 0, 0, none⟩
    match runEng j (egRead j a 128) s with
    | (.error (.wait _), s) | (.error (.peer _ _ _ _), s) => (.wait, s)
    | (.error (.fault c x), s) => (.fault c x, s)
    | (.error (.lost x), s) => (.fault clsUncorr x, s.errorRecord (some st.rid) clsUncorr x)
    | (.ok x, s) =>
      let pa := s.paOf sid a
      match lcbMisaligned x with
      | some y => (.fault clsAlign y, s)
      | none =>
        let known := s.layerOf pa
        let bad := match known with
          | some l => l.die != dieOf st.core || l.rid != st.rid
          | none => false
        if !lcbOk x || bad then (.fault clsProt 0, s) else (.ok pa x, s)

/-- The checks of a run of slots (R344): the state block must say that they are closed. -/
def State.slotsBad (s : State) (sid x cx : Nat) : Except EErr Bool × State :=
  if !cxZeros cx ∨ lcbNexp x ≤ cxExpert cx ∨ cxM cx = 0 ∨ 4096 < cxM cx ∨ 4096 ≤ cxFirst cx then (.ok true, s)
  else
    let j : Job := ⟨s.who sid, some (sid, s.seq), 0, 0, 0, 0, 0, none⟩
    match runEng j (egRead j (lcbEstate x + 1024 * cxExpert cx) 64) s with
    | (.ok b, s) => (.ok (!esBusy b (cxBuf cx) || decide (esN b (cxBuf cx) < cxFirst cx + cxM cx)), s)
    | (.error e, s) => (.error e, s)

/-- The bytes of one row of a command on slots: RB, or TB for XDISP.B. -/
def slotRow (r : Raw) (x : Nat) : Nat := if r.op = 0xE5#8 then lcbTb x else lcbRb x

/-- An expert instruction issues: it must wait, it faults, or it enters with its tiles. -/
def State.planExpert (s : State) (sid : Nat) (r : Raw) : Option (CPlan × Nat × Nat) × State :=
  let st := s.strand sid
  let slots := r.op = 0xE6#8 ∨ bit r.ymod 0
  let p := st.spadBase r
  let a := st.s r.a.toNat
  let bytes := (s.cohort st.cid).bytes
  let fault (c x : Nat) : Option (CPlan × Nat × Nat) := some (.fault c x, 0, 0)
  if !slots ∧ p % 8 ≠ 0 then (fault clsAlign (p % 2 ^ 56), s)
  else match s.readLcb sid (st.s r.d.toNat % 2 ^ 56) with
    | (.wait, s) => (none, s)
    | (.fault c x, s) => (fault c x, s)
    | (.ok pa x, s) =>
      match (if slots then s.slotsBad sid x a else (.ok (decide (a = 0) || decide (4096 < a)), s)) with
      | (.error (.wait _), s) | (.error (.peer _ _ _ _), s) => (none, s)
      | (.error (.fault c y), s) => (fault c y, s)
      | (.error (.lost y), s) => (fault clsUncorr y, s)
      | (.ok true, s) => (fault clsProt 0, s)
      | (.ok false, s) =>
        let count := if slots then cxM a else a
        let len := if slots then count * slotRow r x else 8 * count
        let dest := r.op = 0xE6#8 ∧ bit r.ymod 0
        let tiles := coverTiles [] p len (if dest then 1 else 0)
        if bytes < p + len ∨ signalBad r bytes tiles true then (fault clsProt 0, s)
        else if tiles.any (fun t => s.engineOwns st.cid (256 * t.1) 256) then (fault clsTile (p % 2 ^ 56), s)
        else
          let list := if slots then [] else s.spadList st.cid p 8 count
          let e : CEntry :=
            { tiles := tiles, own := tiles.map Prod.fst, theirs := [], list := list, members := [], abands := [],
              payload := if slots then len else count * lcbTb x, leave := 0,
              struck := !slots && s.spadStruck st.cid p len, rm := 0,
              row := if r.op = 0xE5#8 then 4 else lcbRb x }
          (some (.enter e, pa, x), s)

/-- Note the layer at its first XDISP (R334). -/
def State.noteLayer (s : State) (sid pa x lcb : Nat) : State :=
  let st := s.strand sid
  match s.layerOf pa with
  | some _ => s
  | none =>
    s.putLayer { die := dieOf st.core, rid := st.rid, asid := s.asidOf st, core := st.core, lcb := lcb, pa := pa,
                 block := BitVec.ofNat 1024 x, inst0 := s.instants x, inst1 := s.instants x }

/-- XDISP, XCOMB and their reverse forms issue as engine commands; an XDISP that enters the queue makes its layer known. -/
def State.issueExpert (s : State) (r : Raw) : Res :=
  s.issue r (fun sid s =>
    let core := (s.strand sid).core
    let lcb := (s.strand sid).s r.d.toNat % 2 ^ 56
    if s.copyFull sid then s
    else match s.planExpert sid r with
      | (none, s) => s
      | (some (p, pa, x), s) =>
        let t := s.enterPlan sid r p
        if r.op == 0xE5#8 && !bit r.ymod 0 && decide ((s.core core).cq.length < (t.core core).cq.length) then
          t.noteLayer sid pa x lcb
        else t)

def execXdisp (o : XOps) (s : State) : Res := s.issueExpert (rawX 0xE5 o)
def execXdispB (o : XOps) (s : State) : Res := s.issueExpert (rawX 0xE5 o)
def execXcomb (o : XOps) (s : State) : Res := s.issueExpert (rawX 0xE6 o)
def execXcombB (o : XOps) (s : State) : Res := s.issueExpert (rawX 0xE6 o)

/-! ## Running -/

/-- The work for a command, which reads its block (R334). -/
def State.commandJob (s : State) (core : Nat) (e : CCmd) : Except EErr Job × State :=
  let r := s.region e.rid
  let w := s.cmdWho core e
  let a := e.dval % 2 ^ 56
  let j : Job := ⟨w, some (e.sid, e.seq), 0, 0, 0, 0, 0, some ⟨4 + e.ident, e.ident, 8 + core⟩⟩
  match runEng { j with asker := none } (egRead { j with asker := none } a 128) s with
  | (.ok x, s) =>
    let pa := match (s.translate w a).1 with
      | .hit pa _ => pa
      | _ => 0
    let s := match s.layerOf pa with
      | some l => s.noteBlock l x
      | none => s
    (.ok { j with pool := r.pool, rid := e.rid, die := dieOf core, lcb := pa, x := x }, s)
  | (.error x, s) => (.error x, s)

/-- One row of XCOMB (R344). -/
def egCombine (j : Job) (cx i : Nat) (row : List Byte) : Eng Unit := do
  let e := cxExpert cx
  let x := cxBuf cx
  let tag ← egRead j (lcbBuf j.x e x + 8 * (cxFirst cx + i)) 8
  let u := lcbIndex j.x (recToken tag)
  let q := recRank tag
  let at_ := lcbCstate j.x + 32 * u
  let c ← egRead j at_ 8
  if !bit c q then
    egWrite j (lcbCbuf j.x + (u * lcbK j.x + q) * lcbRb j.x) row
    egWrite j at_ (leBytes 8 (setBits c q q 1))
    egCheckDone j u
  else pure ()
  let b ← egState j e
  let n := esCn b x + 1
  let b := esSetCn b x n
  egPutState j e (if i + 1 = cxM cx ∧ n = esN b x then esSetBusy b x false else b)

/-- A row of XCOMB.B: the gradient row times the slot's score (R346). -/
def egBack (j : Job) (cx i : Nat) : Eng (List Byte) := do
  let tag ← egRead j (lcbBuf j.x (cxExpert cx) (cxBuf cx) + 8 * (cxFirst cx + i)) 8
  let u := lcbIndex j.x (recToken tag)
  let dy ← egRead j (lcbOut j.x + u * lcbRb j.x) (lcbRb j.x)
  let bs := leBytes (lcbRb j.x) dy
  let sc := fmtBf16.value (recScore tag)
  pure ((nats (lcbDm j.x)).map (fun k =>
    leBytes 4 (roundEx fmtF32 0 0 (exMul sc (fmtF32.value (ofLe ((bs.drop (4 * k)).take 4)))).1).bits)).flatten

/-- A word of XDISP.B added into the input gradient (R346), after the strand's earlier accesses to it (R183). -/
def egAdd (j : Job) (cx i k word : Nat) : Eng Unit := do
  let tag ← egRead j (lcbBuf j.x (cxExpert cx) (cxBuf cx) + 8 * (cxFirst cx + i)) 8
  let a := (lcbGin j.x + lcbIndex j.x (recToken tag) * lcbTb j.x + 4 * k) % 2 ^ 56
  egAfter j a 4 true
  let s ← get
  let (r, s) := s.atomicAt j.who a 4 needRW
  set s
  match r with
  | .remote pa => do
    let _ ← egRemote j a pa (atomWord 4 0 8) true (leBytes 8 word ++ leBytes 8 0)
    pure ()
  | r => do
    let pa ← egAnswer r a 4
    let s ← get
    if s.isProtected pa then throw (.fault clsProt a)
    else egMod (fun s => s.writeOf j.who (cellsOf pa (leBytes 4 (atomNew 0 8 (s.numAt pa 4) word 0))))

/-- One unit of a command on slots: the command after it, or none once it waits, stops or is done. -/
def State.stepSlots (s : State) (core : Nat) (j : Job) (e : CCmd) : Option CCmd × State :=
  let cx := e.reg 0
  let failed (x : EErr) (s : State) : Option CCmd × State := (none, s.workFailed core e x)
  let lost (s : State) : Option CCmd × State := (none, s.stopCommand core e 4 clsUncorr 0)
  let sent (s : State) (n : Nat) : Option CCmd × State :=
    let (ok, e, s) := s.delivered { e with wts := s.topTime } n
    if ok then (some { e with progress := e.progress + 1 }, s) else (none, s.stopCommand core e 2 clsProt (e.bar.getD 0))
  let rb := lcbRb j.x
  if e.raw.op = 0xE6#8 then
    if cxM cx ≤ e.progress then (none, s.putCommand core { e with stage := 3 })
    else if bit e.raw.ymod 0 then
      match runEng j (egBack j cx e.progress) s with
      | (.ok row, s) => (some { e with progress := e.progress + 1 }, s.cmdPut e (e.spadBase + e.progress * rb) row)
      | (.error x, s) => failed x s
    else match s.cmdSpad e.cid (e.spadBase + e.progress * rb) rb with
      | (.ok row, s) =>
        (match runEng j (egCombine j cx e.progress row) s with
          | (.ok _, s) => sent s rb
          | (.error x, s) => failed x s)
      | (_, s) => lost s
  else
    let words := lcbTb j.x / 4
    if cxM cx * words ≤ e.progress then (none, s.putCommand core { e with stage := 3 })
    else match s.cmdSpad e.cid (e.spadBase + 4 * e.progress) 4 with
      | (.ok bs, s) =>
        (match runEng j (egAdd j cx (e.progress / words) (e.progress % words) (ofLe bs)) s with
          | (.ok _, s) => sent s 4
          | (.error x, s) => failed x s)
      | (_, s) => lost s

def State.runSlots (s : State) (core fuel : Nat) (j : Job) (e : CCmd) : State :=
  match fuel with
  | 0 => s.putCommand core e
  | fuel + 1 =>
    match s.stepSlots core j e with
    | (some e, s) => s.runSlots core fuel j e
    | (none, s) => s

/-- XDISP starts: with .STEP in compatibility mode its step goes to both engines, then its records go to the engines of their
experts, in order (R334, R339, R343). -/
def State.startRecords (s : State) (core : Nat) (j : Job) (e : CCmd) : State :=
  let work (w : DWork) : DRec := ⟨core, some e.ident, e.asid, e.rid, j.lcb, w, 0, 0⟩
  let n := lcbNexp j.x
  let c := (lcbCf j.x * lcbBlive j.x + 256 * n - 1) / (256 * n)
  let steps := if bit e.raw.ymod 1 && lcbMode j.x then [(0, work (.step c)), (1, work (.step c))] else []
  let records := e.list.map (fun r => (if recValid r then recExpert r % 2 else 0, work (.record (BitVec.ofNat 64 r))))
  -- retryAt is not 0 once its work has gone out
  if e.retryAt ≠ 0 then (s.putCommand core e).pokeEngines j.die
  else
    let s := forEach (steps ++ records) s (fun s x => s.enqueueWork j.die x.1 x.2)
    (s.putCommand core { e with retryAt := steps.length + records.length }).pokeEngines j.die

/-- An expert command starts, or goes on, at most so many steps. -/
def State.startExpert (s : State) (core fuel : Nat) (e : CCmd) : State :=
  let e := { e with stage := 1 }
  let s := s.putCommand core e
  let s := if e.failed then s.stopCommand core e 4 clsUncorr 0
    else match s.commandJob core e with
      | (.error x, s) => s.workFailed core e x
      | (.ok j, s) =>
        if !lcbOk j.x then s.stopCommand core e 2 clsProt e.dval
        else if e.raw.op = 0xE5#8 ∧ !bit e.raw.ymod 0 then s.startRecords core j e
        else s.runSlots core (min fuel (e.left + 8)) j e
  match s.command core e.ident with
  | some e => ((s.returnTiles core e).pokeEngines (dieOf core))
  | none => s.pokeEngines (dieOf core)

/-- A command that may start, or has started, takes at most so many steps. -/
def State.goCommand (s : State) (core fuel ident : Nat) : State :=
  match s.command core ident with
  | none => s
  | some e =>
    if 2 ≤ e.stage ∨ (e.stage = 0 ∧ startsBefore (s.core core).cq e) then s
    else
      let fresh := e.stage = 0
      let s := if e.raw.op.toNat ≤ 0xE4 then s.startCopy core fuel e else s.startExpert core fuel e
      if fresh then s.pokeCopy core else s

/-- COPY_COMMAND_START (R313): a command starts once the strand's earlier commands have; one that had to wait goes on. -/
def execCopyCommandStart (core ident : Nat) (s : State) : Res :=
  .next (match s.command core ident with
    | some e => s.goCommand core (e.fuel + e.left + 8) ident
    | none => s)

end Sys2Proof.Machine
end

