-- ==== Sys2Proof/Machine/Replay.lean ====
section
/-! DEFINITION. Entries of the operand log after a fault: fault triage and heap growth (R199, R200, R225, R388), the return
from a trap with its replay or completion (R207), TRAP, RETT and DBG (R206), the entry of a waiting trap (R202). -/

namespace Sys2Proof.Machine

/-! ## Re-issue and completion -/

/-- A matrix entry that stands in a log slot of a strand is changed. -/
def State.modMatrixAt (s : State) (sid slot : Nat) (f : MEnt → MEnt) : State :=
  s.modCore (s.strand sid).core (fun c => { c with mq := c.mq.map (fun (x : MEnt) =>
    if x.sid = sid ∧ x.logSlot = some slot then f x else x) })

/-- Opcodes whose log entry holds back everything younger (R150, R176, R263). -/
def blocking (op : Nat) : Bool := op == 0x0B || op == 0xA0 || (decide (0xB0 ≤ op) && decide (op ≤ 0xB5))

/-- Run a counter's entry; a request that is on its way to the home goes again. -/
def State.ctrAgain (s : State) (sid slot : Nat) (e : LogEnt) : State :=
  match e.accs.find? (fun a => a.status == 5) with
  | some a => s.push (ctrEvent e.raw sid slot a.thread)
  | none => s.ctrEntry sid slot e

/-- Run what an entry still has to do. -/
def State.redo (s : State) (sid slot : Nat) : State :=
  match s.entry sid slot with
  | none => s
  | some e =>
    let op := e.raw.op.toNat
    if op = 0x0B then s.launchEntry sid slot e
    else if 0xB0 ≤ op ∧ op ≤ 0xB5 then s.ctrAgain sid slot e
    else if 0xB8 ≤ op ∧ op ≤ 0xC4 then s.cursorEntry sid slot e
    else if op = 0xD0 ∨ op = 0xD5 then
      (s.modMatrixAt sid slot (fun x => { x with stage := 0 })).pokeMatrix (s.strand sid).core
    else s.syncEntry sid slot e

/-- An access that is to be made again. -/
def Acc.again (a : Acc) : Acc := if a.status = 2 ∨ a.dead then { a with status := 0 } else a

/-- An entry whose accesses are made again; a load so re-issued is one that an acquiring fence waits for (R188). -/
def LogEnt.reissued (e : LogEnt) (accs : List Acc) : LogEnt :=
  let e := if e.raw.op = 0x90#8 ∨ e.raw.op = 0x92#8 then { e with progress := 1 } else e
  ({ e with accs := accs }).refresh

/-- Re-issue an entry from the log for the threads that have not been served. -/
def State.reissue (s : State) (sid slot : Nat) : State :=
  match s.entry sid slot with
  | none => s
  | some e => (s.putEntry sid slot (e.reissued (e.accs.map Acc.again))).redo sid slot

/-- An access completed without being made: its destination lane is 0. -/
def Acc.dropped (a : Acc) : Acc := if a.status = 1 then a else { a with status := 1, got := 0, got2 := 0 }

/-- A cursor's entry with its pending threads completed: their cursors, values and predicates are 0, and the writes that
would follow are dropped. -/
def LogEnt.dropCursor (e : LogEnt) : LogEnt :=
  let ps := e.accs.filter (fun a => planAcc e.raw a && a.status != 1)
  { e with
    accs := (e.accs.filter (fun a => planAcc e.raw a || a.status == 1)).map Acc.dropped,
    curs := forEach ps e.curs (fun m a =>
      kvSet Cursor.zero (kvSet Cursor.zero m (slotK1 a.thread) Cursor.zero) (slotK2 a.thread) Cursor.zero) }

/-- The matrix entry of a log entry completes without further access (R286). -/
def State.dropMatrix (s : State) (sid slot op : Nat) : State :=
  let core := (s.strand sid).core
  let s := s.modMatrixAt sid slot (fun x =>
    if op = 0xD0 then { x with stage := 1, status := 9 } else { x with stage := 1, vals := [], flags := 0 })
  match (s.core core).mq.find? (fun (x : MEnt) => decide (x.sid = sid ∧ x.logSlot = some slot)) with
  | some x => s.completeMatrix core x
  | none => s.finishEntry sid slot

/-- Complete an entry without access (R207): each pending thread's destination is 0, and its stores are dropped. -/
def State.completeEntry (s : State) (sid slot : Nat) : State :=
  match s.entry sid slot with
  | none => s
  | some e =>
    let op := e.raw.op.toNat
    let d := e.raw.d.toNat
    let e' := { e with accs := e.accs.map Acc.dropped }
    if op = 0x0B then
      (s.modStrand sid (fun st => (st.setS d 0).markFull (keyS d))).finishEntry sid slot
    else if op = 0x9B ∨ op = 0x9C ∨ (0xA0 ≤ op ∧ op ≤ 0xA2) then s.giveStatus sid slot d 0
    else if op = 0x9D then (s.finishWait sid slot e').wakeTrap sid
    else if 0xB0 ≤ op ∧ op ≤ 0xB5 then s.settleEntry sid slot e' Strand.finishCtr
    else if 0xB8 ≤ op ∧ op ≤ 0xC4 then s.cursorEntry sid slot e.dropCursor
    else if op = 0xD0 ∨ op = 0xD5 then s.dropMatrix sid slot op
    else if op = 0x97 ∨ op = 0x98 then s.settleEntry sid slot e' Strand.finishPin
    else if op = 0x90 ∨ op = 0x92 ∨ op = 0x99 ∨ op = 0x9A then s.settleEntry sid slot e' Strand.finishLoad
    else s.settleEntry sid slot e' Strand.finishNone

/-! ## RETT and RESUME (R201, R207) -/

/-- After a return the strand waits again in an unfinished WAIT or an instruction that holds back everything younger; a counter
instruction that has passed its gate does so no longer (R263). -/
def State.rearm (s : State) (sid : Nat) : State :=
  let st := s.strand sid
  if st.waiting ≠ .nothing ∨ st.life = .ended then s
  else match st.log.find? (fun p => p.2.raw.op == 0x9D#8) with
    | some p => s.setStrand sid { st with waiting := .wait p.1, waitSince := s.time }
    | none => match st.log.find? (fun p => blocking p.2.raw.op.toNat && !(p.2.counts && p.2.passed)) with
      | some p => s.setStrand sid { st with waiting := .entry p.1 }
      | none => s

/-- The delivered entry of a frame that has just been restored is re-issued or completed; the frame delivers nothing more. -/
def State.afterFrame (s : State) (sid : Nat) (replay : Bool) : State :=
  let st := s.strand sid
  let s := s.setStrand sid { st with frameLog := none, hostHeld := false }
  let s := match st.frameLog with
    | none => s
    | some i => match s.entry sid i with
      | some e => if e.state = 3 ∨ e.state = 4 then (if replay then s.reissue sid i else s.completeEntry sid i) else s
      | none => s
  s.rearm sid

/-- RETT (R207): out of handler mode it is a protection fault; a frame that names too deep a stack goes to the host. A frame whose
own read fails gives the read's class, precisely and with FADDR 0, and being met in handler mode it goes to the host: the model's
choice (DESIGN CHOICE, log 21). -/
def execRett (o : W1Ops) (s : State) : Res :=
  let r := rawW1 0x0E o
  s.issue r (fun sid s =>
    if !(s.strand sid).hmode then s.fault sid r clsProt 0
    else match s.restoreFrame sid with
      | (.wait, s) => s
      | (.fault c, s) => s.fault sid r c 0
      | (.depths, s) => s.fault sid r clsProt 0
      | (.done b, s) => s.afterFrame sid b)

/-- RESUME of a strand that the host holds (R201, R358): as RETT on its frame; false when a translation must come first. A
frame that cannot be used leaves the strand held. -/
def State.resumeHeld (s : State) (sid : Nat) : Bool × State :=
  match s.restoreFrame sid with
  | (.wait, s) => (false, s)
  | (.done b, s) => (true, s.afterFrame sid b)
  | (_, s) => (true, s)

/-- TRAP: class 18 of kind A, with the code as its address. -/
def execTrap (o : IOps) (s : State) : Res :=
  let r := rawI 0x0D o
  s.issue r (fun sid s =>
    let pc := (s.strand sid).pc.toNat
    (s.done sid r).after sid clsUser pc r.imm10 (rawWords r))

/-- DBG: class 19 of kind A in a debug-enabled region, else nothing. -/
def execDbg (o : IOps) (s : State) : Res :=
  let r := rawI 0x0F o
  s.issue r (fun sid s =>
    let st := s.strand sid
    if (s.regionOf st).rcb.dbg then (s.done sid r).after sid clsBreak st.pc.toNat r.imm10 (rawWords r)
    else s.done sid r)

/-- TRAP_ENTRY (R202): a strand that waits to take a trap has drained. -/
def execTrapEntry (sid : Nat) (s : State) : Res :=
  let st := s.strand sid
  match st.waiting, st.trap with
  | .trap, some ti =>
    if st.life != .resident || !s.drained sid then .next s
    else .next (s.enterTrap sid ti)
  | _, _ => .next s

/-! ## The firmware action log (R455, R456) -/

/-- The ring is full (log 17). -/
def State.fwFull (s : State) : Bool :=
  let n := s.reg 0xA1A
  n != 0 && (s.reg 0xA1B + 1) % n == s.reg 0xA1C % n

/-- Append an entry to the firmware action log. -/
def State.fwEntry (s : State) (act target value : Nat) : State :=
  let n := s.reg 0xA1A
  if n = 0 then s
  else
    let head := s.reg 0xA1B % n
    let e := leBytes 8 s.ns ++ leBytes 8 (act % 256) ++ leBytes 8 target ++ leBytes 8 value
    (s.devWrite (s.reg 0xA19 % 2 ^ 52 + 32 * head) e).setReg 0xA1B ((head + 1) % n)

/-- The 8 bytes at an address lie in Uzoip's firmware area of 64 MiB. -/
def inFwArea (pa : Nat) : Bool := decide (Config.fwArea.toNat ≤ pa) && decide (pa + 8 ≤ Config.fwArea.toNat + 2 ^ 26)

/-- The firmware action log occupies an address. -/
def State.inFwRing (s : State) (pa : Nat) : Bool := overlaps pa 8 (s.reg 0xA19) (32 * s.reg 0xA1A)

/-- A window that the host set lets Uzoip make an access. -/
def State.fwGranted (s : State) (pa : Nat) (write : Bool) : Bool :=
  !s.inFwRing pa && (nats 8).any (fun i =>
    let x := s.reg (0xA11 + i)
    let base := bits x 51 24 * 2 ^ 24
    (if write then bits x 63 62 == 3 else bits x 63 62 == 1 || bits x 63 62 == 3)
      && decide (base ≤ pa) && decide (pa + 8 ≤ base + bits x 23 0 * 2 ^ 24))

/-- The Uzoip of a die may perform a logged action at once: the ring has room, and no earlier one waits for it. -/
def State.fwReady (s : State) (die : Nat) : Bool := !s.fwFull && !s.pkg.uzoipWait.any (fun w => w.1 == die)

/-! ## The stores of triage and of heap growth -/

/-- A function writes an entry of a page table: the host in package HBM, Uzoip in its firmware area, or in a window that the host has
granted, logged; any other access of Uzoip is discarded and logged (R455, R456), and a counter's block takes none (R252). False when it
must wait. -/
def State.fnStore (s : State) (host : Bool) (die : Nat) (p : Nat × DWord) : Bool × State :=
  let pa := p.1 / 8 * 8
  let x := p.2.toNat
  let put (s : State) : State := if isHbm pa && !s.countsAt pa then s.homeWrite (cellsOf pa (leBytes 8 x)) none else s
  let held := isHbm pa && s.writeBlocked (pa / 128) none none false false
  if host || inFwArea pa then (if held then (false, s.noteBlocked (pa / 128) none) else (true, put s))
  else if !s.fwReady die then (false, s)
  else if !s.fwGranted pa true then (true, s.fwEntry 0xFF pa x)
  else if held then (false, s.noteBlocked (pa / 128) none)
  else (true, put (s.fwEntry 3 pa x))

/-- The stores of a function in order, up to one that must wait: what is left of them. -/
def State.fnStores (s : State) (host : Bool) (die : Nat) (ws : List (Nat × DWord)) : List (Nat × DWord) × State :=
  match ws with
  | [] => ([], s)
  | p :: rest => match s.fnStore host die p with
    | (true, s) => s.fnStores host die rest
    | (false, s) => (p :: rest, s)

/-! ## Triage and heap growth -/

/-- The access is with fault triage. -/
def Acc.atTriage (a : Acc) : Bool := a.status == 2 && (a.cls == 8 || a.cls == 9)

/-- A thread of a mask. -/
def Acc.among (a : Acc) (threads : BitVec 64) : Bool := threads.getLsbD (a.thread % 64)

/-- The die whose function serves a fault. -/
def State.dieOfFault (s : State) (who : FaultOf) : Nat :=
  match who with
  | .entry sid _ _ => dieOf (s.strand sid).core
  | .copy core _ => dieOf core

/-- The host serves a fault: the mode that triage had when it was asked (R454). -/
def State.byHost (s : State) (who : FaultOf) : Bool :=
  let entry : Option Bool := match who with
    | .entry sid slot ts => (s.entry sid slot).bind (fun e => (e.accs.find? (fun a => a.atTriage && a.among ts)).map Acc.byHost)
    | .copy core ident => (s.command core ident).map CCmd.byHost
  entry.getD (s.hostMode 1)

/-- The mapping of a failed access is repaired, and what failed is made again (R199, R200, R319), thread by thread (R470). A Uzoip that
has not started repairs nothing (R457). -/
def State.repair (s : State) (who : FaultOf) (ws : List (Nat × DWord)) : State :=
  if !s.byHost who && s.pkg.uzoipOff then s
  else match s.fnStores (s.byHost who) (s.dieOfFault who) ws with
  | (p :: rest, s) => s.park (.repair who (p :: rest))
  | ([], s) =>
    match who with
    | .entry sid slot ts =>
      (match s.entry sid slot with
        | some e =>
          if e.accs.any (fun a => a.atTriage && a.among ts) then
            let accs := e.accs.map (fun a => if a.atTriage && a.among ts then { a with status := 0 } else a)
            (s.putEntry sid slot (e.reissued accs)).redo sid slot
          else s
        | none => s)
    | .copy core ident => s.copyRepaired core ident

/-- TRIAGE_REPAIR. -/
def execTriageRepair (who : FaultOf) (ws : List (Nat × DWord)) (s : State) : Res := .next (s.repair who ws)

/-- Return the faults that triage has of some threads among accesses; a write fault on a page that migrates is never returned
(R388). -/
def State.giveFaults (s : State) (sid : Nat) (ts : BitVec 64) (accs : List Acc) : List Acc × State :=
  match accs with
  | [] => ([], s)
  | a :: rest =>
    let mine := a.atTriage && a.among ts
    let (moves, s) := if mine && a.write && a.cls == clsProt then s.migrating (s.who sid) a.va else (false, s)
    let (rest, s) := s.giveFaults sid ts rest
    ((if mine && !moves then { a with status := 3 } else a) :: rest, s)

/-- TRIAGE_RETURN (R199, R470): the faults that triage has of some threads of an entry are returned, and the entry is failed. -/
def execTriageReturn (who : FaultOf) (s : State) : Res :=
  match who with
  | .entry sid slot ts =>
    (match s.entry sid slot with
      | some e =>
        let (accs, s) := s.giveFaults sid ts e.accs
        let s := (s.putEntry sid slot ({ e with accs := accs }).refresh).entryFailed sid slot
        .next (match (s.core (s.strand sid).core).mq.find? (fun (x : MEnt) => decide (x.sid = sid ∧ x.logSlot = some slot)) with
          | some x =>
            let s := s.fillGone (s.strand sid).core x.ident sid slot
            (match s.mEntry (s.strand sid).core x.ident with
              | some x => if x.stage = 1 then s.push (.matrixCompletion (s.strand sid).core x.ident) else s
              | none => s)
          | none => s)
      | none => .next s)
  | .copy core ident => .next (s.copyReturned core ident)

/-- The physical address of the heap counter that an exhausted access names, as its core's cursors hold it. -/
def State.heapOf (s : State) (sid : Nat) (e : LogEnt) (a : Acc) : Option Nat :=
  let c := kvGet Cursor.zero e.curs (slotA a.thread)
  if c.heapPa ≠ 0 then some c.heapPa
  else match s.paOf sid a.va with
    | 0 => none
    | pa => some pa

/-- An access is with the heap-growth function. -/
def Acc.hungry (a : Acc) : Bool := a.status == 2 && a.cls == clsHeap

/-- Every append held on a heap is made again: one extension may serve them all (R226). -/
def State.feedHeap (s : State) (pa : Nat) : State :=
  let due := s.allStrands.flatMap (fun p => (p.2.log.filter (fun q =>
    q.2.accs.any (fun a => a.hungry && s.heapOf p.1 q.2 a == some pa))).map (fun q => (p.1, q.1)))
  forEach due s (fun s p => match s.entry p.1 p.2 with
    | some e =>
      let again (b : Acc) : Acc := if b.hungry then { b with status := 0 } else b
      (s.putEntry p.1 p.2 ({ e with accs := e.accs.map again }).refresh).redo p.1 p.2
    | none => s)

/-- Heap growth does not fit: class 12 is delivered to the threads that append to the heap that was asked for (R470). -/
def State.starve (s : State) (sid slot : Nat) (e : LogEnt) (heap : Option Nat) : State :=
  let give (b : Acc) : Acc := if b.hungry && s.heapOf sid e b == heap then { b with status := 3 } else b
  (s.putEntry sid slot ({ e with accs := e.accs.map give }).refresh).entryFailed sid slot

/-- Heap growth (R225, R354): when the pool's budget admits it, the function maps the pool pages of the new indices by writes of
its own, END goes up by that many blocks and at least one grain, in its turn at the home (R255) and logged where Uzoip extends a
system counter (R456), and the held appends are made again; a growth of 0 blocks is the function's refusal. -/
def State.growHeap (s : State) (sid slot blocks : Nat) (ws : List (Nat × DWord)) : State :=
  match s.entry sid slot with
  | none => s
  | some e =>
    match e.accs.find? Acc.hungry with
    | none => s
    | some a =>
      if !a.byHost && s.pkg.uzoipOff then s
      else match s.heapOf sid e a with
      | none => s.starve sid slot e none
      | some pa =>
        let pool := (s.regionOf (s.strand sid)).pool
        let r := s.region pool
        let x := s.blk pa
        let n := max blocks (blkGrain x)
        let die := dieOf (s.strand sid).core
        let me : CtrReq := .growth sid slot
        let host := a.byHost
        let later (ws : List (Nat × DWord)) (s : State) : State := s.park (.growth sid slot blocks ws)
        if blocks = 0 ∨ r.rcb.heapb < r.heapused + n ∨ ctrMax < blkEnd x + n ∨ blkKind x ≠ 2 then
          (s.starve sid slot e (some pa)).ctrLeave pa me
        else match s.fnStores host die ws with
          | (p :: rest, s) => later (p :: rest) s
          | ([], s) =>
            let logged := !host && blkSys x
            match s.ctrTurn pa me with
            | (false, s) => later [] s
            | (true, s) =>
              if s.writeBlocked (pa / 128) none none true false then later [] (s.noteBlocked (pa / 128) none)
              else if logged && !s.fwReady die then later [] s
              else
                let s := if logged then s.fwEntry 2 pa (blkEnd (s.blk pa) + n) else s
                let (_, s) := s.extendCtr pa (blkEnd (s.blk pa) + n)
                let s := (s.setRegion pool { s.region pool with heapused := r.heapused + n }).rcbPut pool 0x118 (r.heapused + n)
                (s.ctrLeave pa me).feedHeap pa

/-- HEAP_GROWTH. -/
def execHeapGrowth (sid slot : Nat) (grant : HeapGrant) (s : State) : Res := .next (s.growHeap sid slot grant.blocks grant.writes)

end Sys2Proof.Machine
end

