-- ==== Sys2Proof/Machine/Regions.lean ====
section
/-! DEFINITION. Regions: the placement engine (R360), ageing (R362), pre-emption and the shutter (R361, R364), the commands of
the launch window (R357, R358), the destruction of a context (R370). -/

namespace Sys2Proof.Machine

/-! ## Placement and ageing -/

/-- COHORT_PLACEMENT (R360): the first tile that fits is placed, and the engine looks again. -/
def execCohortPlacement (die : Nat) (s : State) : Res :=
  match s.nextPlacement die with
  | some (rid, core) => .next ((s.placeTile rid core).push (.cohortPlacement die))
  | none => .next s

/-- A region's wait in its queue has run out (R362). -/
def State.ages (s : State) (r : Region) : Bool :=
  match r.queue with
  | some q => decide (q < 6) && r.rcb.age != 0 && r.ending.isNone && decide (r.waitSince + 1000 * r.rcb.age ≤ s.ns)
  | none => false

/-- AGEING_STEP (R362): the region moves one queue up and its wait restarts. -/
def execAgeingStep (rid : Nat) (s : State) : Res :=
  let r := s.region rid
  if s.ages r then
    let (order, s) := s.nextSeq
    .next ((s.setRegion rid { r with
      queue := r.queue.map (· + 1), queueSeq := order, aged := true, waitSince := s.ns }).pushPlacement)
  else .next s

/-! ## Pre-emption (R361, R364) -/

/-- The drain of a region is complete: nothing of it runs, waits to run, or waits to be written. -/
def State.isDrained (s : State) (rid : Nat) : Bool :=
  (s.region rid).state == 3 && (s.region rid).ending.isNone && (s.liveCohorts rid).isEmpty && !s.binsHold rid && !s.logsHold rid

/-- The drain of a region ends in state 4, which is written once its writes are performed (R366); until then the shutter may
still run out, and a KILL or FAULT terminates the region (R364). -/
def State.drainDone (s : State) (rid : Nat) : State :=
  let s := s.returnRegionAllows rid
  (s.setRegion rid { s.region rid with ending := some (4, noClass, 0, 0) }).settle rid

/-- PREEMPT_DRAIN_COMPLETE. -/
def execPreemptDrainComplete (rid : Nat) (s : State) : Res :=
  .next (if s.isDrained rid then s.drainDone rid else s)

/-- SHUTTER_EXPIRY: a drain that is not complete when its shutter runs out ends in state 8; one whose last cohort has just ended
has completed first (R367). -/
def execShutterExpiry (rid : Nat) (s : State) : Res :=
  let r := s.region rid
  match r.shutAt with
  | some t =>
    if r.state ≠ 3 ∨ s.time < t then .next s
    else if s.isDrained rid then .next ((s.setRegion rid { r with shutAt := none }).drainDone rid)
    else if r.ending.isNone ∨ r.ending = some (4, noClass, 0, 0) then .next (s.terminate rid 8 noClass 0 0)
    else .next s
  | none => .next s

/-- Pre-empt a region in state 1 or 2; one that is being terminated goes on to its own final state. -/
def State.preempt (s : State) (rid : Nat) : State :=
  let r := { s.region rid with ending := none }
  if (s.region rid).terminating then s else
  let s := s.setRegion rid { r with state := 3, queue := none, shutAt := some (s.time + r.rcb.shut * 47000), sheeting := false }
  let s := s.rcbPut rid 0x100 3
  if r.state = 1 then s.drainDone rid else s.regionCheck rid

/-! ## The launch window (R357, R358) -/

/-- The page of a context in the launch window; the privileged pages come after the ordinary ones. -/
def windowPage (asid : Nat) (priv : Bool) : Nat := asid % 65536 + 65536 * b2n priv

/-- A command of the page is still being applied: BUSY reads 1. -/
def State.windowBusy (s : State) (page : Nat) : Bool :=
  s.parked.any (fun i => match i with
    | .window p _ _ => p == page
    | _ => false)

/-- The result of a command stands in CODE of its page. -/
def State.windowCode (s : State) (page code : Nat) : State :=
  { s with pkg := { s.pkg with window := kvSet 0 s.pkg.window page code } }

/-- What reading a page of the window gives: CMD and RCB are write-only, BUSY and CODE stand at +0x008. -/
def State.windowRead (s : State) (page off : Nat) : Nat :=
  if off = 8 then b2n (s.windowBusy page) * 2 ^ 63 + kvGet 0 s.pkg.window page else 0

/-- The region of a context's RCB that is queued, running or draining. -/
def State.regionAt (s : State) (asid rcb : Nat) : Option Nat :=
  (s.allRegions.find? (fun p => p.2.asid == asid && p.2.rcbVa == rcb && decide (1 ≤ p.2.state)
    && decide (p.2.state ≤ 3))).map Prod.fst

/-- A context may be launched into. -/
def State.ctxValid (s : State) (asid : Nat) : Bool := bit (s.numAt (s.ctxEntry asid + 8) 1) 0

/-- LAUNCH from a page: its code, or none while a translation must come first. -/
def State.launchFrom (s : State) (page rcb : Nat) : Option Nat × State :=
  let asid := page % 65536
  if rcb % 512 ≠ 0 then (some 6, s)
  else match s.readRcb ⟨0, none, asid, true⟩ rcb none none with
    | (.error .wait, s) => (none, s)
    | (.error _, s) => (some 6, s)
    | (.ok l, s) =>
      if !s.ctxValid asid ∨ l.refused then (some 7, s)
      else if l.rcb.prio = 7 ∧ page < 65536 then (some 2, s)
      else if 1024 ≤ s.liveRegions then (some 4, s)
      else
        let (_, s) := s.enqueue asid rcb l none
        (some 0, s)

/-- Every strand of a region that the host holds resumes; none when one must first be translated for. -/
def State.resumeRegion (s : State) (rid : Nat) : Option Nat × State :=
  forEach (s.allStrands.filter (fun p => p.2.rid == rid && p.2.hostHeld)) (some 0, s) (fun (k, s) p =>
    let (done, s) := s.resumeHeld p.1
    (if done then k else none, s))

/-- A command on a region of a page: 1 PREEMPT, 2 KILL, 3 RESUME, 4 FAULT. -/
def State.regionCmd (s : State) (cmd rid : Nat) : Option Nat × State :=
  let st := (s.region rid).state
  match cmd with
  | 1 => if st = 1 ∨ st = 2 then (some 0, s.preempt rid) else (some 7, s)
  | 2 => (some 0, s.terminate rid 7 noClass 0 0)
  | 3 => if st = 2 ∨ st = 3 then s.resumeRegion rid else (some 7, s)
  | _ => (some 0, s.terminate rid 6 noClass 0 0)

/-- Apply a command of a page; it waits where a translation must come first. Bits [59:56] of the word and a CMD above 4 give
code 7. -/
def State.windowApply (s : State) (page cmd rcb : Nat) : State :=
  let (k, s) :=
    if 4 < cmd ∨ 2 ^ 56 ≤ rcb then (some 7, s)
    else if cmd = 0 then s.launchFrom page rcb
    else match s.regionAt (page % 65536) rcb with
      | some rid => s.regionCmd cmd rid
      | none => (some 7, s)
  match k with
  | some k => s.windowCode page k
  | none => s.park (.window page cmd rcb)

/-- A command written to a page, as the word of 8 bytes with its CMD added to bits [63:60] of the value written; one written while
another is being applied is discarded (R357). -/
def State.windowWrite (s : State) (page cmd rcb : Nat) : State :=
  let w := (rcb + cmd * 2 ^ 60) % 2 ^ 64
  if s.windowBusy page then s else s.windowApply page (bits w 63 60) (bits w 59 0)

/-- WINDOW_LAUNCH (R358). -/
def execWindowLaunch (asid rcb : Nat) (priv : Bool) (s : State) : Res := .next (s.windowWrite (windowPage asid priv) 0 rcb)
/-- WINDOW_PREEMPT (R361). -/
def execWindowPreempt (asid rcb : Nat) (priv : Bool) (s : State) : Res := .next (s.windowWrite (windowPage asid priv) 1 rcb)
/-- WINDOW_KILL (R363). -/
def execWindowKill (asid rcb : Nat) (priv : Bool) (s : State) : Res := .next (s.windowWrite (windowPage asid priv) 2 rcb)
/-- WINDOW_RESUME (R358). -/
def execWindowResume (asid rcb : Nat) (priv : Bool) (s : State) : Res := .next (s.windowWrite (windowPage asid priv) 3 rcb)
/-- WINDOW_FAULT (R363). -/
def execWindowFault (asid rcb : Nat) (priv : Bool) (s : State) : Res := .next (s.windowWrite (windowPage asid priv) 4 rcb)

/-! ## The destruction of a context (R370) -/

/-- Write back and invalidate the L1 and metadata-cache lines of a context: false when some line must wait. -/
def State.flushAsid (s : State) (asid : Nat) : Bool × State :=
  forEach s.cores (true, s) (fun (ok, s) c =>
    let mine (x : Copy) : Bool := (x.cache == 0 || x.cache == 5 || x.cache == 7) && x.asid == asid
    forEach (dedup [] ((c.2.copies.filter mine).map Copy.pline)) (ok, s) (fun (ok, s) line =>
      let (d, s) := s.writeBack c.1 line
      if d then (ok, s.dropCopies c.1 (fun x => mine x && x.pline == line)) else (false, s)))

/-- Drop every translation of a context in the TLBs. -/
def State.dropTlbs (s : State) (keep : Tlb → Bool) (dies : List Nat) : State :=
  let sift (l : List Tlb) : List Tlb := l.filter keep
  { s with xlate := { s.xlate with
      cluster := s.xlate.cluster.filterMap (fun (p : Nat × List Tlb) =>
        if dies.contains (p.1 / 12) then (if sift p.2 = [] then none else some (p.1, sift p.2)) else some p),
      dieTlb := s.xlate.dieTlb.filterMap (fun (p : Nat × List Tlb) =>
        if dies.contains p.1 then (if sift p.2 = [] then none else some (p.1, sift p.2)) else some p) } }

/-- The pins of a context end. -/
def State.dropPins (s : State) (asid : Nat) : State :=
  { s with homes := { s.homes with tags := s.homes.tags.map (fun (p : Nat × Option Tag) =>
      (p.1, p.2.map (fun t => if t.pin = some asid then { t with pin := none } else t))) } }

/-- Go on with the destruction of a context: its regions are terminated, its lines written back, its allowances return to their homes, and
its translations and pins go; then it is no longer valid. -/
def State.killContext (s : State) (asid : Nat) : State :=
  let s := forEach ((s.allRegions.filter (fun p => p.2.asid == asid)).map Prod.fst) s
    (fun s rid => if (s.region rid).terminable then s.terminate rid 7 noClass 0 0 else s.settle rid)
  let (ok, s) := s.flushAsid asid
  let busy := s.allRegions.any (fun p => p.2.asid == asid && decide (1 ≤ p.2.state) && decide (p.2.state ≤ 3))
  let s := if !ok || busy then s else forEach s.cores s (fun s c => s.returnAllows c.1 (fun a => a.asid == asid))
  let back := s.cores.any (fun c => c.2.allow.any (fun a => a.asid == asid))
  let pa := s.ctxEntry asid + 8
  if !ok || busy || back || s.devWaits (pa / 128) then (s.noteDev (pa / 128)).park (.ctxkill asid)
  else
    let s := (s.dropTlbs (fun t => t.asid != asid) [0, 1]).dropPins asid
    let s := s.devPut pa (leBytes 8 (setBits (s.numAt pa 8) 0 0 0))
    { s with pkg := { s.pkg with ctxKill := none } }

end Sys2Proof.Machine
end

