-- ==== Sys2Proof/Machine/Registers.lean ====
section
/-! DEFINITION. The registers that CSR numbers name: those of a strand (R31 to R38), of its conversion record (R86), and the
privileged ones (R309, R368, R370, R403 to R406, R414, R423, R425, R435, R438, R439, R446, R451 to R461), with the rules of
their fields. -/

namespace Sys2Proof.Machine

/-! ## Registers of a strand (R31) -/

/-- WSREF (R36). -/
def State.wsref (s : State) : Nat :=
  let t := s.ns % 32000
  let b := t / 2000
  let u := t % 2000
  let act := u < 1200
  let cur := if act then b else (b + 1) % 16
  let rem := if act then 1200 - u else 2000 - u
  cur + b2n act * 16 + rem * 2 ^ 16 + s.ns / 32000 % 2 ^ 32 * 2 ^ 32

/-- Numbers of R31 and R86 that a CSRW may not name. -/
def csrReadOnly (n : Nat) : Bool := [0x010, 0x011, 0x020, 0x030, 0x040, 0x041, 0x042].contains n

/-- Numbers that R31 lists. -/
def csrListed (n : Nat) : Bool := csrReadOnly n || [0x000, 0x001, 0x051, 0x052, 0x053].contains n

/-- What an unprivileged register reads for a strand. -/
def State.csrRead (s : State) (sid n : Nat) : Nat :=
  let st := s.strand sid
  match n with
  | 0x000 => st.frm.toNat
  | 0x001 => st.fstat.toNat
  | 0x010 => s.ns
  | 0x011 => s.nsFrac
  | 0x020 => s.wsref
  | 0x030 => s.reg 0xA10 % 32
  | 0x040 => st.strandId
  | 0x041 => st.amask.toNat
  | 0x042 => st.depths
  | 0x051 => st.j 1
  | 0x052 => st.j 2
  | 0x053 => st.j 3
  | _ => match cvField n with
    | some (i, w) => bits (s.cvRec (s.regionOf st).cvrecPa) (i + w - 1) i
    | none => 0

/-- Write a count or threshold of the conversion record, or clear bits of CVSTAT (R86, R87). -/
def State.cvWrite (s : State) (rid n x : Nat) : State :=
  match cvField n with
  | some (i, w) =>
    let pa := (s.region rid).cvrecPa
    let y := s.cvRec pa
    let v := if n = 0x120 then bits y (i + w - 1) i &&& (7 - x % 8) else x % 2 ^ 40
    s.setCvRec pa (some (setBits y (i + w - 1) i v))
  | none => s

/-- Write an unprivileged register of a strand under its field rules. -/
def State.csrWrite (s : State) (sid n x : Nat) : State :=
  let put (f : Strand → Strand) : State := s.modStrand sid f
  let jidx (k : Nat) : State := put (fun st => { st with jidx := kvSet 0#16 st.jidx k (BitVec.ofNat 16 x) })
  match n with
  | 0x000 => put (fun st => { st with frm := frmOf x })
  | 0x001 => put (fun st => { st with fstat := BitVec.ofNat 5 x })
  | 0x051 => jidx 1
  | 0x052 => jidx 2
  | 0x053 => jidx 3
  | _ => s.cvWrite (s.strand sid).rid n x

/-! ## The LLC's counters and probe (R403 to R406) -/

/-- The tags of a slice. -/
def State.tagsOf (s : State) (slice : Nat) : List Tag :=
  s.homes.tags.filterMap (fun q => if q.1 / 65536 = slice then s.tag q.1 else none)

/-- Read counter c of one more slice. -/
def State.llcSlice (s : State) (c slice : Nat) (q : LlcSum) : LlcSum :=
  let l := s.tagsOf slice
  let x := match c with
    | 11 => kvGet 0 s.homes.fillsN slice
    | 12 => kvGet 0 s.homes.expandN slice
    | 13 => kvGet 0 s.homes.expevN slice
    | 15 => (l.filter (fun t => t.pin.isSome)).length
    | _ => (l.filter (fun t => t.enc == c)).length
  ⟨q.slices + 1, q.lines + l.length, q.sect + l.foldl (fun n t => n + t.scnt) 0, q.sum + x⟩

/-- The value of counter c once its slices have been read. -/
def LlcSum.value (q : LlcSum) (c : Nat) : Nat :=
  let cap := 4194304 * q.slices
  let x := match c with
    | 10 => q.sect
    | 14 => if q.lines = 0 then cap else if q.sect = 0 then 2 * cap else min (2 * cap) (4 * cap * q.lines / q.sect)
    | _ => q.sum
  min x (2 ^ 64 - 1)

/-- The slices that a counter register reads, for a selection of LLCSLSEL: the first, and how many. -/
def llcSlices (n sel : Nat) : Nat × Nat :=
  if n < 0x920 then (0, 48) else if n < 0x940 then (48, 48)
  else (sel % 2 * 48 + bits sel 6 1, if 48 ≤ bits sel 6 1 then 0 else 1)

/-- A counter register, for a selection of LLCSLSEL. -/
def State.llcRegister (s : State) (n sel : Nat) : Nat :=
  let l := natsFrom (llcSlices n sel).1 (llcSlices n sel).2
  (l.foldl (fun q k => s.llcSlice (n % 16) k q) LlcSum.start).value (n % 16)

/-- What a probe of the line of a physical address returns. -/
def State.llcProbeOf (s : State) (pa : Nat) : Nat :=
  if !isHbm pa then 2 ^ 60
  else
    let line := pa / 128
    let k := sliceOf line
    let place := k % 48 * 2 ^ 54 + k / 48 * 2 ^ 53 + line % 4096 * 2 ^ 41
    match s.findTag line with
    | none => place
    | some (key, t) =>
      let x := s.stamp line
      place + 2 ^ 63 + b2n t.pin.isSome * 2 ^ 62 + b2n t.dirty * 2 ^ 61 + key % 16 * 2 ^ 37 + t.enc % 16 * 2 ^ 33
        + t.scnt % 8 * 2 ^ 30 + x.ver % 256 * 2 ^ 22 + t.epoch % 4 * 2 ^ 20

/-- Numbers whose CSRR is a strong load performed at a slice. -/
def llcCsr (n : Nat) : Bool :=
  (decide (0x900 ≤ n) && decide (n < 0x910)) || (decide (0x920 ≤ n) && decide (n < 0x930))
    || (decide (0x940 ≤ n) && decide (n < 0x950)) || n == 0x962

/-! ## Privileged registers -/

/-- Registers that no write changes. -/
def privReadOnly (n : Nat) : Bool :=
  llcCsr n || [0x968, 0x9B2, 0xA1B, 0xA28, 0xA35, 0xA38].contains n || between 0x980 0x987 n || between 0xA40 0xAA7 n
    || between 0xB00 0xB3F n || between 0xC00 0xDFF n

/-- Privileged numbers that the manual lists. -/
def privListed (n : Nat) : Bool :=
  privReadOnly n || [0x810, 0x811, 0x8C0, 0x960, 0x961, 0x969, 0x970, 0x9A0, 0x9A1, 0x9B0, 0x9B1, 0x9B3, 0x9C0].contains n
    || between 0xA00 0xA02 n || between 0xA10 0xA1C n || between 0xA20 0xA27 n || between 0xA30 0xA37 n

/-- The die and core whose registers a writer reaches: a strand's own core; through the management window, or by Uzoip, the die's
first. -/
def State.coreOf (s : State) (who : Writer) : Nat :=
  match who with
  | .strand sid => (s.strand sid).core
  | .host die => die % 2 * 96
  | .uzoip die => die % 2 * 96

/-- LLCSLSEL and LLCPRBA are the strand's own; the host and Uzoip have one of each. -/
def State.llcSel (s : State) (who : Writer) : Nat :=
  match who with
  | .strand sid => (s.strand sid).llcslsel.toNat
  | _ => s.reg 0x960
def State.llcPrba (s : State) (who : Writer) : Nat :=
  match who with
  | .strand sid => (s.strand sid).llcprba.toNat
  | _ => s.reg 0x961

/-- The copy of the lifetime record with the higher sequence number. -/
def Pkg.lifeLatest (p : Pkg) : LifeRec := if p.lifeA.seq < p.lifeB.seq then p.lifeB else p.lifeA

/-- What a privileged register reads; HBMERR's clearing read is hbmRead. -/
def State.privRead (s : State) (who : Writer) (n : Nat) : Nat :=
  if llcCsr n then (if n = 0x962 then s.llcProbeOf (s.llcPrba who) else s.llcRegister n (s.llcSel who))
  else if n = 0x811 then s.reg n + b2n s.pkg.ctxKill.isSome * 2 ^ 63
  else if n = 0x8C0 then (s.core (s.coreOf who)).weight.minj.toNat
  else if n = 0x960 then s.llcSel who
  else if n = 0x961 then s.llcPrba who
  else if n = 0x968 then s.pkg.flips % 2 ^ 32 * 2 ^ 16 + s.pkg.epoch % 4
  else if between 0x980 0x987 n then (kvGet 0#64 s.pkg.hbmErr (n - 0x980)).toNat
  else if n = 0xA00 then
    s.reg n % 2 ^ 11 + Config.fuseLmax.toNat * 2 ^ 11 + Config.fuseIcap.toNat * 2 ^ 27 + Config.fuseTthr.toNat * 2 ^ 40
      + Config.fuseTtrip.toNat * 2 ^ 48
  else if n = 0xA28 then b2n s.pkg.atBusy
  else if between 0xA40 0xAA7 n then ofLe ((nats 8).map (fun i => kvGet 0#8 s.pkg.report (8 * (n - 0xA40) + i)))
  else if between 0xB00 0xB3F n then (Config.idKey (n - 0xB00)).toNat
  else if between 0xC00 0xDFF n then
    let l := s.pkg.lifeLatest
    if n = 0xC00 then l.seq else (kvGet 0#64 l.words (n - 0xC00)).toNat
  else s.reg n

/-- A read of HBMERR of a stack: its value, with CE and UE cleared (R423). -/
def State.hbmRead (s : State) (stack : Nat) : Nat × State :=
  let x := (kvGet 0#64 s.pkg.hbmErr stack).toNat
  (x, { s with pkg := { s.pkg with hbmErr := kvSet 0#64 s.pkg.hbmErr stack (BitVec.ofNat 64 (setBits x 51 28 0)) } })

/-- A privileged register read with what the read itself changes. -/
def State.privTake (s : State) (who : Writer) (n : Nat) : Nat × State :=
  if between 0x980 0x987 n then s.hbmRead (n - 0x980) else (s.privRead who n, s)

/-! ## Writes -/

/-- MINJ (R309): arming binds the injector to the writer's cohort; a row or bit that it does not have leaves it disarmed. -/
def State.minjSet (s : State) (who : Writer) (x : Nat) : State :=
  let core := s.coreOf who
  let (cid, rows) := match who with
    | .strand sid => ((s.strand sid).cid, (s.cohort (s.strand sid).cid).rows)
    | _ => (0, 0)
  let arm := bit x 63 && decide (x % 64 < 40) && decide (bits x 21 13 < rows)
  s.modCore core (fun c =>
    { c with weight := { c.weight with minj := BitVec.ofNat 64 (x % 2 ^ 22 + b2n arm * 2 ^ 63),
                                       minjCohort := if arm then some cid else none },
             mq := c.mq.map (fun (e : MEnt) => { e with inject := false }) })

/-- MODESEL (R454): Uzoip sets bits and never clears them. -/
def State.modeselSet (s : State) (who : Writer) (x : Nat) : State :=
  match who with
  | .uzoip _ => s.setReg 0xA10 (s.reg 0xA10 ||| x % 32)
  | _ => s.setReg 0xA10 (x % 32)

/-- BUDGET (R452). -/
def State.budgetSet (s : State) (x : Nat) : State :=
  let b := x % 2 ^ 11
  s.setReg 0xA00 (if b < 1 ∨ 1900 < b then 1600 else b)

/-- VSET (R452). -/
def State.vsetSet (s : State) (x : Nat) : State := s.setReg 0xA02 (max 360 (min 520 (x % 2 ^ 10)))

/-- LEASELEN (R414). -/
def State.leaselenSet (s : State) (x : Nat) : State :=
  let l := x % 2 ^ 16
  s.setReg 0x969 (if l < 16 ∨ 4096 < l then 256 else l)

/-- DTSET (R445): once, before the first launch. -/
def State.dtsetSet (s : State) (x : Nat) : State :=
  if s.pkg.dtsetUsed || s.pkg.launched then s
  else { s.setReg 0x9B3 x with time := 47 * (x % 2 ^ 64), pkg := { (s.setReg 0x9B3 x).pkg with dtsetUsed := true } }

/-- ATNONCE (R458): the last of its words starts a report. -/
def State.nonceSet (s : State) (word x : Nat) : State :=
  let s := s.setReg (0xA20 + word % 8) x
  if word % 8 = 7 then { s with pkg := { s.pkg with atBusy := true } } else s

/-- CTXKILL (R370). -/
def State.ctxkillSet (s : State) (x : Nat) : State :=
  if s.pkg.ctxKill.isSome then s
  else
    let a := x % 65536
    let s := s.setReg 0x811 a
    { s with pkg := { s.pkg with ctxKill := some a } }.killContext a

/-- FADJ of PTPADJ, clamped to 500,000 parts in 10^9 either way (R446). -/
def fadjOf (x : Nat) : Nat := wrapN 32 (max (-500000) (min 500000 (sInt 32 x)))

/-- The bits of a plain register that hold something. -/
def privWidth (n : Nat) : Nat :=
  if [0x810, 0x970, 0x9C0, 0xA01, 0xA19, 0xA31, 0xA32].contains n then 56 else if n = 0xA37 then 32 else 64

/-- Registers that only the host may write, through the management window (R433, R455, R456). -/
def hostOnly (n : Nat) : Bool := between 0xA11 0xA18 n || n == 0xA1C

/-- Write a privileged register; a write to one that is read-only, that is not listed, or that only the host may write, is
discarded here. -/
def State.privWrite (s : State) (who : Writer) (n x : Nat) : State :=
  let host := match who with | .host _ => true | _ => false
  if privReadOnly n || !privListed n || (hostOnly n && !host) then s
  else if n = 0x811 then s.ctxkillSet x
  else if n = 0x8C0 then s.minjSet who x
  else if n = 0x960 then
    (match who with
      | .strand sid => s.modStrand sid (fun st => { st with llcslsel := BitVec.ofNat 7 x })
      | _ => s.setReg n (x % 2 ^ 7))
  else if n = 0x961 then
    (match who with
      | .strand sid => s.modStrand sid (fun st => { st with llcprba := BitVec.ofNat 52 (x / 128 * 128) })
      | _ => s.setReg n (x % 2 ^ 52 / 128 * 128))
  else if n = 0x969 then s.leaselenSet x
  else if n = 0x9B0 then s.setReg n (setBits (s.reg n) 23 0 (x % 2 ^ 24))
  else if n = 0x9B1 then s.setReg n (fadjOf x)
  else if n = 0x9B3 then s.dtsetSet x
  else if n = 0xA00 then s.budgetSet x
  else if n = 0xA02 then s.vsetSet x
  else if n = 0xA10 then s.modeselSet who x
  else if between 0xA11 0xA18 n then s.setReg n (setBits (x % 2 ^ 64) 61 52 0)
  else if n = 0xA30 then { s.setReg n (x % 2 ^ 64) with pkg := { (s.setReg n (x % 2 ^ 64)).pkg with lastSheet := s.ns } }
  else if between 0xA20 0xA27 n then s.nonceSet (n - 0xA20) x
  else s.setReg n (x % 2 ^ privWidth n)

end Sys2Proof.Machine
end

