-- ==== Sys2Proof/Machine/System.lean ====
section
/-! DEFINITION. The system instructions: CSRR and CSRW (R31 to R38, R86, R87, R103, R406), TLBINV and ICINV (R383 to R386,
R388), MARK (R462). -/

namespace Sys2Proof.Machine

/-! ## CSRR and CSRW -/

/-- A matrix entry sets flags of its strand (R34, R79): an MRD that rounds, which one of fa40 rows does not (R290). -/
def MEnt.setsFlags (e : MEnt) : Bool := e.raw.op == 0xD5#8 && e.raw.af != 14

/-- A matrix entry adds events to the conversion record (R85): MEPI, but for rows of f32 (R298). -/
def MEnt.converts (e : MEnt) : Bool := e.raw.op == 0xD7#8 && e.raw.af != 8

/-- The strand has an entry of a kind in the matrix queue. -/
def State.queued (s : State) (sid : Nat) (p : MEnt → Bool) : Bool :=
  (s.core (s.strand sid).core).mq.any (fun (e : MEnt) => e.sid == sid && p e)

/-- A read or write of FSTAT waits for the producers of flags that the strand has issued (R34), and a read of a count for
its conversions (R87). -/
def State.csrWaits (s : State) (sid n : Nat) (write : Bool) : Bool :=
  (n == 0x001 && ((s.strand sid).fills.any (fun f => f.kind == .transc) || s.queued sid MEnt.setsFlags))
    || (!write && between 0x100 0x102 n && s.queued sid MEnt.converts)

/-- What stands before a CSR access (R32, R67): a class with its info code, or nothing. -/
def csrFault (n : Nat) (sys write : Bool) : Option (Nat × Nat) :=
  if n < 0x800 then
    (if !(csrListed n || (cvField n).isSome) || (write && csrReadOnly n) then some (clsIllegal, 14) else none)
  else if write && privReadOnly n then some (clsIllegal, 14)
  else if !sys then some (clsProt, 0)
  else if !privListed n then some (clsIllegal, 14)
  else none

/-- CSRR: an LLC register is read at its slices, and holds the strand until its value returns (R406); its destination stays full
(R28). -/
def execCsrr (o : SOps) (s : State) : Res :=
  let r := rawS 0x3E o
  s.issue r (fun sid s =>
    let n := r.sel
    let d := r.d.toNat
    match csrFault n (s.isSystem (s.strand sid)) false with
    | some (c, i) => s.precise sid r c i 0 none 0
    | none =>
      if s.csrWaits sid n false then s
      else if llcCsr n then
        (s.modStrand sid (fun st => { st.next r.bytes with waiting := .llc d .start })).push
          (if n = 0x962 then .llcProbe sid d else .llcCounterRead sid n d)
      else if n < 0x800 then
        let x := s.csrRead sid n
        s.modStrand sid (fun st => (st.setS d x).next r.bytes)
      else
        let (x, s) := s.privTake (.strand sid) n
        s.modStrand sid (fun st => (st.setS d x).next r.bytes))

/-- CSRW: it takes effect for every later instruction. -/
def execCsrw (o : SOps) (s : State) : Res :=
  let r := rawS 0x3F o
  s.issue r (fun sid s =>
    let n := r.sel
    let x := (s.strand sid).s r.a.toNat
    match csrFault n (s.isSystem (s.strand sid)) true with
    | some (c, i) => s.precise sid r c i 0 none 0
    | none =>
      if s.csrWaits sid n true then s
      else
        let s := s.done sid r
        if n < 0x800 then s.csrWrite sid n x else s.privWrite (.strand sid) n x)

/-- What a CSRR of an LLC register has read so far, for one that waits with this destination. -/
def Strand.reading (st : Strand) (dst : Nat) : Option LlcSum :=
  match st.waiting with
  | .llc d q => if d = dst then some q else none
  | _ => none

/-- The value of an LLC register reaches the strand that waits for it, which has read as with a strong load (R406): its core's ACQTS
takes the latest time of what the slice has performed (R410). -/
def State.llcReturn (s : State) (sid dst x : Nat) : State :=
  let st := s.strand sid
  (s.setStrand sid { st.setS dst x with waiting := .nothing }).noteTime st.core s.topTime

/-- LLC_PROBE (R405): in one step, which waits while an epoch flips (R415). -/
def execLlcProbe (sid dst : Nat) (s : State) : Res :=
  let line := (s.strand sid).llcprba.toNat / 128
  .next (match (s.strand sid).reading dst with
    | some _ =>
      if s.flipHold then s.push (.llcProbe sid dst)
      else (s.noteWts line (s.strand sid).core).llcReturn sid dst (s.llcProbeOf (s.strand sid).llcprba.toNat)
    | none => s)

/-- LLC_COUNTER_READ (R406): one slice after another, each at an instant of its own. -/
def execLlcCounterRead (sid csr dst : Nat) (s : State) : Res :=
  let (first, n) := llcSlices csr (s.strand sid).llcslsel.toNat
  .next (match (s.strand sid).reading dst with
    | none => s
    | some q =>
      if !llcCsr csr || csr == 0x962 then s
      else if s.flipHold then s.push (.llcCounterRead sid csr dst)
      else
        let q := if q.slices < n then s.llcSlice (csr % 16) (first + q.slices) q else q
        if q.slices < n then (s.modStrand sid (fun st => { st with waiting := .llc dst q })).push (.llcCounterRead sid csr dst)
        else s.llcReturn sid dst (q.value (csr % 16)))

/-! ## What TLBINV selects (R384) -/

/-- The range is empty or passes 2^56. -/
def Inval.bad (v : Inval) : Bool := v.kind == 0 && (v.len == 0 || decide (2 ^ 56 < v.lo + v.len))

/-- A block of virtual addresses of a context is selected. -/
def Inval.hits (v : Inval) (asid va n : Nat) : Bool :=
  match v.kind with
  | 0 => asid == v.asid && overlaps va n v.lo v.len
  | 1 => asid == v.asid
  | _ => true

/-- The entries that a page table of n bytes holds: index and value. -/
def State.tableEntries (s : State) (table n : Nat) : List (Nat × Nat) :=
  let cells := s.mem.filter (fun (c : Nat × Byte) => decide (table ≤ c.1) && decide (c.1 < table + n))
  (dedup [] (cells.map (fun c => (c.1 - table) / 8))).map (fun i => (i, s.numAt (table + 8 * i) 8))

/-- The lines of a table, whose first entry maps a base, that hold the entries of a range. -/
def Inval.tableLines (v : Inval) (level table base : Nat) : List Nat :=
  let unit := 2 ^ levelShift level
  let lo := (v.lo - base) / unit
  let hi := min (levelEntries level - 1) ((v.lo + v.len - 1 - base) / unit)
  linesOf (table + 8 * lo) (8 * (hi + 1 - lo))

/-- The leaves that map a range, below a table, at most fuel levels, read as walks read them (R376): none while some line of a table
must wait at its home. -/
def State.leavesFrom (s : State) (v : Inval) (level table base fuel : Nat) : Option (List Tlb) × State :=
  match fuel with
  | 0 => (some [], s)
  | fuel + 1 =>
    let lines := v.tableLines level table base
    if lines.any (fun l => s.homeWaits l none false) then (none, s)
    else
      let s := forEach lines s (fun s l => s.llcRead l)
      forEach (s.tableEntries table (8 * levelEntries level)) (some [], s) (fun (got, s) p =>
        let va := base + p.1 * 2 ^ levelShift level
        if !v.hits v.asid va (2 ^ levelShift level) then (got, s)
        else if level ≠ 0 && leafOk p.2 (leafSize level) then (got.map (· ++ [⟨v.asid, va, leafSize level, p.2⟩]), s)
        else if tableOk p.2 level then
          let (below, s) := s.leavesFrom v (level + 1) (pteAddr p.2) va fuel
          (got.bind (fun l => below.map (l ++ ·)), s)
        else (got, s))

/-- The current leaves of the selected pages, which a RANGE form reads as walks do; in host-assisted mode the host gives them
(State.hostLeaves). -/
def State.currentLeaves (s : State) (v : Inval) : Option (List Tlb) × State :=
  if v.kind ≠ 0 ∨ s.hostMode 0 then (some [], s)
  else match s.rootOf v.asid with
    | (none, s) => (none, s)
    | (some root, s) => if rootOk root then s.leavesFrom v 0 root 0 4 else (some [], s)

/-- The translations of some dies that are selected. -/
def State.selectedTlbs (s : State) (v : Inval) (dies : List Nat) : List Tlb :=
  let sel (l : List Tlb) : List Tlb := l.filter (fun e => v.hits e.asid e.vpage e.size)
  (s.xlate.cluster.filter (fun p => dies.contains (p.1 / 12))).flatMap (fun p => sel p.2)
    ++ (s.xlate.dieTlb.filter (fun p => dies.contains p.1)).flatMap (fun p => sel p.2)

/-- A cached line is selected: by its tag, or by the frame that its physical line lies in. -/
def lineHit (v : Inval) (pages : List Tlb) (asid vline pline : Nat) : Bool :=
  let va := vline * 128
  v.hits asid (va / 65536 * 65536) 65536 || pages.any (fun e =>
    (e.asid == asid && decide (e.vpage ≤ va) && decide (va < e.vpage + e.size))
      || (decide (pteAddr e.pte ≤ pline * 128) && decide (pline * 128 < pteAddr e.pte + e.size)))

/-- Perform and invalidate the selected lines of a core: false when some line must wait, for the end of a lease or at its
home. -/
def State.flushLines (s : State) (core : Nat) (hit : Nat → Nat → Nat → Bool) : Bool × State :=
  let c := s.core core
  let mine (x : Copy) : Bool := hit x.asid x.vline x.pline
  let lines := dedup [] ((c.copies.filter mine).map Copy.pline)
  let (ok, s) := forEach lines (true, s) (fun (ok, s) line =>
    if (match s.holding line with | some h => h.core == core | none => false) then (false, s)
    else
      let (d, s) := s.writeBack core line
      if d then (ok, s.dropCopies core (fun x => mine x && x.pline == line)) else (false, s))
  (ok, s.modCore core (fun x => { x with icache := x.icache.filter (fun y => !hit y.asid y.vline y.pline) }))

/-- The cores of some dies that hold anything. -/
def State.coresIn (s : State) (dies : List Nat) : List Nat := (s.cores.map Prod.fst).filter (fun c => dies.contains (dieOf c))

/-- The failed accesses that triage has and whose page was selected go back to it (R384, R388): they are tried again. -/
def State.resubmit (s : State) (v : Inval) (pages : List Tlb) : State :=
  let due := s.allStrands.flatMap (fun p => (p.2.log.filter (fun q => q.2.accs.any (fun a => a.atTriage
    && lineHit v (pages.filter (fun e => e.asid == s.asidOf p.2)) (s.asidOf p.2) (a.va / 128) (2 ^ 60)))).map (fun q => (p.1, q.1)))
  let cmds := s.cores.flatMap (fun c => (c.2.cq.filter (fun e => e.stage == 2 && (e.mask == clsXlate || e.mask == clsProt)
    && lineHit v (pages.filter (fun x => x.asid == e.asid)) e.asid (e.faddr / 128) (2 ^ 60))).map (fun e => (c.1, e.ident)))
  forEach cmds (forEach due s (fun s p => s.repair (.entry p.1 p.2 (BitVec.allOnes 64)) [])) (fun s p => s.copyRepaired p.1 p.2)

/-- A context is selected, at least in part. -/
def Inval.picks (v : Inval) (asid : Nat) : Bool := v.kind == 2 || asid == v.asid

/-- An access that may have used a selected translation, of whatever size its page is, is still on its way: a request to a peer or to a counter's home, a counter
instruction past its gate, a command's request to a peer, dirty bytes or the end of a lease on their way to their home (R384). -/
def State.stillUses (s : State) (v : Inval) (pages : List Tlb) (dies : List Nat) : Bool :=
  let picked (asid va : Nat) : Bool := v.hits asid (va / 65536 * 65536) 65536 || pages.any (fun e => e.serves asid va)
  let asked (core ident : Nat) : Bool := s.fabric.peers.any (fun q => q.slot == 8 + core && q.sid == ident)
  s.allStrands.any (fun p => dies.contains (dieOf p.2.core) && p.2.log.any (fun q => q.2.accs.any (fun a =>
    (a.status == 5 || (q.2.counts && a.status == 0 && a.got2 == 1)) && picked (s.asidOf p.2) a.va)))
  || s.cores.any (fun c => dies.contains (dieOf c.1)
    && (c.2.cq.any (fun e => v.picks e.asid && asked c.1 e.ident)
      || c.2.mq.any (fun (e : MEnt) => v.picks (s.region e.rid).asid && asked c.1 e.ident)))
  || !s.homes.goQueue.isEmpty

/-- An invalidation of a party that asks the host. -/
def State.invalRun (s : State) (w : Who) (v : Inval) : Option InvalRun := s.xlate.runs.find? (fun r => r.sid == w.sid && r.op == v)
def State.putRun (s : State) (w : Who) (v : Inval) (r : Option InvalRun) : State :=
  { s with xlate := { s.xlate with runs := s.xlate.runs.filter (fun r => !(r.sid == w.sid && r.op == v)) ++ r.toList } }

/-- Ask the host for the leaves of the selected pages from an address on, one after another, at most fuel of them: false while an
answer is still to come. -/
def State.askPages (s : State) (w : Who) (r : InvalRun) (fuel : Nat) : Bool × State :=
  match fuel with
  | 0 => (true, s)
  | fuel + 1 =>
    if r.op.lo + r.op.len ≤ r.next then (true, s)
    else
      let go (s : State) (r : InvalRun) : Bool × State := (s.putRun w r.op (some r)).askPages w r fuel
      match s.translate { w with asid := r.op.asid } r.next with
      | (.wait, s) => (false, s)
      | (.fault _, s) => go s { r with next := r.next / 65536 * 65536 + 65536 }
      | (.hit _ _, s) => (match (kvGet [] s.xlate.cluster (clusterOf w.core)).find? (fun e => e.serves r.op.asid r.next) with
          | some e => go s { r with next := e.vpage + e.size, leaves := r.leaves ++ [e] }
          | none => go s { r with next := r.next / 65536 * 65536 + 65536 })

/-- Perform and invalidate what the selected pages name, and drop their translations, in some dies: false when it must wait, for a
home or for an access that uses one. -/
def State.sweepPages (s : State) (v : Inval) (dies : List Nat) (pages : List Tlb) : Bool × State :=
  let (ok, s) := forEach (s.coresIn dies) (true, s) (fun (ok, s) c =>
    let (d, s) := s.flushLines c (lineHit v pages)
    (ok && d, s))
  if !ok || s.stillUses v pages dies then (false, s)
  else
    let s := s.dropTlbs (fun e => !v.hits e.asid e.vpage e.size) dies
    let s := { s with xlate := { s.xlate with walk := s.xlate.walk.filterMap (fun (p : Nat × List WalkEnt) =>
      if dies.contains p.1 then
        let l := p.2.filter (fun (w : WalkEnt) => v.kind != 2 && w.asid != v.asid)
        if l = [] then none else some (p.1, l)
      else some p) } }
    (true, s)

/-- The current leaves that an invalidation looks at: none while the host has still to give them. In host-assisted mode the old
translations go first, so that what the party then has of the pages comes from the host. -/
def State.hostLeaves (s : State) (w : Who) (v : Inval) (dies : List Nat) : Option (List Tlb) × State :=
  if v.kind ≠ 0 ∨ !s.hostMode 0 then s.currentLeaves v
  else
    let (ok, s) := match s.invalRun w v with
      | some _ => (true, s)
      | none => match s.sweepPages v dies (s.selectedTlbs v dies) with
        | (true, t) => (true, t.putRun w v (some ⟨w.sid, v, v.lo, s.selectedTlbs v dies⟩))
        | (false, s) => (false, s)
    match ok, s.invalRun w v with
    | true, some r => (match s.askPages w r (v.len / 65536 + 2) with
        | (true, s) => (some ((s.invalRun w v).elim [] InvalRun.leaves), s)
        | (false, s) => (none, s))
    | _, _ => (none, s)

/-- An invalidation in some dies (R384): false when it must wait. -/
def State.invalidate (s : State) (w : Who) (v : Inval) (dies : List Nat) : Bool × State :=
  match s.hostLeaves w v dies with
  | (none, s) => (false, s)
  | (some leaves, s) =>
    let pages := s.selectedTlbs v dies ++ leaves
    match s.sweepPages v dies pages with
    | (false, s) => (false, s)
    | (true, s) => (true, (s.putRun w v none).resubmit v pages)

/-- The dies of a scope. -/
def Strand.scopeDies (st : Strand) (r : Raw) : List Nat := if r.scopeS = 1 then [dieOf st.core] else [0, 1]

/-- TLBINV in a form: its destination is empty, and the strand waits, until its earlier writes are performed and the invalidation
is done (R28, R384). -/
def State.runTlbinv (s : State) (r : Raw) (kind : Nat) : Res :=
  s.issue r (fun sid s =>
    let st := s.strand sid
    let d := r.d.toNat
    let v : Inval := ⟨kind, if r.len = 2#2 then r.imm32 % 65536 else r.imm16, st.s r.a.toNat, st.s (r.a.toNat + 1)⟩
    let give (s : State) (k : Nat) : State := s.modStrand sid (fun st => (st.setS d k).next r.bytes)
    if !s.isSystem st then s.fault sid r clsProt 0
    else if v.bad then give s 7
    else if st.accessing then s.again sid d
    else
      let (ok, s) := s.performCore st.core [sid]
      if !ok then s.again sid d
      else
        let (ok, s) := s.invalidate (s.who sid) v (st.scopeDies r)
        if ok then give s 0 else s.again sid d)

def execTlbinvRange (o : SOps) (s : State) : Res := s.runTlbinv (rawS 0xF0 o) 0
def execTlbinvAsid (o : SOps) (s : State) : Res := s.runTlbinv (rawS 0xF0 o) 1
def execTlbinvAll (o : SOps) (s : State) : Res := s.runTlbinv (rawS 0xF0 o) 2

/-- An invalidation by the host, in both dies (R384). -/
def State.hostInval (s : State) (sel asid base len : Nat) : State :=
  let v : Inval := ⟨sel, asid, base, len⟩
  if v.bad || 2 < sel then s
  else match s.invalidate ⟨0, none, asid, true⟩ v [0, 1] with
    | (true, s) => s
    | (false, s) => s.park (.tlbinv sel asid base len)

/-- HOST_TLBINV. -/
def execHostTlbinv (sel asid base len : Nat) (s : State) : Res := .next (s.hostInval sel asid base len)

/-- ICINV (R385): its destination is empty, and the strand waits, until its earlier writes are performed. -/
def execIcinv (o : SOps) (s : State) : Res :=
  let r := rawS 0xF1 o
  s.issue r (fun sid s =>
    let st := s.strand sid
    let v : Inval := ⟨0, s.asidOf st, st.s r.a.toNat, st.s (r.a.toNat + 1)⟩
    let give (s : State) (k : Nat) : State := s.modStrand sid (fun st => (st.setS r.d.toNat k).next r.bytes)
    if v.bad then give s 7
    else if st.accessing then s.again sid r.d.toNat
    else
      let (ok, s) := s.performCore st.core [sid]
      if !ok then s.again sid r.d.toNat
      else give (forEach (s.coresIn (st.scopeDies r)) s (fun s c => s.modCore c (fun x =>
        { x with icache := x.icache.filter (fun y => !v.hits y.asid (y.vline * 128) 128) }))) 0)

/-! ## MARK -/

/-- MARK (R462): in a debug region its entry stands after those of the strand's earlier operations; it holds no access back. -/
def execMark (o : SOps) (s : State) : Res :=
  let r := rawS 0xF2 o
  s.issue r (fun sid s =>
    let st := s.strand sid
    if !(s.regionOf st).rcb.dbg then s.done sid r
    else if s.negBlocks sid then s
    else
      let m := if r.len = 2#2 then r.imm32 else r.imm16
      let (seq, s) := s.nextSeq
      (s.negative sid seq 9 0 (m % 2 ^ 32 + st.s r.a.toNat % 2 ^ 32 * 2 ^ 32) 0xFF (10000 + sid)).done sid r)

end Sys2Proof.Machine
end

