-- ==== Sys2Proof/Machine/HomeEvents.lean ====
section
/-! DEFINITION. Events at the homes and in the caches: swap-out and restore (R40, R152, R169, R176, R471), page walks and the
host's answers (R376, R377), fills and renewals (R398, R410), logical time and epochs (R408, R415), safelight (R416), the end
of a holding (R417), the host's accesses and snoops (R418, R433, R434). -/

namespace Sys2Proof.Machine

/-! ## Swap-out and restore -/

/-- The destinations that the instruction a strand waits in will fill. -/
def Strand.waitKeys (st : Strand) : List Nat :=
  match st.waiting with
  | .wait slot => (match kvFind st.log slot with
      | some e => destKeysAt e.raw e.dnum
      | none => [])
  | .acq _ _ d => [keyS d]
  | .join d _ => [keyS d, keyS (d + 1)]
  | _ => []

/-- No producer is outstanding but the instruction that the strand waits in (R40). -/
def Strand.quiet (st : Strand) : Bool :=
  st.fills.isEmpty && st.emptyPreds.isEmpty && st.empties.all (fun k => st.waitKeys.contains k)

/-- The strand waits in WAIT, ACQ or JOIN. -/
def Strand.mayLeave (st : Strand) : Bool :=
  match st.waiting with
  | .wait _ => true
  | .acq _ _ _ => true
  | .join _ _ => true
  | _ => false

/-- A request for n strands lacks slots or register granules of a quadrant, and nothing else on the core. -/
def State.lacksSlot (s : State) (core quad n allot tiles rows : Nat) : Bool :=
  let (t, r) := s.coreLoad core
  let share := shareOf n ((quad + 4 - s.leastQuad core) % 4)
  let (k, g) := s.quadLoad core quad
  decide (t + tiles ≤ 2048) && decide (r + rows ≤ 512) && decide (share ≠ 0)
    && (decide (16 < k + share) || decide (64 < g + share * (allot / 8)))

/-- A residency request of a higher priority needs a slot of a quadrant (R152, R169): a formed strand of the core, or a next tile
that fits nowhere; its pool has room. -/
def State.slotNeeded (s : State) (core quad prio : Nat) : Bool :=
  (s.core core).bins.any (fun b => match b.2.formed with
    | some f => decide (prio < (s.region f.1.rid).rcb.prio) && s.poolRoom (s.region f.1.rid).pool 1 f.1.tiles 0
        && s.lacksSlot core quad 1 f.1.allot f.1.tiles 0
    | none => false)
  || (s.waitingRegions (dieOf core)).any (fun rid =>
        let r := s.region rid
        decide (prio < r.rcb.prio) && (s.roomCore rid).isNone && s.poolRoom r.pool r.rcb.nstr r.rcb.tiles r.rcb.rows
          && (homeCores (dieOf core) (r.rcb.home r.nextt).2).contains core
          && s.lacksSlot core quad r.rcb.nstr r.rcb.allot r.rcb.tiles r.rcb.rows)

/-- A strand has waited long enough to be swapped out: 16 µs in WAIT or ACQ (R169, R176), longer than that in JOIN (R152). -/
def State.waitedLong (s : State) (st : Strand) : Bool :=
  match st.waiting with
  | .join _ _ => decide (st.waitSince + 16000 * 47 < s.time)
  | _ => decide (st.waitSince + 16000 * 47 ≤ s.time)

/-- The strand is to be swapped out: it has waited long enough, or its slot is needed. -/
def State.leaves (s : State) (sid : Nat) : Bool :=
  let st := s.strand sid
  st.life == .resident && st.mayLeave && st.quiet && !st.hostHeld && st.trap.isNone && st.awaiting.isNone
    && (s.waitedLong st || s.slotNeeded st.core st.quad (s.regionOf st).rcb.prio)

/-- n bytes that the manual leaves open. -/
def State.freeBytes (s : State) (n : Nat) : List Byte × State :=
  ((nats ((n + 7) / 8)).flatMap (fun i => leBytes 8 (Config.freeValue (s.free + i)).toNat) |>.take n,
   { s with free := s.free + (n + 7) / 8 })

/-- The rest of a spill record, after the log image: the manual does not lay it out, so its bytes are free values (log 28). -/
def State.spill (s : State) (core pa : Nat) : State :=
  let (bs, s) := s.freeBytes 65024
  let at_ := pa + 512
  forEach (linesOf at_ 65024) { s.unseenWrite at_ 65024 with mem := Memory.splice s.mem at_ bs (cellsOf at_ bs) } (fun s line =>
    if isHbm (line * 128) then (s.llcWrite line true (s.lineBytes line)).stampWrite line (some core) else s)

/-- SWAP_OUT: the strand's leases end, its record is written, and its slot is free. -/
def execSwapOut (sid : Nat) (s : State) : Res :=
  if !s.leaves sid then .next s
  else
    let st := s.strand sid
    let va := s.frameVa st
    match s.access (s.who sid) va needW 2 with
    | (.wait, s) => .next s
    | (.fault c, s) => .next (s.terminate st.rid 6 c 0 (va + 512))
    | (.hit pa _, s) =>
      if isWindow pa then .next (s.terminate st.rid 6 clsProt 0 (va + 512))
      else match (nats 1016).find? (fun i => s.poisoned (pa + 512 + 64 * i) 64) with
        | some i => .next (s.terminate st.rid 6 clsUncorr 0 (va + 512 + 64 * i))
        | none =>
          if (linesOf (pa + 512) 65024).any (fun l => s.goPending l || s.writeBlocked l (some sid) (some st.core) false false) then
            .next (forEach (linesOf (pa + 512) 65024) s (fun s l => s.noteBlocked l (some st.core)))
          else
            let s := forEach st.leases s (fun s line => (s.joinLease sid line s.seq).endLease sid line)
            .next (((s.spill st.core pa).modStrand sid (fun st => { st with life := .swapped })).pushPlacement)

/-- The quadrant of a core that has room for a strand, with the fewest strands. -/
def State.quadFor (s : State) (core allot : Nat) : Option Nat :=
  let fits (q : Nat) : Bool :=
    let (k, g) := s.quadLoad core q
    decide (k < 16) && decide (g + allot / 8 ≤ 64)
  (nats 4).foldl (fun b q =>
    if !fits q then b
    else match b with
      | none => some q
      | some p => if (s.quadLoad core q).1 < (s.quadLoad core p).1 then some q else some p) none

/-- STRAND_RESTORE: once there is room on its cohort's core the strand is resident again, and re-issues a JOIN. The JOIN keeps the
deadline that its timeout had when it first issued: the manual does not say whether the timeout starts anew (DESIGN CHOICE,
log 19). -/
def execStrandRestore (sid : Nat) (s : State) : Res :=
  let st := s.strand sid
  if st.life ≠ .swapped then .next s
  else match s.quadFor st.core st.allot with
    | none => .next s
    | some q =>
      let s := s.wake st.core
      let s := s.setStrand sid { st with life := .resident, quad := q, slot := s.slotFor st.core q, waitSince := s.time,
                                         readySince := none }
      .next s.joinWake

/-! ## Page walks (R376, R377) -/

/-- PAGE_WALK: a die-TLB miss of a 64 KiB page is walked, and a leaf is entered. -/
def execPageWalk (die asid vpage : Nat) (s : State) : Res :=
  let va := vpage * 65536
  if s.hostMode 0 || 2 ^ 56 ≤ va || 2 ≤ die || (kvGet [] s.xlate.dieTlb die).any (fun e => e.serves asid va) then .next s
  else match s.walk die asid va with
    | (.leaf pte size, s) => .next (s.enterLeaf die none asid va pte size)
    | (_, s) => .next s

/-- HOST_TRANSLATION_ANSWER: the host answers what a page was asked for with a leaf and its page size, which enters the die TLB and
the cluster TLB of each party that asked (R378), or with none; a malformed leaf is the translation fault too. -/
def execHostTranslationAnswer (die asid vpage : Nat) (leaf : Option (DWord × Nat)) (s : State) : Res :=
  let va := vpage * 65536
  let mine (q : XAsk) : Bool := q.die == die && q.asid == asid && q.page == va
  let qs := s.xlate.requests.filter mine
  if qs = [] then .next s
  else
    let s := { s with xlate := { s.xlate with requests := s.xlate.requests.filter (fun q => !mine q) } }
    let refused (s : State) : State := { s with xlate := { s.xlate with
      nones := s.xlate.nones.filter (fun n => decide (s.cycle / 64 ≤ n.2 + 1)) ++ qs.map (fun q => (q, s.cycle / 64)) } }
    match leaf with
    | some (pte, size) =>
      if [2 ^ 30, 2 ^ 21, 2 ^ 16].contains size && leafOk pte.toNat size then
        .next (forEach qs s (fun s q => s.enterLeaf die (some (clusterOf q.core)) asid va pte.toNat size))
      else .next (refused s)
    | none => .next (refused s)

/-! ## Fills and renewals -/

/-- LLC_FILL (R398). -/
def execLlcFill (line : Nat) (s : State) : Res := .next (if isHbm (line * 128) then s.llcRead line else s)

/-- Bring a line into a core's cache, when its address leads to memory that satisfies a test. -/
def State.bring (s : State) (core cache asid vline : Nat) (p : Nat → Bool) : State :=
  let w : Who := ⟨core, none, asid, true⟩
  if cache = 6 ∨ 8 ≤ cache ∨ 192 ≤ core then s
  else match s.access w (vline * 128) needR 0 with
    | (.hit pa _, s) => if p pa then (s.ensure w cache (vline * 128) (2 ^ 128 - 1) needR 0).2 else s
    | (_, s) => s

/-- COPY_RENEWAL (R410): the home renews a core's timed copy, or fills it. -/
def execCopyRenewal (core cache asid vline : Nat) (s : State) : Res := .next (s.bring core cache asid vline isHbm)

/-- HOST_SHARED_FILL (R418): a host-memory line arrives as a shared copy. -/
def execHostSharedFill (core cache asid vline : Nat) (s : State) : Res := .next (s.bring core cache asid vline isHostMem)

/-! ## Logical time and epochs -/

/-- LT_TICK (R408): by 1 every 16 cycles; a tick that would reach 2^31 has the epoch flip first. -/
def execLtTick (core : Nat) (s : State) : Res :=
  let c := s.core core
  if s.cycle < c.tickAt + 16 then .next s
  else if wouldFlip (c.lt + 1) then .next (s.push .epochFlip)
  else .next (s.setCore core { c with lt := c.lt + 1, tickAt := c.tickAt + 16 })

/-- A flip's write-back of a core's dirty bytes (R415): false when the host must first give up a line. -/
def State.flipBack (s : State) (core : Nat) : Bool × State :=
  let ls := dedup [] (((s.core core).copies.filter (fun c => c.dirty != 0)).map Copy.pline)
  forEach ls (true, s) (fun (ok, s) line =>
    if isHbm (line * 128) then
      (match s.l1Of core line with
        | none => (ok, s)
        | some c =>
          if s.inFilter line then (false, s.noteBlocked line none)
          else
            let (ws, s) := s.sift c (dirtyCells c)
            (ok, (s.setCopy core c.cleaned).homeWrite ws (some core)))
    else
      let (d, s) := s.writeBack core line
      (ok && d, s))

/-- Steps 4 and 5 of a flip: every tag has the new epoch, every stamp and every core's logical time are 0 in it, and the copies of awake cores
answer no read again; those in safelight are judged at their wake (R416). -/
def State.newEpoch (s : State) : State :=
  let e := (s.pkg.epoch + 1) % 4
  let stamps := s.homes.stamps.filterMap (fun (p : Nat × Stamp) =>
    let x : Stamp := { p.2 with wts := 0, rts := 0, epoch := e }
    if x = Stamp.zero then none else some (p.1, x))
  let stale (c : Core) : Core :=
    { c with lt := 0, acqts := 0, tickAt := s.cycle, cq := c.cq.map (fun (e : CCmd) => { e with wts := 0 }),
             copies := if c.snap.isSome then c.copies
               else c.copies.map (fun x => if x.hostMem then x else { x with epoch := noEpoch }) }
  { s with homes := { s.homes with stamps := stamps,
                                   tags := s.homes.tags.map (fun (p : Nat × Option Tag) => (p.1, p.2.map (fun t => { t with epoch := e }))) },
           cores := s.cores.map (fun (p : Nat × Core) => (p.1, stale p.2)),
           pending := s.pending.filter (· != .epochFlip),
           pkg := { s.pkg with epoch := e, flips := s.pkg.flips + 1, flipCycle := s.cycle, flipping := false } }

/-- EPOCH_FLIP (R415): it waits for every LEASE to end, writes every dirty byte back, and begins the next epoch. -/
def execEpochFlip (s : State) : Res :=
  let s := { s with pkg := { s.pkg with flipping := true } }
  if s.homes.holdings.any (fun h => h.2.isSome) then .next s
  else
    let (ok, s) := forEach (s.cores.map Prod.fst) (true, s) (fun (ok, s) c =>
      let (d, s) := s.flipBack c
      (ok && d, s))
    .next (if ok then s.newEpoch.flushDev else s)

/-! ## Safelight -/

/-- A core holds no strand and runs no command. -/
def State.coreIdle (s : State) (core : Nat) : Bool :=
  !s.allStrands.any (fun p => p.2.core == core && p.2.holdsSlot) && (s.core core).mq.isEmpty && (s.core core).cq.isEmpty

/-- SAFELIGHT_ENTRY (R416): power management gates an idle core. -/
def execSafelightEntry (core : Nat) (s : State) : Res :=
  if s.coreIdle core && (s.core core).snap.isNone && decide (core < 192) then
    .next (s.modCore core (fun c => { c with snap := some s.pkg.flips }))
  else .next s

/-- SAFELIGHT_WAKE (R416). -/
def execSafelightWake (core : Nat) (s : State) : Res := .next (s.wake core)

/-! ## The end of a holding -/

/-- HOLDING_END_MESSAGE (R417): the first message of a holding is performed as one write; one of an older version is
cancelled. -/
def execHoldingEndMessage (core line ver : Nat) (bytes : List (Nat × Byte)) (s : State) : Res :=
  match s.holding line with
  | none => .next s
  | some h =>
    if h.core ≠ core ∨ h.ver ≠ ver then .next s
    else if isHbm (line * 128) && bytes != [] && (s.inFilter line || (wouldFlip (s.nextWts line (some core)) && !s.pkg.flipping)) then
      .next (s.noteBlocked line (some core))
    else
      let ws := bytes.filter (fun w => w.1 / 128 == line)
      let (ws, s) := match s.l1Of core line with
        | some c =>
          let (ws, s) := s.sift c ws
          (ws, s.setCopy core c.cleaned)
        | none => (ws.filter (fun w => !s.isProtected w.1), s)
      let s := { s with homes := { s.homes with holdings := kvSet none s.homes.holdings line none } }
      let s := if ws = [] then s
        else if isHbm (line * 128) then s.homeWrite ws (some core)
        else { s.push .hostGoReceipt with homes := { s.homes with goQueue := s.homes.goQueue ++ [(core, ws)] } }
      let s := (s.bumpVer line).flushDev
      .next (if s.flipHold then s.push .epochFlip else s)

/-! ## The host -/

/-- A snoop of a host line must wait: for a lease, or for writes still on their way to the host. -/
def State.snoopWaits (s : State) (line : Nat) : Bool := (s.holding line).isSome || s.goPending line

/-- The device's copies of a host line go, their dirty bytes first. -/
def State.snoop (s : State) (line : Nat) : State :=
  forEach (s.cores.map Prod.fst) s (fun s c =>
    let s := match s.l1Of c line with
      | some x => if x.dirty = 0 then s else (s.setCopy c x.cleaned).homeWrite (dirtyCells x) (some c)
      | none => s
    s.dropCopies c (fun x => x.pline == line))

/-- HOST_SNOOP (R418). -/
def execHostSnoop (line : Nat) (s : State) : Res :=
  .next (if !isHostMem (line * 128) || s.snoopWaits line then s else s.snoop line)

/-- The host takes a copy of a line of HBM: it enters the slice's snoop filter of 8,192 lines, the least recently entered
leaving first (R418). False when that one must first be back-invalidated. -/
def State.enterFilter (s : State) (line : Nat) : Bool × State :=
  let k := sliceOf line
  let l := kvGet [] s.homes.filter k
  if l.contains line then (true, s)
  else if 8192 ≤ l.length then
    let old := l.getLastD line
    (false, if s.homes.snooped.contains old then s else { s with homes := { s.homes with snooped := old :: s.homes.snooped } })
  else (true, { s with homes := { s.homes with filter := kvSet [] s.homes.filter k (line :: l) } })

/-- A host read of HBM is performed at the home slice, line by line, each as soon as nothing stands before it there; one of a
poisoned half writes an error record (R418, R422). -/
def State.hostLoad (s : State) (addr len : Nat) : State :=
  forEach ((linesOf addr (max 1 len)).filter (fun l => isHbm (l * 128))) s (fun s line =>
    let lo := max addr (line * 128)
    let n := min (addr + max 1 len) (line * 128 + 128) - lo
    if s.homeWaits line none false then s.park (.hostRead lo n)
    else
      let (ok, s) := (s.llcRead line).enterFilter line
      if !ok then s.park (.hostRead lo n)
      else match [2 * line, 2 * line + 1].find? (fun h => overlaps (h * 64) 64 lo n && s.poisoned (h * 64) 64) with
        | some h => s.errorRecord none clsUncorr (max lo (h * 64))
        | none => s)

/-- HOST_MEM_READ (R418). -/
def execHostMemRead (addr len : Nat) (s : State) : Res := .next (s.hostLoad addr len)

/-- A host write, performed at its home with logical time 0: package HBM at its home slices, the host's own memory after a
snoop; it waits whole for a lease or an epoch flip, and changes no counter's block. -/
def State.hostStore (s : State) (addr : Nat) (bytes : List Byte) : State :=
  let ws := (cellsOf addr bytes).filter (fun w => (isHbm w.1 || isHostMem w.1) && !s.countsAt w.1)
  let ls := dedup [] (ws.map (fun w => w.1 / 128))
  let waits (l : Nat) : Bool := if isHbm (l * 128) then s.writeBlocked l none none false true else s.snoopWaits l
  if ls.any waits then
    (forEach ls s (fun s l => if wouldFlip (s.nextWts l none) then s.push .epochFlip else s)).park (.hostWrite addr bytes)
  else forEach ls s (fun s l =>
    (if isHbm (l * 128) then s else s.snoop l).homeWrite (ws.filter (fun w => w.1 / 128 == l)) none)

/-- HOST_MEM_WRITE (R434). -/
def execHostMemWrite (addr : Nat) (bytes : List Byte) (s : State) : Res := .next (s.hostStore addr bytes)

/-- HOST_GO_RECEIPT (R434): the oldest device write to host memory is performed. -/
def execHostGoReceipt (s : State) : Res :=
  match s.homes.goQueue with
  | [] => .next s
  | (core, ws) :: t =>
    let s := { s with homes := { s.homes with goQueue := t } }
    let s := (if ws = [] then s else s.homeWrite ws (some core)).flushDev
    .next (if t = [] then s else s.push .hostGoReceipt)

/-- The host gives up a line with its dirty bytes, and what waits for it may go on; where their write would flip the epoch, the flip
begins first (R415). -/
def State.hostReply (s : State) (line : Nat) (bytes : List (Nat × Byte)) : State :=
  if !s.homes.snooped.contains line then s
  else
    let k := sliceOf line
    let ws := bytes.filter (fun w => w.1 / 128 == line && !s.countsAt w.1)
    if ws != [] && wouldFlip (s.nextWts line none) && !s.pkg.flipping then (s.push .epochFlip).park (.reply line bytes)
    else
      let s := if ws = [] then s else s.homeWrite ws none
      { s with homes := { s.homes with
        snooped := s.homes.snooped.filter (· != line),
        filter := kvSet [] s.homes.filter k ((kvGet [] s.homes.filter k).filter (· != line)) } }.flushDev

/-- BISNP_REPLY (R418). -/
def execBisnpReply (line : Nat) (bytes : List (Nat × Byte)) (s : State) : Res := .next (s.hostReply line bytes)

/-- MGMT_WINDOW_ACCESS (R433): as a CSRR or CSRW by a system-region strand on the die; what a write may not change it
leaves, and a number that names no register reads 0. The answer to a read goes to the host. -/
def execMgmtWindowAccess (die csr : Nat) (write : Option DWord) (s : State) : Res :=
  match write with
  | some x => .next (s.privWrite (.host die) csr x.toNat)
  | none =>
    let (x, s) := if privListed csr then s.privTake (.host die) csr else (0, s)
    .next { s with pkg := { s.pkg with answer := x } }

end Sys2Proof.Machine
end

