-- ==== Sys2Proof/Machine/Fabric.lean ====
section
/-! DEFINITION. The Lenoth fabric (R436 to R446): the link with its retry, accesses by peers and their completions,
contributions, deliveries and rebuilds of multicast-reduce groups, the boundary clock. The layouts of a flit's payload are the
model's own (log 25). -/

namespace Sys2Proof.Machine

/-! ## The link (R437) -/

/-- The 8-byte word i of a flit's payload. -/
def flitWord (f : Flit) (i : Nat) : Nat := ofLe ((f.payload.drop (8 * i)).take 8)

/-- Send an ACK or a NAK by a port: it takes no sequence number and is not kept for replay. -/
def State.sendLink (s : State) (i kind peer : Nat) : State :=
  let p := s.port i
  let f : Flit := { port := i, crc := 0, tstamp := s.ns % 2 ^ 48, seq := p.txSeq, ack := (p.rxSeq + 4095) % 4096,
                    kind := kind, dest := peer, src := Config.peerId.toNat, gen := 0, addr := 0, payload := [] }
  let f := flitSealed f
  { s with fabric := { s.fabric with sent := s.fabric.sent ++ [f] } }

/-- The NAKs since the last progress that were sent in the last 10 µs. -/
def State.recentNaks (s : State) (i : Nat) : List Nat := (s.port i).naks.filter (fun t => decide (s.ns ≤ t + 10000))

/-- A port answers with a NAK; the sixteenth in 10 µs without progress makes it retrain. -/
def State.sendNak (s : State) (i peer : Nat) : State :=
  let ts := s.ns :: s.recentNaks i
  let s := (s.setPort i { s.port i with naks := ts }).sendLink i 0x31 peer
  if 16 ≤ ts.length then s.push (.portRetrain i) else s

/-- The flits that an acknowledged sequence number leaves in the replay buffer. -/
def afterAck (l : List Flit) (ack : Nat) : List Flit :=
  if l.any (fun f => f.seq == ack) then (l.dropWhile (fun f => f.seq != ack)).drop 1 else l

/-- A flit acknowledges those up to its ACK, and flits that wait for their room are sent. -/
def State.acked (s : State) (i ack : Nat) : State :=
  let p := s.port i
  (s.setPort i { p with replay := afterAck p.replay ack }).flushOut

/-- The flit was sent more than 250,000 ns before this device's time, modulo 2^48. -/
def State.tooOld (s : State) (f : Flit) : Bool :=
  let d := (s.ns + 2 ^ 48 - f.tstamp % 2 ^ 48) % 2 ^ 48
  decide (250000 < d) && decide (d < 2 ^ 47)

/-- What a flit acknowledges, where it is not too old to act on. -/
def State.takeAck (s : State) (f : Flit) : State := if s.tooOld f then s else s.acked f.port f.ack

/-- A flit arrives: true when it is passed upward, and is not too old to act on. -/
def State.receive (s : State) (f : Flit) : Bool × State :=
  let i := f.port
  if 12 ≤ i then (false, s)
  else if !flitCrcOk f then (false, s.sendNak i f.src)
  else
    let s := s.setPort i { s.port i with heard := f.src }
    if f.kind = 0x30 ∨ f.kind = 0x31 then (!s.tooOld f, s.takeAck f)
    else if f.seq ≠ (s.port i).rxSeq then (false, s.sendNak i f.src)
    else
      let s := s.takeAck f
      let p := s.port i
      let s := (s.setPort i { p with rxSeq := (p.rxSeq + 1) % 4096, naks := [] }).sendLink i 0x30 f.src
      (!s.tooOld f, s)

/-- Act on a flit of one type once the link passes it upward. -/
def State.passUp (s : State) (f : Flit) (kind : Nat) (act : State → State) : State :=
  let (ok, s) := s.receive f
  if ok && f.kind == kind then act s else s

/-! ## Accesses by a peer (R438) -/

/-- Answer a peer's request. -/
def State.complete (s : State) (f : Flit) (failed : Bool) (bs : List Byte) : State :=
  s.sendFlit 3 f.src 0 f.addr (leBytes 8 ((flitWord f 2)) ++ leBytes 8 (b2n failed) ++ bs)

/-- The range of a peer's request lies in package HBM and is no longer than a flit carries. -/
def flitInHbm (f : Flit) : Bool := 1 ≤ (flitWord f 1) && (flitWord f 1) ≤ 200 && isHbm ((flitWord f 0)) && isHbm ((flitWord f 0) + (flitWord f 1) - 1)

/-- A read flit is performed at the home. -/
def State.peerRead (s : State) (f : Flit) : State :=
  let pa := (flitWord f 0)
  let n := (flitWord f 1)
  if s.portBusy f.src then s.park (.flit f)
  else if !(flitInHbm f) then s.complete f true []
  else if (linesOf pa n).any (fun l => s.homeWaits l none false) then s.park (.flit f)
  else
    let s := forEach (linesOf pa n) s State.llcRead
    if s.poisoned pa n then (s.errorRecord none clsUncorr pa).complete f true []
    else s.complete f false (s.bytesAt pa n)

/-- A peer's atomic is performed at the home, in one step (R438); the payload names its function and type (log 25). -/
def State.peerAtomic (s : State) (f : Flit) : State :=
  let pa := flitWord f 0
  let n := flitWord f 1 % 2 ^ 32
  let k := flitWord f 1 / 2 ^ 32 - 1
  if s.portBusy f.src then s.park (.flit f)
  else if !(n == 4 || n == 8) || pa % n != 0 || !isHbm pa || s.isProtected pa then s.complete f true []
  else if s.writeBlocked (pa / 128) none none true false then (s.noteBlocked (pa / 128) none).park (.flit f)
  else
    let s := s.llcRead (pa / 128)
    if s.poisoned pa n then (s.errorRecord none clsUncorr pa).complete f true []
    else
      let old := s.numAt pa n
      let new := atomNew (k % 8) (k / 8 % 16) old (flitWord f 3 % 2 ^ (8 * n)) (flitWord f 4 % 2 ^ (8 * n))
      (s.homeWrite (cellsOf pa (leBytes n new)) none).complete f false (leBytes n old)

/-- A write flit is performed at the home. -/
def State.peerWrite (s : State) (f : Flit) : State :=
  let pa := (flitWord f 0)
  let n := (flitWord f 1)
  let ws := cellsOf pa ((f.payload.drop 24).take n)
  if 2 ^ 32 ≤ n then s.peerAtomic f
  else if s.portBusy f.src then s.park (.flit f)
  else if !(flitInHbm f) || ws.length != n || ws.any (fun w => s.isProtected w.1) then s.complete f true []
  else if (linesOf pa n).any (fun l => s.writeBlocked l none none false false) then
    (forEach (linesOf pa n) s (fun s l => s.noteBlocked l none)).park (.flit f)
  else
    (forEach (linesOf pa n) s (fun s l => s.homeWrite (ws.filter (fun w => w.1 / 128 == l)) none)).complete f false []

/-- FLIT_READ. -/
def execFlitRead (f : Flit) (s : State) : Res := .next (s.passUp f 1 (fun s => s.peerRead f))
/-- FLIT_WRITE. -/
def execFlitWrite (f : Flit) (s : State) : Res := .next (s.passUp f 2 (fun s => s.peerWrite f))

/-- What a peer's answer makes of an access: a WAIT whose condition does not hold yet reads again. -/
def Acc.answered (a : Acc) (r : Raw) (x : Nat) : Acc :=
  if r.op = 0x9D#8 then
    (if waitHolds r x a.data then { a with status := 1, got := x, data2 := 2 ^ 50 } else { a with status := 0 })
  else { a with status := 1, got := x }

/-- What follows a strong access, an atomic or a read of a WAIT that a peer has answered: the core's ACQTS takes the latest time (R410,
log 51), and the negative its entry (R461). -/
def State.peerNoted (s : State) (q : PeerReq) (e : LogEnt) (a : Acc) (x : Nat) : State :=
  let op := e.raw.op
  let s := if op = 0x91#8 ∨ (op = 0x90#8 ∧ e.raw.kind ≠ 1) then s else s.noteTime (s.strand q.sid).core s.topTime
  if op = 0x99#8 then s.negativeAt q.sid e.seq 3 a.va (2 ^ 50) x
  else if op = 0x9D#8 ∨ e.raw.kind ≠ 1 then s
  else s.negativeAt q.sid e.seq (if q.write then 5 else 4) a.va (2 ^ 50) (if q.write then a.data else x)

/-- The answer of a peer reaches the thread's access of a log entry: its value, or the protection fault. -/
def State.peerAnswer (s : State) (q : PeerReq) (failed : Bool) (x : Nat) : State :=
  match s.entry q.sid q.slot with
  | none => s
  | some e =>
    match e.accs.find? (fun a => a.thread == q.thread && a.status == 5) with
    | none => s
    | some a =>
      let (a', s) := if failed then s.failed q.sid a clsProt else (a.answered e.raw x, s.peerNoted q e a x)
      let put (b : Acc) : Acc := if b.thread = q.thread ∧ b.status = 5 then a' else b
      ((s.putEntry q.sid q.slot ({ e with accs := e.accs.map put }).refresh).redo q.sid q.slot).entryFailed q.sid q.slot

/-- The answer of a peer reaches a matrix fill (R438): its bytes, or a protection fault that holds its log entry (R286). -/
def State.peerFills (s : State) (core ident : Nat) (failed : Bool) (bs : List Byte) : State :=
  match s.mEntry core ident with
  | none => s
  | some e =>
    let put (x : MEnt) (s : State) : State :=
      s.modCore core (fun c => { c with mq := c.mq.map (fun y => if y.ident = ident then x else y) })
    if failed then (put { e with stage := 2 } s).fillHeld core { e with stage := 2 } clsProt
    else (put { e with inbox := some bs } s).push (.matrixEntryStart core ident)

/-- A peer's answer for a unit of work on rows (R340, R438): the unit meets it when it runs again. -/
def State.peerTold (s : State) (key : Nat) (failed : Bool) (bs : List Byte) : State :=
  s.setAnswers key (s.answers key ++ [if failed then none else some bs])

/-- The answer of a peer reaches a command of an engine, or a matrix fill. -/
def State.peerServes (s : State) (core ident : Nat) (failed : Bool) (bs : List Byte) : State :=
  match s.command core ident with
  | none => s.peerFills core ident failed bs
  | some e =>
    if 0xE5 ≤ e.raw.op.toNat then (s.peerTold (4 + ident) failed bs).push (.copyCommandStart core ident)
    else if failed then s.cmdFault core e clsProt e.dval
    else (s.putCommand core { e with inbox := some bs }).push (.copyCommandStart core ident)

/-- A completion answers the request that it names. -/
def State.peerDone (s : State) (f : Flit) : State :=
  match s.fabric.peers.find? (fun q => q.ident == (flitWord f 0)) with
  | none => s
  | some q =>
    let s := { s with fabric := { s.fabric with peers := s.fabric.peers.filter (fun r => r.ident != q.ident) } }
    let failed := (flitWord f 1) != 0
    let bs := (f.payload.drop 16).take q.size
    if q.slot < 8 ∨ 256 ≤ q.slot then s.peerAnswer q failed (ofLe (bs.take 8))
    else if q.slot < 200 then s.peerServes (q.slot - 8) q.sid failed bs
    else (s.peerTold q.sid failed bs).push (.dispatchRecord (q.sid / 2) (q.sid % 2))

/-- FLIT_COMPLETION. -/
def execFlitCompletion (f : Flit) (s : State) : Res := .next (s.passUp f 3 (fun s => s.peerDone f))

/-! ## Multicast-reduce (R440 to R444) -/

/-- The group and the window that a contribution or a delivery names (log 25). -/
def flitGroup (f : Flit) : Nat := flitWord f 0 % 4096
def flitWindow (f : Flit) : Nat := flitWord f 0 / 2 ^ 16 % 1024

/-- The flit belongs to the group's current generation (R444). -/
def State.currentGen (s : State) (f : Flit) : Bool :=
  let x := s.grp (flitGroup f)
  bit x 0 && grpGen x == f.gen % 65536

/-- The contribution of a peer is recorded for its line. -/
def State.peerContributes (s : State) (f : Flit) : State :=
  let g := flitGroup f
  let x := s.grp g
  let rank := (flitWord f 1)
  let n := if grpOp x = 3 then 8 else 4
  let off := f.addr % 2 ^ 40
  if !s.currentGen f || !(grpRanks x).contains rank || rank == grpRank x || off % n != 0 then s
  else s.contribute g (flitWindow f) (off / 128) rank (cellsOf (off % 128) ((f.payload.drop 16).take n))

/-- FLIT_CONTRIBUTION. -/
def execFlitContribution (f : Flit) (s : State) : Res := .next (s.passUp f 0x10 (fun s => s.peerContributes f))

/-- One atomic step at a group's completion word in this device's HBM: its low half goes up by lo, its high half by hi. Its wts lies at
or above that of every write performed before it (R183, R442). -/
def State.csigAdd (s : State) (x lo hi : Nat) : State :=
  let pa := grpCsig x / 8 * 8
  if !isHbm pa then s
  else
    let y := s.numAt pa 8
    s.homeWriteFrom (cellsOf pa (leBytes 8 ((y % 2 ^ 32 + lo) % 2 ^ 32 + (y / 2 ^ 32 + hi) % 2 ^ 32 * 2 ^ 32))) s.topTime none

/-- Lines that are to be written, and a completion word, are free to be. -/
def State.deliverable (s : State) (ls : List Nat) (x : Nat) : Bool :=
  !(ls.any (fun l => s.writeBlocked l none none false false) || s.devWaits (grpCsig x / 128))

/-- The contributions to a line that has been delivered are kept no longer (R443): the oldest complete record of it goes, or without
one the oldest. -/
def State.dropLine (s : State) (g w line : Nat) : State :=
  let ls := s.fabric.lines
  let isIt (l : McrLine) : Bool := l.isOf g w line
  let rest := if ls.any (fun l => isIt l && l.full) then ls.eraseP (fun l => isIt l && l.full) else ls.eraseP isIt
  { s with fabric := { s.fabric with lines := rest } }

/-- A combined line is written to its place in this device's HBM, then the completion word counts it; the contributions to the
line are kept no longer (R442, R443). -/
def State.deliver (s : State) (f : Flit) : State :=
  let g := flitGroup f
  let x := s.grp g
  let w := flitWindow f
  let off := f.addr % 2 ^ 40 / 128 * 128
  let pa := winBase (s.winWord w) + off
  let ws := cellsOf pa ((f.payload.drop 8).take 128)
  if !s.currentGen f || !isHbm pa || !isHbm (pa + 127) then s
  else if !s.deliverable (linesOf pa 128) x then
    (forEach (grpCsig x / 128 :: linesOf pa 128) s (fun s l => s.noteBlocked l none)).park (.flit f)
  else
    let s := forEach (linesOf pa 128) s (fun s l => s.homeWrite (ws.filter (fun c => c.1 / 128 == l)) none)
    (s.csigAdd x 1 0).dropLine g w (off / 128)

/-- A line that this device combined itself is complete, with these bytes. -/
def State.combined (s : State) (f : Flit) : Bool :=
  let x := s.grp (flitGroup f)
  s.fabric.lines.any (fun l => l.isOf (flitGroup f) (flitWindow f) (f.addr % 2 ^ 40 / 128)
    && l.full && l.combine (grpOp x) (grpRanks x) == f.payload.drop 8)

/-- FLIT_DELIVERY: a line combined here comes by no port; one from the switch or a member comes by it. -/
def execFlitDelivery (f : Flit) (s : State) : Res :=
  .next (if 12 ≤ f.port && s.combined f then s.deliver f else s.passUp f 0x11 (fun s => s.deliver f))

/-- A parked flit is acted on again, unless it has grown too old: the link has passed it upward before, but for a delivery by this
device itself, which came by no port. -/
def State.flitAgain (s : State) (f : Flit) : State :=
  if f.port < 12 && s.tooOld f then s
  else match f.kind with
  | 1 => s.peerRead f
  | 2 => s.peerWrite f
  | _ => s.deliver f

/-! ## Failure and rebuild (R443) -/

/-- The groups whose entries hold anything. -/
def State.groups (s : State) : List Nat :=
  let base := s.reg 0x9A1 % 2 ^ 52
  dedup [] ((s.mem.filter (fun (c : Nat × Byte) => decide (base ≤ c.1) && decide (c.1 < base + 2 ^ 20))).map
    (fun (c : Nat × Byte) => (c.1 - base) / 256))

/-- The contributions of this device to a line are sent again to the other survivors, under the new generation. -/
def State.resend (s : State) (x : Nat) (l : McrLine) : State :=
  if grpMode x = 1 then s
  else
    let n := if grpOp x = 3 then 8 else 4
    forEach ((grpRanks x).filter (· != grpRank x)) s (fun s r =>
      forEach (nats (128 / n)) s (fun s k =>
        let bs := (nats n).filterMap (fun i => l.byteOf (grpRank x) (k * n + i))
        if bs.length = n then
          s.sendFlit 0x10 (grpMember x r) (grpGen x) (l.line * 128 + k * n)
            (groupPayload l.group l.window ++ leBytes 8 (grpRank x) ++ bs)
        else s))

/-- Rebuild a group without a rank that failed: false when a home must first be free. Contributions of the retired generation
go but for this device's own, which are replayed. -/
def State.rebuild (s : State) (g rank : Nat) : Bool × State :=
  let x := s.grp g
  let at_ := s.grpAt g
  if !bit x 0 || !(grpRanks x).contains rank then (true, s)
  else if !s.deliverable [at_ / 128] x then
    (false, forEach [at_ / 128, grpCsig x / 128] s (fun s l => s.noteBlocked l none))
  else
    let y := setBits (setBits (setBits x 47 32 (grpGen x + 1)) (64 + rank) (64 + rank) 1) 191 128 s.ns
    let s := s.homeWrite (cellsOf at_ (leBytes 64 y)) none
    let s := s.csigAdd x 0 1
    let s := s.vector 4
    let s := { s with fabric := { s.fabric with rebuildAt := kvSet 0 s.fabric.rebuildAt g (s.ns + 64000) } }
    let mine := if grpMode y = 1 then [0, 1] else [grpRank y]
    let ls := s.fabric.lines.filter (fun l => l.group == g)
    let s := { s with fabric := { s.fabric with lines := s.fabric.lines.filter (fun l => l.group != g) } }
    (true, forEach ls s (fun s l =>
      let l := { l with parts := l.parts.filter (fun p => mine.contains p.1 && (grpRanks y).contains p.1) }
      (s.resend y l).putLine none l))

/-- A rebuild of a group takes place once 64 µs have passed since the last; else it waits. -/
def State.rebuildOrWait (s : State) (g rank : Nat) : State :=
  let later (s : State) : State :=
    if s.fabric.rebuilds.contains (g, rank) then s
    else { s with fabric := { s.fabric with rebuilds := s.fabric.rebuilds ++ [(g, rank)] } }
  if s.ns < kvGet 0 s.fabric.rebuildAt g then later s
  else match s.rebuild g rank with
    | (true, s) => s
    | (false, s) => later s

/-- MEMBER_FAILURE: every group that the peer is a surviving member of is rebuilt; this device itself is none of them. -/
def execMemberFailure (peer : Nat) (s : State) : Res :=
  .next (forEach s.groups s (fun s g =>
    let x := s.grp g
    if bit x 0 then
      forEach ((grpRanks x).filter (fun r => r != grpRank x && grpMember x r == peer % 65536)) s (fun s r => s.rebuildOrWait g r)
    else s))

/-- REBUILD_SPACING_END: the rebuilds of a group that waited take place, one in each spacing. -/
def execRebuildSpacingEnd (g : Nat) (s : State) : Res :=
  match s.fabric.rebuilds.find? (fun r => r.1 == g) with
  | none => .next s
  | some r =>
    if s.ns < kvGet 0 s.fabric.rebuildAt g then .next s
    else .next ({ s with fabric := { s.fabric with rebuilds := s.fabric.rebuilds.filter (· != r) } }.rebuildOrWait g r.2)

/-! ## Retry -/

/-- FLIT_ACK. -/
def execFlitAck (f : Flit) (s : State) : Res := .next (s.passUp f 0x30 id)

/-- The sender replays its unacknowledged flits, the oldest first. -/
def State.replay (s : State) (i : Nat) : State :=
  { s with fabric := { s.fabric with sent := s.fabric.sent ++ (s.port i).replay } }

/-- FLIT_NAK. -/
def execFlitNak (f : Flit) (s : State) : Res := .next (s.passUp f 0x31 (fun s => s.replay f.port))

/-- CRC_FAILED_FLIT: a flit that fails its CRC or stands out of order is answered with a NAK, to the peer that the port has last heard. -/
def execCrcFailedFlit (port : Nat) (s : State) : Res := .next (if port < 12 then s.sendNak port (s.port port).heard else s)

/-- PORT_RETRAIN: the retrain counts in the lifetime records, and the unacknowledged flits go again. -/
def execPortRetrain (port : Nat) (s : State) : Res :=
  let p := s.port port
  if p.naks.length < 16 then .next s
  else .next (((s.setPort port { p with naks := [] }).lifeAdd (48 + port) 1).replay port)

/-! ## The boundary clock (R445, R446), with the messages of IEEE 1588-2019 (log 27) -/

/-- The bytes of a PTP message: they begin in ADDR, which holds PTP data (R436), and go on in the payload (DESIGN CHOICE, log 27). -/
def ptpBytes (f : Flit) : List Byte := leBytes 8 f.addr ++ f.payload

/-- A number of n bytes of a message, most significant first. -/
def flitField (f : Flit) (i n : Nat) : Nat :=
  (((ptpBytes f).drop i).take n ++ List.replicate (n - ((ptpBytes f).drop i).length) 0#8).foldl (fun x b => 256 * x + b.toNat) 0

/-- The n bytes of a number, most significant first. -/
def beBytes (n x : Nat) : List Byte := (leBytes n x).reverse

/-- The correction field, in ns. -/
def flitCorrection (f : Flit) : Int := sInt 64 ((flitField f 8 8)) / 65536

/-- The time of a Sync, in ns. -/
def flitOrigin (f : Flit) : Nat := (flitField f 34 6) * 1000000000 + (flitField f 40 4)

/-- This clock's own data set: priority1, class 248, accuracy 0xFE, variance 0xFFFF, priority2, identity, 0 steps. A smaller
number is the better clock. -/
def State.ownSet (s : State) : Nat :=
  (bits (s.reg 0x9B0) 15 8 * 2 ^ 40 + 0xF8FEFFFF * 2 ^ 8 + bits (s.reg 0x9B0) 23 16) * 2 ^ 80 + Config.peerId.toNat * 2 ^ 16

/-- The port with the best master that any port has heard of. -/
def State.bestPort (s : State) : Option (Nat × Nat) :=
  (nats 12).foldl (fun b i =>
    match (s.port i).ptpBest, b with
    | none, _ => b
    | some x, none => some (i, x)
    | some x, some (j, y) => if x < y then some (i, x) else some (j, y)) none

/-- The state that the best master clock algorithm recommends for a port. -/
def State.ptpStateOf (s : State) (i : Nat) : Nat :=
  match s.bestPort with
  | none => 1
  | some (j, x) =>
    if s.ownSet < x then 1
    else if i = j then 2
    else match (s.port i).ptpBest with
      | some y => if y / 2 ^ 16 = x / 2 ^ 16 then 3 else 1
      | none => 1

/-- Decide the states of the ports that have heard of a master or have stopped listening; a change sends vector 5, and SPORT
names the slave port. -/
def State.ptpDecide (s : State) : State :=
  let s := forEach (nats 12) s (fun s i =>
    let p := s.port i
    if p.ptp = 0 ∧ p.ptpBest = none ∧ s.bestPort = none then s
    else
      let n := s.ptpStateOf i
      if n = p.ptp then s else (s.setPort i { p with ptp := n }).vector 5)
  let slave := ((nats 12).find? (fun i => (s.port i).ptp == 2)).getD 15
  s.setReg 0x9B0 (setBits (s.reg 0x9B0) 27 24 slave)

/-- A PTP message of a type, for the domain of this clock: header and body. -/
def State.ptpMessage (s : State) (type : Nat) (body : List Byte) : List Byte :=
  beBytes 1 type ++ beBytes 1 2 ++ beBytes 2 (34 + body.length) ++ beBytes 1 (s.reg 0x9B0 % 256) ++ List.replicate 15 0#8
    ++ beBytes 8 Config.peerId.toNat ++ List.replicate 6 0#8 ++ body

/-- A PTP time stamp. -/
def ptpTime (ns : Nat) : List Byte := beBytes 6 (ns / 1000000000) ++ beBytes 4 (ns % 1000000000)

/-- Send a PTP message by a port that has room for it, to the peer that the port has last heard (log 27). -/
def State.ptpSend (s : State) (i type : Nat) (body : List Byte) : State :=
  let m := s.ptpMessage type body
  if s.portFull i then s else s.sendOn i 0x20 (s.port i).heard 0 (ofLe (m.take 8)) (m.drop 8)

/-- Correct device time by an offset from the master (R446): more than 1 ms forward is stepped, the rest is slewed. -/
def State.correct (s : State) (ofs : Int) : State :=
  if ofs < -1000000 then { s with time := s.time + 47 * ofs.natAbs, pkg := { s.pkg with slew := 0 } }
  else { s with pkg := { s.pkg with slew := -47 * ofs } }

/-- A PTP message of this clock's domain arrives: Sync, Pdelay_Req, Pdelay_Resp, Announce. -/
def State.ptpTake (s : State) (f : Flit) : State :=
  let p := s.port f.port
  if (flitField f 4 1) ≠ s.reg 0x9B0 % 256 then s
  else match (flitField f 0 1) % 16 with
    | 0 =>
      if p.ptp ≠ 2 then s
      else
        let ofs : Int := (s.ns : Int) - (flitOrigin f) - (flitCorrection f) - p.ptpDelay
        let s := s.setReg 0x9B2 (wrapN 64 ofs)
        if s.hostMode 4 || s.pkg.uzoipOff then s else s.correct ofs
    | 2 => s.ptpSend f.port 3 (ptpTime s.ns)
    | 3 => (match p.ptpAsked with
      | some t => s.setPort f.port { p with ptpAsked := none, ptpDelay := (((s.ns : Int) - t - (flitCorrection f)) / 2).toNat }
      | none => s)
    | 11 => (s.setPort f.port { p with ptpBest := some ((flitField f 47 16)) }).ptpDecide
    | _ => s

/-- FLIT_PTP. -/
def execFlitPtp (f : Flit) (s : State) : Res := .next (s.passUp f 0x20 (fun s => s.ptpTake f))

/-- The data set that this clock announces: its own, or its master's one step further. -/
def State.announced (s : State) : Nat :=
  match s.bestPort with
  | some (_, x) => if s.ownSet < x then s.ownSet else x + 1
  | none => s.ownSet

/-- PTP_MESSAGE_TIMER: 0 a Sync is due and 2 an Announce, of a master port; 1 a Pdelay_Req; 3 no Announce has come in time. -/
def execPtpMessageTimer (port kind : Nat) (s : State) : Res :=
  let p := s.port port
  if 12 ≤ port then .next s
  else match kind with
    | 0 => .next (if p.ptp = 1 then s.ptpSend port 0 (ptpTime s.ns) else s)
    | 1 => .next ((s.setPort port { p with ptpAsked := some s.ns }).ptpSend port 2 (ptpTime 0))
    | 2 => .next (if p.ptp = 1 then s.ptpSend port 11 (ptpTime s.ns ++ [0#8, 37#8, 0#8] ++ beBytes 16 s.announced) else s)
    | 3 =>
      let p := { p with ptpBest := none }
      let s := s.setPort port p
      .next (if p.ptp = 0 ∧ s.bestPort = none then ((s.setPort port { p with ptp := 1 }).vector 5).ptpDecide else s.ptpDecide)
    | _ => .next s

end Sys2Proof.Machine
end

