-- ==== Sys2Proof/Machine/Sign.lean ====
section
/-! DEFINITION. SHA-512 and the RSASSA-PSS signature of the package (R457, R458), written out from FIPS 180-4 and RFC 8017 (log 9):
the manual names the algorithms and their parameters. -/

namespace Sys2Proof.Machine

/-! ## SHA-512 -/

/-- Round constants 0 to 19: fraction bits of the cube roots of primes. -/
def shaK0 : List DWord :=
  [0x428A2F98D728AE22, 0x7137449123EF65CD, 0xB5C0FBCFEC4D3B2F, 0xE9B5DBA58189DBBC, 0x3956C25BF348B538,
   0x59F111F1B605D019, 0x923F82A4AF194F9B, 0xAB1C5ED5DA6D8118, 0xD807AA98A3030242, 0x12835B0145706FBE,
   0x243185BE4EE4B28C, 0x550C7DC3D5FFB4E2, 0x72BE5D74F27B896F, 0x80DEB1FE3B1696B1, 0x9BDC06A725C71235,
   0xC19BF174CF692694, 0xE49B69C19EF14AD2, 0xEFBE4786384F25E3, 0x0FC19DC68B8CD5B5, 0x240CA1CC77AC9C65]

/-- Round constants 20 to 39: fraction bits of the cube roots of primes. -/
def shaK1 : List DWord :=
  [0x2DE92C6F592B0275, 0x4A7484AA6EA6E483, 0x5CB0A9DCBD41FBD4, 0x76F988DA831153B5, 0x983E5152EE66DFAB,
   0xA831C66D2DB43210, 0xB00327C898FB213F, 0xBF597FC7BEEF0EE4, 0xC6E00BF33DA88FC2, 0xD5A79147930AA725,
   0x06CA6351E003826F, 0x142929670A0E6E70, 0x27B70A8546D22FFC, 0x2E1B21385C26C926, 0x4D2C6DFC5AC42AED,
   0x53380D139D95B3DF, 0x650A73548BAF63DE, 0x766A0ABB3C77B2A8, 0x81C2C92E47EDAEE6, 0x92722C851482353B]

/-- Round constants 40 to 59: fraction bits of the cube roots of primes. -/
def shaK2 : List DWord :=
  [0xA2BFE8A14CF10364, 0xA81A664BBC423001, 0xC24B8B70D0F89791, 0xC76C51A30654BE30, 0xD192E819D6EF5218,
   0xD69906245565A910, 0xF40E35855771202A, 0x106AA07032BBD1B8, 0x19A4C116B8D2D0C8, 0x1E376C085141AB53,
   0x2748774CDF8EEB99, 0x34B0BCB5E19B48A8, 0x391C0CB3C5C95A63, 0x4ED8AA4AE3418ACB, 0x5B9CCA4F7763E373,
   0x682E6FF3D6B2B8A3, 0x748F82EE5DEFB2FC, 0x78A5636F43172F60, 0x84C87814A1F0AB72, 0x8CC702081A6439EC]

/-- Round constants 60 to 79: fraction bits of the cube roots of primes. -/
def shaK3 : List DWord :=
  [0x90BEFFFA23631E28, 0xA4506CEBDE82BDE9, 0xBEF9A3F7B2C67915, 0xC67178F2E372532B, 0xCA273ECEEA26619C,
   0xD186B8C721C0C207, 0xEADA7DD6CDE0EB1E, 0xF57D4F7FEE6ED178, 0x06F067AA72176FBA, 0x0A637DC5A2C898A6,
   0x113F9804BEF90DAE, 0x1B710B35131C471B, 0x28DB77F523047D84, 0x32CAAB7B40C72493, 0x3C9EBE0A15C9BEBC,
   0x431D67C49C100D4C, 0x4CC5D4BECB3E42B6, 0x597F299CFC657E2A, 0x5FCB6FAB3AD6FAEC, 0x6C44198C4A475817]

/-- The initial hash value: fraction bits of the square roots of primes. -/
def shaInit : List DWord :=
  [0x6A09E667F3BCC908, 0xBB67AE8584CAA73B, 0x3C6EF372FE94F82B, 0xA54FF53A5F1D36F1, 0x510E527FADE682D1,
   0x9B05688C2B3E6C1F, 0x1F83D9ABFB41BD6B, 0x5BE0CD19137E2179]

/-- A 64-bit word at a place of a list of words. -/
def shaAt (l : List DWord) (i : Nat) : DWord := listAt 0#64 l i

/-- One round: the eight working words. -/
def shaRound (v : List DWord) (k w : DWord) : List DWord :=
  let e := shaAt v 4
  let a := shaAt v 0
  let ch := (e &&& shaAt v 5) ^^^ (~~~e &&& shaAt v 6)
  let t1 := shaAt v 7 + (e.rotateRight 14 ^^^ e.rotateRight 18 ^^^ e.rotateRight 41) + ch + k + w
  let maj := (a &&& shaAt v 1) ^^^ (a &&& shaAt v 2) ^^^ (shaAt v 1 &&& shaAt v 2)
  let t2 := (a.rotateRight 28 ^^^ a.rotateRight 34 ^^^ a.rotateRight 39) + maj
  [t1 + t2, a, shaAt v 1, shaAt v 2, shaAt v 3 + t1, e, shaAt v 5, shaAt v 6]

/-- The rounds of the constants that are left; w is the window of sixteen words of the message schedule. -/
def shaRounds (ks w v : List DWord) : List DWord :=
  match ks with
  | [] => v
  | k :: t =>
    let x := shaAt w 1
    let y := shaAt w 14
    let next := (y.rotateRight 19 ^^^ y.rotateRight 61 ^^^ (y >>> 6)) + shaAt w 9
      + (x.rotateRight 1 ^^^ x.rotateRight 8 ^^^ (x >>> 7)) + shaAt w 0
    shaRounds t (w.drop 1 ++ [next]) (shaRound v k (shaAt w 0))

/-- The number that bytes hold, the first byte highest. -/
def ofBe (bs : List Byte) : Nat := bs.foldl (fun x b => 256 * x + b.toNat) 0

/-- n bytes of a number, the highest first. -/
def toBe (n x : Nat) : List Byte := (leBytes n x).reverse

/-- The sixteen words of a block of 128 bytes. -/
def shaWords (bs : List Byte) : List DWord :=
  (nats 16).map (fun i => BitVec.ofNat 64 (ofBe ((bs.drop (8 * i)).take 8)))

/-- Work through n blocks. -/
def shaBlocks (n : Nat) (bs : List Byte) (h : List DWord) : List DWord :=
  match n with
  | 0 => h
  | n + 1 =>
    let v := shaRounds (shaK0 ++ shaK1 ++ shaK2 ++ shaK3) (shaWords bs) h
    shaBlocks n (bs.drop 128) (List.zipWith (· + ·) h v)

/-- SHA-512 of a byte string: 64 bytes. -/
def sha512 (m : List Byte) : List Byte :=
  let p := m ++ [0x80#8] ++ List.replicate ((239 - m.length % 128) % 128) 0#8 ++ toBe 16 (8 * m.length)
  (shaBlocks (p.length / 128) p shaInit).flatMap (fun w => toBe 8 w.toNat)

/-! ## RSASSA-PSS with SHA-512, MGF1-SHA-512 and a 64-byte salt -/

/-- MGF1: n bytes from a seed. -/
def mgf1 (seed : List Byte) (n : Nat) : List Byte :=
  ((nats ((n + 63) / 64)).flatMap (fun i => sha512 (seed ++ toBe 4 i))).take n

/-- The encoded message of 512 bytes. -/
def pssEncode (m salt : List Byte) : List Byte :=
  let h := sha512 (List.replicate 8 0#8 ++ sha512 m ++ salt)
  let db := List.replicate 382 0#8 ++ [1#8] ++ salt
  let x := List.zipWith (· ^^^ ·) db (mgf1 h 447)
  (match x with
    | b :: t => (b &&& 0x7F#8) :: t
    | [] => []) ++ h ++ [0xBC#8]

/-- x to the power of the low n bits of e, modulo m. -/
def powMod (n x e m : Nat) : Nat :=
  match n with
  | 0 => 1 % m
  | n + 1 =>
    let y := powMod n (x * x % m) (e / 2) m
    if e % 2 = 1 then x * y % m else y

/-- The modulus of the identity key, whose words IDKEY reads. -/
def rsaModulus : Nat := (nats 64).foldl (fun x i => x + (Config.idKey i).toNat * 2 ^ (64 * i)) 0

/-- The signature over a message, 512 bytes. -/
def pssSign (m salt : List Byte) : List Byte :=
  toBe 512 (powMod 4096 (ofBe (pssEncode m salt)) Config.idExponent rsaModulus)

end Sys2Proof.Machine
end

