-- ==== Sys2Proof/Machine/Lifetime.lean ====
section
/-! DEFINITION. The package over its life: registers written by the host and by Uzoip (R433, R454 to R456), errors and patrol
scrub (R420 to R423, R448), power (R451 to R453), device reset (R450, R457), attestation (R458), the lifetime record (R459),
contact sheets (R460). -/

namespace Sys2Proof.Machine

/-! ## Soft errors (R420 to R423, R448) -/

/-- The stack that holds an address of package HBM (R420). -/
def stackOf (pa : Nat) : Nat :=
  let o := pa % 2 ^ 38
  pa / 2 ^ 38 % 2 * 4 + (bits o 9 8 ^^^ bits o 17 16 ^^^ bits o 25 24)

/-- Mark a half-line poisoned (R422). -/
def State.poisonHalf (s : State) (half : Nat) : State :=
  if s.homes.poison.contains half then s else { s with homes := { s.homes with poison := half :: s.homes.poison } }

/-- A count that stops at its largest value. -/
def HbmErr.up (x hi lo n : Nat) : Nat := setBits x hi lo (min (bits x hi lo + n) (2 ^ (hi + 1 - lo) - 1))

/-- The error state of a stack is changed (R423). -/
def State.hbmNote (s : State) (stack : Nat) (f : Nat → Nat) : State :=
  let x := BitVec.ofNat 64 (f (kvGet 0#64 s.pkg.hbmErr stack).toNat)
  { s with pkg := { s.pkg with hbmErr := kvSet 0#64 s.pkg.hbmErr stack x } }

/-- An uncorrectable half-line of HBM: its stack counts it, and it is poisoned where the LLC has no good copy. -/
def State.hbmUpset (s : State) (half : Nat) : State :=
  let pa := half * 64
  if !isHbm pa then s
  else
    let k := stackOf pa
    let s := s.hbmNote k (fun x => setBits (HbmErr.up x 31 28 1) 27 0 (bits pa 37 10))
    let s := (s.lifeAdd (32 + k) 1).errorRecord none clsUncorr pa
    if (s.findTag (pa / 128)).isNone then s.poisonHalf half
    else if s.homes.hbmBad.contains half then s
    else { s with homes := { s.homes with hbmBad := half :: s.homes.hbmBad } }

/-- An uncorrectable sector of the LLC: a clean line is fetched again from HBM, a dirty one is poisoned, and so is one that HBM cannot
correct either. -/
def State.llcUpset (s : State) (half : Nat) : State :=
  match s.findTag (half / 2) with
  | none => s
  | some (_, t) =>
    let s := (s.lifeAdd 5 1).errorRecord none clsUncorr (half * 64)
    if t.dirty || s.homes.hbmBad.contains half then s.poisonHalf half else s

/-- An uncorrectable error in a core's data caches: the line's copies go; dirty bytes are written back, and where they lie in the half it
is poisoned. -/
def State.cacheUpset (s : State) (core half : Nat) : State :=
  let line := half / 2
  if !(s.core core).copies.any (fun c => c.pline == line) then s
  else
    let s := (s.lifeAdd 3 1).errorRecord none clsUncorr (half * 64)
    match s.l1Of core line with
    | some c =>
      let struck := c.dirty / 2 ^ (64 * (half % 2)) % 2 ^ 64 ≠ 0
      let s := if c.dirty = 0 then s else (s.setCopy core c.cleaned).homeWrite (dirtyCells c) (some core)
      (if struck then s.poisonHalf half else s).dropCopies core (fun x => x.pline == line)
    | none => s.dropCopies core (fun x => x.pline == line)

/-- A parity error in an instruction cache: the line is fetched again from its home. -/
def State.icacheUpset (s : State) (core line : Nat) : State :=
  if (s.core core).icache.any (fun c => c.pline == line) then
    ((s.lifeAdd 4 1).errorRecord none clsUncorr (line * 128)).modCore core (fun x => { x with icache := x.icache.filter (fun c => c.pline != line) })
  else s

/-- A soft error strikes (R448). -/
def State.upset (s : State) (u : Upset) : State :=
  match u with
  | .reg sid w => s.modStrand sid (fun st => { st with bad := w :: st.bad.filter (· != w) })
  | .spad cid w => s.setCohort cid { s.cohort cid with spadBad := w :: (s.cohort cid).spadBad.filter (· != w) }
  | .acc cid e => s.setCohort cid { s.cohort cid with accBad := e :: (s.cohort cid).accBad.filter (· != e) }
  | .bslice core w => s.modCore core (fun c =>
      { c with weight := { c.weight with bsliceBad := w :: c.weight.bsliceBad.filter (· != w) } })
  | .wstore w => { s with pkg := { s.pkg with wstoreBad := w :: s.pkg.wstoreBad.filter (· != w) } }
  | .tag key second =>
    (match s.tag key with
      | some t => s.setTag key (some (if second then { t with bad2 := true } else { t with bad1 := true }))
      | none => s)
  | .hbm half => s.hbmUpset half
  | .llc half => s.llcUpset half
  | .cache core half => s.cacheUpset core half
  | .icache core line => s.icacheUpset core line
  | .rowck cid row => s.setCohort cid { s.cohort cid with rowckBad := row :: (s.cohort cid).rowckBad.filter (· != row) }
  | .colck core col => s.modCore core (fun c =>
      { c with weight := { c.weight with colckBad := col :: c.weight.colckBad.filter (· != col) } })
  | .corrected k => if 1 ≤ k ∧ k ≤ 9 then s.lifeAdd (96 + k) 1 else s

/-- The number of whole hours of device time. -/
def State.hours (s : State) : Nat := s.ns / 3600000000000

/-- The row of a stack that holds a half-line: 1 KiB of the stack, which lies in 4 KiB of its die (R420, log 29). -/
def rowOf (stack half : Nat) : Nat := stack * 2 ^ 34 + half / 64

/-- A corrected error at a half-line: the stack counts it, and the sixteenth of its row within one hour remaps the row (R421). -/
def State.corrected (s : State) (stack half : Nat) : State :=
  let row := rowOf stack half
  let hour := s.ns :: (kvGet [] s.pkg.rowErr row).filter (fun t => decide (s.ns < t + 3600000000000))
  let s := (s.hbmNote stack (fun x => HbmErr.up x 51 32 1)).lifeAdd (16 + stack) 1
  if hour.length < 16 then { s with pkg := { s.pkg with rowErr := kvSet [] s.pkg.rowErr row hour } }
  else
    let s := (s.hbmNote stack (fun x => HbmErr.up x 57 52 1)).lifeAdd 0x70 1
    { s with pkg := { s.pkg with rowErr := kvSet [] s.pkg.rowErr row [], softRows := row :: s.pkg.softRows.filter (· != row) } }

/-- HBM_PATROL_SCRUB (R421): the stack reads and corrects its lines; what it found is each half-line with whether it could not
be corrected. -/
def execHbmPatrolScrub (stack : Nat) (bad : List (Nat × Bool)) (s : State) : Res :=
  .next (forEach (bad.filter (fun b => isHbm (b.1 * 64) && stackOf (b.1 * 64) == stack)) s (fun s b =>
    if b.2 then s.hbmUpset b.1 else s.corrected stack b.1))

/-- HBMERR_READ (R423). -/
def execHbmerrRead (stack : Nat) (s : State) : Res := .next (if stack < 8 then (s.hbmRead stack).2 else s)

/-! ## Actions of Uzoip (R451, R456) -/

/-- What the exact read of a top-up comes to: it waits, its die has no power counter, or the counter with the operation that brings V to
the target, where one is needed. -/
inductive TopupRead where
  | wait
  | none
  | read (pa : Nat) (op : Option CtrOp)
  deriving DecidableEq, Repr

/-- The exact read of a die's top-up, in its turn at the home (R451): then V is to be brought to the target, by an extension with the
difference or a take of it. -/
def State.topupRead (s : State) (die target : Nat) : TopupRead × State :=
  let pa := s.powerBlock (96 * die)
  if blkKind (s.blk pa) ≠ 1 || (kvGet none s.homes.ctrs pa).isNone then (.none, s)
  else match s.ctrTurn pa .topup with
    | (false, s) => (.wait, s)
    | (true, s) =>
      if s.writeBlocked (pa / 128) none none true false then (.wait, s.noteBlocked (pa / 128) none)
      else
        let (v, s) := s.serveExact pa
        let t := min target ctrMax
        (.read pa (if v < t then some (.ext (t - v)) else if t < v then some (.take (v - t)) else .none), s.ctrLeave pa .topup)

/-- What an operation writes, for its log entry. -/
def CtrOp.value (op : CtrOp) : Nat :=
  match op with
  | .init _ _ u0 _ _ _ => u0
  | .ext x => x
  | .give n => n
  | .take n => n

/-- An operation acts on a system counter (R456). -/
def State.onSystem (s : State) (pa : Nat) (op : CtrOp) : Bool :=
  ((kvGet none s.homes.ctrs pa).isSome && blkSys (s.blk pa)) || (match op with | .init _ priv _ _ _ _ => priv | _ => false)

/-- Uzoip's store of 8 bytes reaches their homes; a counter's block takes none of them (R252). -/
def State.fwStore (s : State) (pa x : Nat) : State :=
  let k := min 8 (64 - pa % 64)
  let bs := leBytes 8 x
  forEach ([(pa, bs.take k), (pa + k, bs.drop k)].filter (fun p => p.2 != [] && !s.countsAt p.1)) s (fun s p => s.devWrite p.1 p.2)

/-- Perform a logged action of a die's Uzoip: what it leaves to be done, none of it, or the action while it must wait. A top-up whose
exact read is done leaves the operation that brings V to its target (R451). -/
def State.fwDo (s : State) (die : Nat) (a : FwAct) : Option FwAct × State :=
  match a with
  | .csr n x => (none, (s.fwEntry 1 n x).privWrite (.uzoip die) n x)
  | .topup target => (match s.topupRead die target with
      | (.wait, s) => (some a, s)
      | (.none, s) => (none, s)
      | (.read pa op, s) =>
        let (id, s) := (s.fwEntry 2 pa 0).nextId
        (op.map (.counter pa id), s))
  | .counter pa id op => (match s.ctrAct pa id op with
      | (true, s) => (none, s.fwEntry 2 pa op.value)
      | (false, s) => (some a, s))
  | .store pa x => (none, (s.fwEntry 3 pa x).fwStore pa x)
  | .discarded pa x => (none, s.fwEntry 0xFF pa x)

/-- Actions of a Uzoip, one after what another leaves, at most fuel of them, as far as the log has room: what is left of them. -/
def State.fwRun (s : State) (die fuel : Nat) (a : FwAct) : Option FwAct × State :=
  match fuel with
  | 0 => (some a, s)
  | fuel + 1 =>
    if s.fwFull then (some a, s)
    else match s.fwDo die a with
      | (none, s) => (none, s)
      | (some b, s) => if b = a then (some a, s) else s.fwRun die fuel b

/-- An action of a die's Uzoip is performed with its entry, or waits behind those of the same Uzoip that wait, for room in the
log; a Uzoip that has not started does nothing (R457). -/
def State.fwAct (s : State) (die : Nat) (a : FwAct) : State :=
  let later (s : State) (a : FwAct) : State := { s with pkg := { s.pkg with uzoipWait := s.pkg.uzoipWait ++ [(die, a)] } }
  if s.pkg.uzoipOff then s
  else if s.pkg.uzoipWait.any (fun w => w.1 == die) then later s a
  else match s.fwRun die 2 a with
    | (none, s) => s
    | (some b, s) => later s b

/-- Actions of each Uzoip that wait go on, in order. -/
def State.fwFlush (s : State) : State :=
  let q := s.pkg.uzoipWait
  forEach q { s with pkg := { s.pkg with uzoipWait := [] } } (fun s a => s.fwAct a.1 a.2)

/-- The host, or a die's Uzoip, acts on a counter (R264): what Uzoip does to a system counter is logged (R456). -/
def State.counterBy (s : State) (die : Option Nat) (pa : Nat) (op : CtrOp) : State :=
  let (id, s) := s.nextId
  match die with
  | some d => if s.onSystem pa op then s.fwAct (d % 2) (.counter pa id op) else if s.pkg.uzoipOff then s else s.ctrActs pa id op
  | none => s.ctrActs pa id op

/-- UZOIP_DISCARDED_ACCESS (R455): an access of 8 bytes outside the firmware area and the grants is discarded and logged; one
inside them is made, and a store outside the area is logged. -/
def execUzoipDiscardedAccess (die : Nat) (access : FwAccess) (s : State) : Res :=
  let addr := access.addr
  if s.pkg.uzoipOff then .next s
  else match access.write with
  | some x =>
    if inFwArea addr then .next (s.fwStore addr x.toNat)
    else .next (if s.fwGranted addr true then s.fwAct (die % 2) (.store addr x.toNat) else s.fwAct (die % 2) (.discarded addr x.toNat))
  | none => .next (if inFwArea addr || s.fwGranted addr false then s else s.fwAct (die % 2) (.discarded addr 0))

/-! ## Register writes (R433) -/

/-- A write of a privileged register by its writer: what Uzoip writes is logged first (R456). -/
def State.regWrite (s : State) (who : Writer) (n x : Nat) : State :=
  match who with
  | .uzoip die => s.fwAct (die % 2) (.csr n x)
  | w => s.privWrite w n x

/-- REGISTER_WRITE. -/
def execRegisterWrite (who : Writer) (csr : Nat) (x : DWord) (s : State) : Res := .next (s.regWrite who csr x.toNat)
/-- MINJ_WRITE (R309). -/
def execMinjWrite (who : Writer) (x : DWord) (s : State) : Res := .next (s.regWrite who 0x8C0 x.toNat)
/-- MODESEL_WRITE (R454). -/
def execModeselWrite (who : Writer) (x : DWord) (s : State) : Res := .next (s.regWrite who 0xA10 x.toNat)
/-- PWRCTL_WRITE (R452). -/
def execPwrctlWrite (who : Writer) (x : DWord) (s : State) : Res := .next (s.regWrite who 0xA00 x.toNat)
/-- VSET_WRITE (R452). -/
def execVsetWrite (who : Writer) (x : DWord) (s : State) : Res := .next (s.regWrite who 0xA02 x.toNat)
/-- LEASELEN_WRITE (R414). -/
def execLeaselenWrite (who : Writer) (x : DWord) (s : State) : Res := .next (s.regWrite who 0x969 x.toNat)
/-- DTSET_WRITE (R445). -/
def execDtsetWrite (who : Writer) (x : DWord) (s : State) : Res := .next (s.regWrite who 0x9B3 x.toNat)
/-- CTXKILL_WRITE (R370). -/
def execCtxkillWrite (asid : Nat) (s : State) : Res := .next (s.privWrite (.host 0) 0x811 asid)
/-- ATNONCE_WRITE (R458). -/
def execAtnonceWrite (word : Nat) (x : DWord) (s : State) : Res := .next (s.nonceSet word x.toNat)

/-! ## Power and heat (R451, R453) -/

/-- A top-up by the host, tried again as long as it must wait. -/
def State.topupAgain (s : State) (die target : Nat) : State :=
  match s.topupRead die target with
  | (.wait, s) => s.park (.topup die target)
  | (.none, s) => s
  | (.read pa op, s) => match op with
    | some op => s.counterBy .none pa op
    | none => s

/-- The top-up of both dies; in host-assisted mode the request goes to the host, whose operations are not logged. -/
def State.topup (s : State) (t0 t1 : Nat) : State :=
  if s.hostMode 3 then ((s.vector 6).topupAgain 0 t0).topupAgain 1 t1
  else (s.fwAct 0 (.topup t0)).fwAct 1 (.topup t1)

/-- POWER_TOPUP: once at each multiple of 100,000 ns; the targets are what the function computes from BUDGET and the measured
power; where the machine runs it by itself they are the next two free values (log 12). -/
def execPowerTopup (target0 target1 : Nat) (s : State) : Res :=
  let k := s.ns / 100000
  if k ≤ s.pkg.topupAt then .next s
  else .next ({ s with free := s.free + 2, pkg := { s.pkg with topupAt := k } }.topup target0 target1)

/-- CURRENT_CAP: the core-rail current is above ICAP, or no longer. -/
def execCurrentCap (hot : Bool) (s : State) : Res := .next { s with pkg := { s.pkg with overCurrent := hot } }
/-- THERMAL_THROTTLE: the package is at TTHR, or no longer. -/
def execThermalThrottle (hot : Bool) (s : State) : Res := .next { s with pkg := { s.pkg with overTemp := hot } }

/-- WS_REFRESH_WINDOW (R36, R427): the windows follow from device time alone; one that closes releases what it stalled. -/
def execWsRefreshWindow (_bank : Nat) (opens : Bool) (s : State) : Res :=
  .next (if opens then s else forEach (s.cores.map Prod.fst) s (fun s c => (s.pokeMatrix c).pokeCopy c))

/-! ## The lifetime record (R459) -/

/-- Write the cumulative record into the older copy, with the next sequence number. -/
def Pkg.writeLife (p : Pkg) : Pkg :=
  let r : LifeRec := ⟨p.lifeLatest.seq + 1, p.lifeNow⟩
  if p.lifeA.seq < p.lifeB.seq then { p with lifeA := r } else { p with lifeB := r }

/-- LIFETIME_RECORD: once each hour of device time. Voltage in bins of 10 mV, the measured temperature and refresh margin in
bins that are free values (log 12), each counted by the hour. -/
def execLifetimeRecord (s : State) : Res :=
  let h := s.hours
  if h ≤ s.pkg.lifeHour then .next s
  else
    let (t, s) := s.freeVal
    let (m, s) := s.freeVal
    let s := ((s.lifeAdd (64 + (s.reg 0xA02 / 10 - 36)) 1).lifeAdd (128 + t % 64) 1).lifeAdd (192 + m % 64) 1
    .next { s with pkg := { s.pkg.writeLife with lifeHour := h } }

/-- LOSS_OF_POWER: everything but the nonvolatile area is lost, and the package does nothing more until it is reset; a write
of the record that was interrupted is lost with what it had counted. -/
def execLossOfPower (s : State) : Res :=
  .next { s with pkg := { s.pkg with halted := true, lifeNow := s.pkg.lifeLatest.words } }

/-- THERMAL_TRIP (R453): the trip is noted, the core rail drops and the package enters device reset. -/
def execThermalTrip (s : State) : Res :=
  let s := s.lifeAdd 0x71 1
  .next { s with pkg := { s.pkg with halted := true } }

/-! ## Device reset (R424, R445, R450, R457) -/

/-- Spares suffice: of the 100 cores of each die, and of the 132 columns of each array, at most 4 are retired. A retired core
of die d is (d, core), a retired column of the array of core k is (2 + k, column). -/
def sparesSuffice (retired : List (Nat × Nat)) : Bool :=
  retired.all (fun r => decide ((retired.filter (fun q => q.1 == r.1)).length ≤ 4))

/-- What HBM holds once the LLC's dirty lines are lost. -/
def State.hbmOnly (s : State) : Memory :=
  forEach s.homes.tags s.mem (fun m p => match p.2 with
    | some t => if t.dirty then m.put (cellsOf (t.line * 128) t.stale) else m
    | none => m)

/-- DEVICE_RESET: the state after reset, with what outlives it: memory as HBM and the host hold it (log 30), poison, the
lifetime record, repairs. Built-in test retires what it found; with too few spares the package stays in reset. A firmware
image that fails its check leaves MODESEL at 0x1F and Uzoip not started. Rows that soft repair has remapped are repaired for good
(R421), and an image that the host has written is the one that is measured (R457). -/
def execDeviceReset (imageOk : Bool) (retire : List (Nat × Nat)) (s : State) : Res :=
  let s := s.lifeAdd 0x70 retire.length
  let retired := s.pkg.retired ++ retire.filter (fun r => !s.pkg.retired.contains r)
  let ok := sparesSuffice retired
  let s := if ok then s else s.lifeAdd 0x72 1
  let r := if imageOk then State.reset else State.reset.setReg 0xA10 0x1F
  .next { r with
    mem := s.hbmOnly,
    homes := { r.homes with poison := s.homes.hbmBad.filter (fun h => !s.homes.poison.contains h) ++ s.homes.poison },
    pkg := { r.pkg with hardRows := s.pkg.softRows ++ s.pkg.hardRows, image := s.pkg.nextImage.or s.pkg.image, lifeA := s.pkg.lifeA, lifeB := s.pkg.lifeB, lifeNow := s.pkg.lifeNow, retired := retired,
                        halted := !ok, uzoipOff := !imageOk },
    agenda := s.agenda, free := s.free }

/-! ## Attestation (R458) -/

/-- The 4 KiB of a copy of the lifetime record. -/
def LifeRec.bytes (l : LifeRec) : List Byte :=
  leBytes 8 l.seq ++ (natsFrom 1 511).flatMap (fun i => leBytes 8 (kvGet 0#64 l.words i).toNat)

/-- The report without its signature. -/
def State.reportBody (s : State) : List Byte :=
  leBytes 8 1 ++ leBytes 8 Config.serial.toNat ++ leBytes 8 (s.reg 0xA10 % 32) ++ List.replicate 40 0#8
    ++ (nats 8).flatMap (fun i => leBytes 8 (s.reg (0xA20 + i)))
    ++ sha512 (s.pkg.image.getD Config.fwImage)
    ++ sha512 (Config.fuseMap (s.pkg.retired.flatMap (fun r => [r.1, r.2])))
    ++ sha512 s.pkg.lifeLatest.bytes

/-- ATTESTATION_REPORT: the signed report is complete, and ATBUSY reads 0. The salt is free (log 12). -/
def execAttestationReport (s : State) : Res :=
  if !s.pkg.atBusy then .next s
  else
    let body := s.reportBody
    let (salt, s) := s.freeBytes 64
    let all := body ++ pssSign body salt
    .next { s with pkg := { s.pkg with
      report := forEach (cellsOf 0 all) [] (fun m c => kvSet 0#8 m c.1 c.2), atBusy := false } }

/-! ## Contact sheets (R460) -/

/-- The last multiple of CSHINT; 0 where no sheet is taken. -/
def State.sheetTime (s : State) : Nat :=
  let c := s.reg 0xA30
  if c = 0 ∨ 1000000 < c then 0 else s.ns / (c * 1000) * (c * 1000)

/-- CONTACT_SHEET: at each multiple of CSHINT, placement of each debug region that is queued or runs stops, and it drains. -/
def execContactSheet (s : State) : Res :=
  let t := s.sheetTime
  if t ≤ s.pkg.lastSheet then .next s
  else
    let s := { s with pkg := { s.pkg with lastSheet := t } }
    if s.reg 0xA37 = 0 then .next s
    else
      let ls := (s.allRegions.filter (fun p => p.2.rcb.dbg && (p.2.state == 1 || p.2.state == 2) && p.2.ending.isNone)).map Prod.fst
      .next (forEach ls s (fun s rid => (s.setRegion rid { s.region rid with sheeting := true }).regionCheck rid))

/-- The used ranges of the list, as start and length. -/
def State.sheetRanges (s : State) : List (Nat × Nat) :=
  let l := s.reg 0xA32
  if l = 0 then []
  else ((nats 16).map (fun i => (s.numAt (l + 16 * i) 8 % 2 ^ 56, s.numAt (l + 16 * i + 8) 4))).filter (fun p => p.2 != 0)

/-- A length padded to 64 bytes. -/
def pad64 (n : Nat) : Nat := (n + 63) / 64 * 64

/-- Read a range of a region line by line: none while a translation or a home must come first, or its bytes and the class of what
kept it from being read. -/
def State.sheetRead (s : State) (rid : Nat) (l : List (Nat × Nat)) (acc : List Byte) : Option (List Byte × Option Nat) × State :=
  match l with
  | [] => (some (acc, none), s)
  | (a, n) :: t =>
    let r := s.region rid
    match s.devRead (r.rcb.die * 96) r.asid (a % 2 ^ 56) n r.isSystem with
    | (.ok x, s) => s.sheetRead rid t (acc ++ leBytes n x)
    | (.wait, s) => (none, s)
    | (.fault c, s) => (some ([], some c), s)
    | (_, s) => (some ([], some clsProt), s)

/-- The bytes of the ranges, each padded to 64; a range that cannot be read is zeros, with an error record. -/
def State.sheetBody (s : State) (rid : Nat) (l : List (Nat × Nat)) (acc : List Byte) : Option (List Byte) × State :=
  match l with
  | [] => (some acc, s)
  | (a, n) :: t =>
    match s.sheetRead rid (pieces a n) [] with
    | (none, s) => (none, s)
    | (some (bs, bad), s) =>
      let s := match bad with
        | some c => s.errorRecord (some rid) c a
        | none => s
      s.sheetBody rid t (acc ++ (bs ++ List.replicate (pad64 n - bs.length) 0#8))

/-- A region that drains for a sheet runs nothing more. -/
def State.sheetReady (s : State) (rid : Nat) : Bool :=
  let r := s.region rid
  r.sheeting && (r.state == 1 || r.state == 2) && r.ending.isNone && (s.liveCohorts rid).isEmpty && !s.binsHold rid && !s.logsHold rid

/-- Placement of the region resumes. -/
def State.sheetEnd (s : State) (rid : Nat) (taken : Nat) : State :=
  let r := s.region rid
  ((s.setRegion rid { r with sheeting := false, drainAt := none, sheets := r.sheets + taken }).regionCheck rid).pushPlacement

/-- CONTACT_SHEET_WRITE: the sheet is written after the last one, or at the start of the area, then CSHHEAD names it; one
longer than the area is not written. The allowances that go back from the drained region are served at their homes first (R361). -/
def execContactSheetWrite (rid : Nat) (s : State) : Res :=
  if !s.sheetReady rid then .next s
  else
    let s := s.returnRegionAllows rid
    if s.allowsOut rid || s.rcbWaits rid then .next s
    else
      let s := s.setRegion rid { s.region rid with drainAt := some ((s.region rid).drainAt.getD s.ns) }
      let ranges := s.sheetRanges
      let len := 64 + (ranges.map (fun p => pad64 p.2)).sum
      let area := s.reg 0xA37
      let at_ := if area < s.pkg.sheetNext + len then 0 else s.pkg.sheetNext
      let place := s.reg 0xA31 % 2 ^ 52 / 4096 * 4096 + at_
      if area < len then .next ((s.errorRecord (some rid) clsProt 0).sheetEnd rid 0)
      else match s.devFree place len with
        | (false, s) => .next s
        | (true, s) => (match s.sheetBody rid ((add56 (s.region rid).rcbVa 0x100, 48) :: ranges) [] with
            | (none, s) => .next s
            | (some body, s) =>
              let r := s.region rid
              let head := leBytes 8 (r.sheets + 1) ++ leBytes 8 (r.drainAt.getD s.ns)
              let s := (s.devPut place (head ++ body.take 48 ++ body.drop 64)).setReg 0xA38 at_
              .next ({ s with pkg := { s.pkg with sheetNext := at_ + len } }.sheetEnd rid 1))

end Sys2Proof.Machine
end

