-- ==== Sys2Proof/Machine/Dispatch.lean ====
section
/-! DEFINITION. The meaning of every instruction and event: one arm for each constructor of Instr. -/

namespace Sys2Proof.Machine

def exec (i : Instr) (s : State) : Host.Outcome State Fault Refusal :=
  match i with
  | .nop o => Sys2Proof.Machine.execNop o s
  | .braW1b o => Sys2Proof.Machine.execBraW1b o s
  | .bra o => Sys2Proof.Machine.execBra o s
  | .brc o => Sys2Proof.Machine.execBrc o s
  | .brx o => Sys2Proof.Machine.execBrx o s
  | .callW1b o => Sys2Proof.Machine.execCallW1b o s
  | .call o => Sys2Proof.Machine.execCall o s
  | .callx o => Sys2Proof.Machine.execCallx o s
  | .ret o => Sys2Proof.Machine.execRet o s
  | .loop o => Sys2Proof.Machine.execLoop o s
  | .exit o => Sys2Proof.Machine.execExit o s
  | .yield o => Sys2Proof.Machine.execYield o s
  | .yieldTimeout sid => Sys2Proof.Machine.execYieldTimeout sid s
  | .spawn o => Sys2Proof.Machine.execSpawn o s
  | .spawnBinTimer core bin => Sys2Proof.Machine.execSpawnBinTimer core bin s
  | .spawnResidency core bin => Sys2Proof.Machine.execSpawnResidency core bin s
  | .launch o => Sys2Proof.Machine.execLaunch o s
  | .join o => Sys2Proof.Machine.execJoin o s
  | .joinTimeout sid => Sys2Proof.Machine.execJoinTimeout sid s
  | .trap o => Sys2Proof.Machine.execTrap o s
  | .rett o => Sys2Proof.Machine.execRett o s
  | .dbg o => Sys2Proof.Machine.execDbg o s
  | .addW1a o => Sys2Proof.Machine.execAddW1a o s
  | .add o => Sys2Proof.Machine.execAdd o s
  | .subW1a o => Sys2Proof.Machine.execSubW1a o s
  | .sub o => Sys2Proof.Machine.execSub o s
  | .mulW1a o => Sys2Proof.Machine.execMulW1a o s
  | .mul o => Sys2Proof.Machine.execMul o s
  | .mulhW1a o => Sys2Proof.Machine.execMulhW1a o s
  | .mulh o => Sys2Proof.Machine.execMulh o s
  | .madW1a o => Sys2Proof.Machine.execMadW1a o s
  | .mad o => Sys2Proof.Machine.execMad o s
  | .divW1a o => Sys2Proof.Machine.execDivW1a o s
  | .divOp o => Sys2Proof.Machine.execDiv o s
  | .remW1a o => Sys2Proof.Machine.execRemW1a o s
  | .remOp o => Sys2Proof.Machine.execRem o s
  | .divisionComplete sid seq => Sys2Proof.Machine.execDivisionComplete sid seq s
  | .minW1a o => Sys2Proof.Machine.execMinW1a o s
  | .minOp o => Sys2Proof.Machine.execMin o s
  | .maxW1a o => Sys2Proof.Machine.execMaxW1a o s
  | .maxOp o => Sys2Proof.Machine.execMax o s
  | .absW1a o => Sys2Proof.Machine.execAbsW1a o s
  | .absOp o => Sys2Proof.Machine.execAbs o s
  | .andW1a o => Sys2Proof.Machine.execAndW1a o s
  | .andOp o => Sys2Proof.Machine.execAnd o s
  | .orW1a o => Sys2Proof.Machine.execOrW1a o s
  | .orOp o => Sys2Proof.Machine.execOr o s
  | .xorW1a o => Sys2Proof.Machine.execXorW1a o s
  | .xorOp o => Sys2Proof.Machine.execXor o s
  | .andnW1a o => Sys2Proof.Machine.execAndnW1a o s
  | .andn o => Sys2Proof.Machine.execAndn o s
  | .shlW1a o => Sys2Proof.Machine.execShlW1a o s
  | .shl o => Sys2Proof.Machine.execShl o s
  | .shrW1a o => Sys2Proof.Machine.execShrW1a o s
  | .shr o => Sys2Proof.Machine.execShr o s
  | .sarW1a o => Sys2Proof.Machine.execSarW1a o s
  | .sar o => Sys2Proof.Machine.execSar o s
  | .rolW1a o => Sys2Proof.Machine.execRolW1a o s
  | .rol o => Sys2Proof.Machine.execRol o s
  | .popcW1a o => Sys2Proof.Machine.execPopcW1a o s
  | .popc o => Sys2Proof.Machine.execPopc o s
  | .clzW1a o => Sys2Proof.Machine.execClzW1a o s
  | .clz o => Sys2Proof.Machine.execClz o s
  | .brevW1a o => Sys2Proof.Machine.execBrevW1a o s
  | .brev o => Sys2Proof.Machine.execBrev o s
  | .bfxW1a o => Sys2Proof.Machine.execBfxW1a o s
  | .bfx o => Sys2Proof.Machine.execBfx o s
  | .bfiW1a o => Sys2Proof.Machine.execBfiW1a o s
  | .bfi o => Sys2Proof.Machine.execBfi o s
  | .permW1a o => Sys2Proof.Machine.execPermW1a o s
  | .perm o => Sys2Proof.Machine.execPerm o s
  | .lea o => Sys2Proof.Machine.execLea o s
  | .cmp o => Sys2Proof.Machine.execCmp o s
  | .sel o => Sys2Proof.Machine.execSel o s
  | .movW1a o => Sys2Proof.Machine.execMovW1a o s
  | .mov o => Sys2Proof.Machine.execMov o s
  | .moviW1i o => Sys2Proof.Machine.execMoviW1i o s
  | .movi o => Sys2Proof.Machine.execMovi o s
  | .movsW1a o => Sys2Proof.Machine.execMovsW1a o s
  | .movs o => Sys2Proof.Machine.execMovs o s
  | .csrr o => Sys2Proof.Machine.execCsrr o s
  | .csrw o => Sys2Proof.Machine.execCsrw o s
  | .faddW1a o => Sys2Proof.Machine.execFaddW1a o s
  | .fadd o => Sys2Proof.Machine.execFadd o s
  | .fsubW1a o => Sys2Proof.Machine.execFsubW1a o s
  | .fsub o => Sys2Proof.Machine.execFsub o s
  | .fmulW1a o => Sys2Proof.Machine.execFmulW1a o s
  | .fmul o => Sys2Proof.Machine.execFmul o s
  | .ffmaW1a o => Sys2Proof.Machine.execFfmaW1a o s
  | .ffma o => Sys2Proof.Machine.execFfma o s
  | .fminW1a o => Sys2Proof.Machine.execFminW1a o s
  | .fmin o => Sys2Proof.Machine.execFmin o s
  | .fmaxW1a o => Sys2Proof.Machine.execFmaxW1a o s
  | .fmax o => Sys2Proof.Machine.execFmax o s
  | .fcmpW1a o => Sys2Proof.Machine.execFcmpW1a o s
  | .fcmp o => Sys2Proof.Machine.execFcmp o s
  | .fclassW1a o => Sys2Proof.Machine.execFclassW1a o s
  | .fclass o => Sys2Proof.Machine.execFclass o s
  | .frcpW1a o => Sys2Proof.Machine.execFrcpW1a o s
  | .frcp o => Sys2Proof.Machine.execFrcp o s
  | .frsqW1a o => Sys2Proof.Machine.execFrsqW1a o s
  | .frsq o => Sys2Proof.Machine.execFrsq o s
  | .fsqrtW1a o => Sys2Proof.Machine.execFsqrtW1a o s
  | .fsqrt o => Sys2Proof.Machine.execFsqrt o s
  | .fexp2W1a o => Sys2Proof.Machine.execFexp2W1a o s
  | .fexp2 o => Sys2Proof.Machine.execFexp2 o s
  | .flog2W1a o => Sys2Proof.Machine.execFlog2W1a o s
  | .flog2 o => Sys2Proof.Machine.execFlog2 o s
  | .transcendentalComplete sid seq => Sys2Proof.Machine.execTranscendentalComplete sid seq s
  | .frndW1a o => Sys2Proof.Machine.execFrndW1a o s
  | .frnd o => Sys2Proof.Machine.execFrnd o s
  | .cvtW1a o => Sys2Proof.Machine.execCvtW1a o s
  | .cvt o => Sys2Proof.Machine.execCvt o s
  | .shfl o => Sys2Proof.Machine.execShfl o s
  | .vote o => Sys2Proof.Machine.execVote o s
  | .ballot o => Sys2Proof.Machine.execBallot o s
  | .redx o => Sys2Proof.Machine.execRedx o s
  | .scan o => Sys2Proof.Machine.execScan o s
  | .matchOp o => Sys2Proof.Machine.execMatch o s
  | .ld o => Sys2Proof.Machine.execLd o s
  | .st o => Sys2Proof.Machine.execSt o s
  | .ldl o => Sys2Proof.Machine.execLdl o s
  | .stl o => Sys2Proof.Machine.execStl o s
  | .loadDataArrival sid slot => Sys2Proof.Machine.execLoadDataArrival sid slot s
  | .prefL1 o => Sys2Proof.Machine.execPrefL1 o s
  | .prefLlc o => Sys2Proof.Machine.execPrefLlc o s
  | .cleanL1 o => Sys2Proof.Machine.execCleanL1 o s
  | .cleanMem o => Sys2Proof.Machine.execCleanMem o s
  | .dropL1 o => Sys2Proof.Machine.execDropL1 o s
  | .dropLlc o => Sys2Proof.Machine.execDropLlc o s
  | .lock o => Sys2Proof.Machine.execLock o s
  | .unlock o => Sys2Proof.Machine.execUnlock o s
  | .atom o => Sys2Proof.Machine.execAtom o s
  | .atoml o => Sys2Proof.Machine.execAtoml o s
  | .atomicAtHome sid slot => Sys2Proof.Machine.execAtomicAtHome sid slot s
  | .lease o => Sys2Proof.Machine.execLease o s
  | .leaseGrant sid slot => Sys2Proof.Machine.execLeaseGrant sid slot s
  | .unlease o => Sys2Proof.Machine.execUnlease o s
  | .leaseExpiry core line => Sys2Proof.Machine.execLeaseExpiry core line s
  | .wait o => Sys2Proof.Machine.execWait o s
  | .swapOut sid => Sys2Proof.Machine.execSwapOut sid s
  | .strandRestore sid => Sys2Proof.Machine.execStrandRestore sid s
  | .barArrive o => Sys2Proof.Machine.execBarArrive o s
  | .barWait o => Sys2Proof.Machine.execBarWait o s
  | .barSync o => Sys2Proof.Machine.execBarSync o s
  | .barExpect o => Sys2Proof.Machine.execBarExpect o s
  | .fenceAcq o => Sys2Proof.Machine.execFenceAcq o s
  | .fenceRel o => Sys2Proof.Machine.execFenceRel o s
  | .fenceAr o => Sys2Proof.Machine.execFenceAr o s
  | .gbind o => Sys2Proof.Machine.execGbind o s
  | .acqX o => Sys2Proof.Machine.execAcqX o s
  | .acqSh o => Sys2Proof.Machine.execAcqSh o s
  | .guardGrant guard => Sys2Proof.Machine.execGuardGrant guard s
  | .rel o => Sys2Proof.Machine.execRel o s
  | .writePerformed sid slot => Sys2Proof.Machine.execWritePerformed sid slot s
  | .strongReadAtHome sid slot => Sys2Proof.Machine.execStrongReadAtHome sid slot s
  | .l1WriteBack core line => Sys2Proof.Machine.execL1WriteBack core line s
  | .trapEntry sid => Sys2Proof.Machine.execTrapEntry sid s
  | .triageRepair who writes => Sys2Proof.Machine.execTriageRepair who writes s
  | .triageReturn who => Sys2Proof.Machine.execTriageReturn who s
  | .heapGrowth sid slot grant => Sys2Proof.Machine.execHeapGrowth sid slot grant s
  | .kopen o => Sys2Proof.Machine.execKopen o s
  | .knext o => Sys2Proof.Machine.execKnext o s
  | .kseek o => Sys2Proof.Machine.execKseek o s
  | .ksetp o => Sys2Proof.Machine.execKsetp o s
  | .kdesc o => Sys2Proof.Machine.execKdesc o s
  | .kcoit o => Sys2Proof.Machine.execKcoit o s
  | .ksplit o => Sys2Proof.Machine.execKsplit o s
  | .kcrd o => Sys2Proof.Machine.execKcrd o s
  | .kpos o => Sys2Proof.Machine.execKpos o s
  | .kval o => Sys2Proof.Machine.execKval o s
  | .kapp o => Sys2Proof.Machine.execKapp o s
  | .kapm o => Sys2Proof.Machine.execKapm o s
  | .kclose o => Sys2Proof.Machine.execKclose o s
  | .kmov o => Sys2Proof.Machine.execKmov o s
  | .ctinitQ o => Sys2Proof.Machine.execCtinitQ o s
  | .ctinitR o => Sys2Proof.Machine.execCtinitR o s
  | .ctinitExt o => Sys2Proof.Machine.execCtinitExt o s
  | .homeCtinit sid slot thread => Sys2Proof.Machine.execHomeCtinit sid slot thread s
  | .cttakeQ o => Sys2Proof.Machine.execCttakeQ o s
  | .cttakeR o => Sys2Proof.Machine.execCttakeR o s
  | .homeQuantityTake sid slot thread => Sys2Proof.Machine.execHomeQuantityTake sid slot thread s
  | .homeRangeTake sid slot thread => Sys2Proof.Machine.execHomeRangeTake sid slot thread s
  | .counterRecall core block => Sys2Proof.Machine.execCounterRecall core block s
  | .ctgive o => Sys2Proof.Machine.execCtgive o s
  | .giveFlush sid slot thread => Sys2Proof.Machine.execGiveFlush sid slot thread s
  | .ctread o => Sys2Proof.Machine.execCtread o s
  | .exactRead sid slot thread => Sys2Proof.Machine.execExactRead sid slot thread s
  | .ctpeek o => Sys2Proof.Machine.execCtpeek o s
  | .ctdrop o => Sys2Proof.Machine.execCtdrop o s
  | .counterReturn core block init piece => Sys2Proof.Machine.execCounterReturn core block init piece s
  | .mfill o => Sys2Proof.Machine.execMfill o s
  | .mldw o => Sys2Proof.Machine.execMldw o s
  | .mswap o => Sys2Proof.Machine.execMswap o s
  | .mmul o => Sys2Proof.Machine.execMmul o s
  | .mzero o => Sys2Proof.Machine.execMzero o s
  | .mrd o => Sys2Proof.Machine.execMrd o s
  | .mwr o => Sys2Proof.Machine.execMwr o s
  | .mepi o => Sys2Proof.Machine.execMepi o s
  | .mepiRoute o => Sys2Proof.Machine.execMepiRoute o s
  | .mtopkAcc o => Sys2Proof.Machine.execMtopkAcc o s
  | .mtopkClr o => Sys2Proof.Machine.execMtopkClr o s
  | .mtopkOut o => Sys2Proof.Machine.execMtopkOut o s
  | .mchk o => Sys2Proof.Machine.execMchk o s
  | .mchkClr o => Sys2Proof.Machine.execMchkClr o s
  | .mchkRst o => Sys2Proof.Machine.execMchkRst o s
  | .matrixEntryStart core ident => Sys2Proof.Machine.execMatrixEntryStart core ident s
  | .matrixCompletion core ident => Sys2Proof.Machine.execMatrixCompletion core ident s
  | .powerLeaveRetry core ident => Sys2Proof.Machine.execPowerLeaveRetry core ident s
  | .mldt o => Sys2Proof.Machine.execMldt o s
  | .xcopy o => Sys2Proof.Machine.execXcopy o s
  | .xstore o => Sys2Proof.Machine.execXstore o s
  | .xgather o => Sys2Proof.Machine.execXgather o s
  | .xscat o => Sys2Proof.Machine.execXscat o s
  | .xmcast o => Sys2Proof.Machine.execXmcast o s
  | .copyCommandStart core ident => Sys2Proof.Machine.execCopyCommandStart core ident s
  | .copyTileReturn core ident tile => Sys2Proof.Machine.execCopyTileReturn core ident tile s
  | .xdisp o => Sys2Proof.Machine.execXdisp o s
  | .xdispB o => Sys2Proof.Machine.execXdispB o s
  | .xcomb o => Sys2Proof.Machine.execXcomb o s
  | .xcombB o => Sys2Proof.Machine.execXcombB o s
  | .dispatchRecord die engine => Sys2Proof.Machine.execDispatchRecord die engine s
  | .dispatchInstant die engine => Sys2Proof.Machine.execDispatchInstant die engine s
  | .batchCloseWindow lcb expert => Sys2Proof.Machine.execBatchCloseWindow lcb expert s
  | .productSpawnRetry lcb expert => Sys2Proof.Machine.execProductSpawnRetry lcb expert s
  | .tlbinvRange o => Sys2Proof.Machine.execTlbinvRange o s
  | .tlbinvAsid o => Sys2Proof.Machine.execTlbinvAsid o s
  | .tlbinvAll o => Sys2Proof.Machine.execTlbinvAll o s
  | .hostTlbinv sel asid base len => Sys2Proof.Machine.execHostTlbinv sel asid base len s
  | .icinv o => Sys2Proof.Machine.execIcinv o s
  | .mark o => Sys2Proof.Machine.execMark o s
  | .cohortPlacement die => Sys2Proof.Machine.execCohortPlacement die s
  | .windowLaunch asid rcb priv => Sys2Proof.Machine.execWindowLaunch asid rcb priv s
  | .windowPreempt asid rcb priv => Sys2Proof.Machine.execWindowPreempt asid rcb priv s
  | .windowKill asid rcb priv => Sys2Proof.Machine.execWindowKill asid rcb priv s
  | .windowResume asid rcb priv => Sys2Proof.Machine.execWindowResume asid rcb priv s
  | .windowFault asid rcb priv => Sys2Proof.Machine.execWindowFault asid rcb priv s
  | .preemptDrainComplete rid => Sys2Proof.Machine.execPreemptDrainComplete rid s
  | .shutterExpiry rid => Sys2Proof.Machine.execShutterExpiry rid s
  | .ageingStep rid => Sys2Proof.Machine.execAgeingStep rid s
  | .ctxkillWrite asid => Sys2Proof.Machine.execCtxkillWrite asid s
  | .pageWalk die asid vpage => Sys2Proof.Machine.execPageWalk die asid vpage s
  | .hostTranslationAnswer die asid vpage leaf => Sys2Proof.Machine.execHostTranslationAnswer die asid vpage leaf s
  | .llcFill line => Sys2Proof.Machine.execLlcFill line s
  | .llcProbe sid dst => Sys2Proof.Machine.execLlcProbe sid dst s
  | .llcCounterRead sid csr dst => Sys2Proof.Machine.execLlcCounterRead sid csr dst s
  | .copyRenewal core cache asid vline => Sys2Proof.Machine.execCopyRenewal core cache asid vline s
  | .ltTick core => Sys2Proof.Machine.execLtTick core s
  | .epochFlip => Sys2Proof.Machine.execEpochFlip s
  | .safelightEntry core => Sys2Proof.Machine.execSafelightEntry core s
  | .safelightWake core => Sys2Proof.Machine.execSafelightWake core s
  | .holdingEndMessage core line ver bytes => Sys2Proof.Machine.execHoldingEndMessage core line ver bytes s
  | .hostSnoop line => Sys2Proof.Machine.execHostSnoop line s
  | .hostMemRead addr len => Sys2Proof.Machine.execHostMemRead addr len s
  | .hostMemWrite addr bytes => Sys2Proof.Machine.execHostMemWrite addr bytes s
  | .hostGoReceipt => Sys2Proof.Machine.execHostGoReceipt s
  | .hostSharedFill core cache asid vline => Sys2Proof.Machine.execHostSharedFill core cache asid vline s
  | .mgmtWindowAccess die csr write => Sys2Proof.Machine.execMgmtWindowAccess die csr write s
  | .registerWrite who csr value => Sys2Proof.Machine.execRegisterWrite who csr value s
  | .minjWrite who value => Sys2Proof.Machine.execMinjWrite who value s
  | .modeselWrite who value => Sys2Proof.Machine.execModeselWrite who value s
  | .pwrctlWrite who value => Sys2Proof.Machine.execPwrctlWrite who value s
  | .vsetWrite who value => Sys2Proof.Machine.execVsetWrite who value s
  | .leaselenWrite who value => Sys2Proof.Machine.execLeaselenWrite who value s
  | .dtsetWrite who value => Sys2Proof.Machine.execDtsetWrite who value s
  | .hbmerrRead stack => Sys2Proof.Machine.execHbmerrRead stack s
  | .atnonceWrite word value => Sys2Proof.Machine.execAtnonceWrite word value s
  | .attestationReport => Sys2Proof.Machine.execAttestationReport s
  | .wsRefreshWindow bank opens => Sys2Proof.Machine.execWsRefreshWindow bank opens s
  | .hbmPatrolScrub stack bad => Sys2Proof.Machine.execHbmPatrolScrub stack bad s
  | .flitRead flit => Sys2Proof.Machine.execFlitRead flit s
  | .flitWrite flit => Sys2Proof.Machine.execFlitWrite flit s
  | .flitCompletion flit => Sys2Proof.Machine.execFlitCompletion flit s
  | .flitContribution flit => Sys2Proof.Machine.execFlitContribution flit s
  | .flitDelivery flit => Sys2Proof.Machine.execFlitDelivery flit s
  | .flitPtp flit => Sys2Proof.Machine.execFlitPtp flit s
  | .flitAck flit => Sys2Proof.Machine.execFlitAck flit s
  | .flitNak flit => Sys2Proof.Machine.execFlitNak flit s
  | .portRetrain port => Sys2Proof.Machine.execPortRetrain port s
  | .memberFailure peer => Sys2Proof.Machine.execMemberFailure peer s
  | .powerTopup target0 target1 => Sys2Proof.Machine.execPowerTopup target0 target1 s
  | .currentCap hot => Sys2Proof.Machine.execCurrentCap hot s
  | .thermalThrottle hot => Sys2Proof.Machine.execThermalThrottle hot s
  | .thermalTrip => Sys2Proof.Machine.execThermalTrip s
  | .deviceReset imageOk retire => Sys2Proof.Machine.execDeviceReset imageOk retire s
  | .uzoipDiscardedAccess die access => Sys2Proof.Machine.execUzoipDiscardedAccess die access s
  | .lifetimeRecord => Sys2Proof.Machine.execLifetimeRecord s
  | .contactSheet => Sys2Proof.Machine.execContactSheet s
  | .contactSheetWrite rid => Sys2Proof.Machine.execContactSheetWrite rid s
  | .crcFailedFlit port => Sys2Proof.Machine.execCrcFailedFlit port s
  | .lossOfPower => Sys2Proof.Machine.execLossOfPower s
  | .bisnpReply line bytes => Sys2Proof.Machine.execBisnpReply line bytes s
  | .ptpMessageTimer port kind => Sys2Proof.Machine.execPtpMessageTimer port kind s
  | .rebuildSpacingEnd group => Sys2Proof.Machine.execRebuildSpacingEnd group s

end Sys2Proof.Machine
end

