-- ==== Sys2Proof/Machine/Schedule.lean ====
section
/-! DEFINITION. What happens next (log 2): instruction fetch (R41 to R45), the instruction boundary (R125, R201), the choice
of a strand (R132 to R134), the passing of time (log 1), and the moves of the schedule. -/

namespace Sys2Proof.Machine

/-! ## Fetch (R41 to R45, R380) -/

/-- What fetching one word answers. -/
inductive FetchR where
  | ok (w : BitVec 32)
  | wait
  | fault (cls : Nat)
  deriving DecidableEq, Repr

/-- The word at an address in a line of bytes. -/
def wordIn (data : List Byte) (va : Nat) : BitVec 32 := BitVec.ofNat 32 (ofLe ((data.drop (va % 128)).take 4))

/-- Bring a code line into the instruction cache of a core from its home, after the core's own dirty bytes (R381). -/
def State.fillCode (s : State) (w : Who) (va : Nat) : FetchR × State :=
  match s.access w (va / 128 * 128) needX 2 with
  | (.wait, s) => (.wait, s)
  | (.fault c, s) => (.fault c, s)
  | (.hit pa perms, s) =>
    let line := pa / 128
    if isWindow pa then (.fault clsProt, s)
    else
      let (done, s) := s.writeBack w.core line
      if !done || s.goPending line || s.homeWaits line w.sid false then (.wait, s.noteBlocked line (some w.core))
      else
        let s := if isHbm pa then s.llcRead line else s
        let data := s.lineBytes line
        if s.poisoned (line * 128 + va % 128) 4 then (.fault clsUncorr, s)
        else if s.poisoned (line * 128) 128 then (.ok (wordIn data va), s)
        else
          let c : ICopy := { asid := w.asid, vline := va / 128, pline := line, perms := perms, data := data }
          (.ok (wordIn data va),
           s.modCore w.core (fun x => { x with icache := c :: x.icache.filter (fun y => y.pline != line) }))

/-- Fetch the word at an address for a strand. -/
def State.fetchWord (s : State) (sid va : Nat) : FetchR × State :=
  let w := s.who sid
  match (s.core w.core).icache.find? (fun c => c.asid == w.asid && c.vline == va / 128) with
  | some c => (match permFault c.perms needX w.sys 2 with
      | some f => (.fault f, s)
      | none => (.ok (wordIn c.data va), s))
  | none => s.fillCode w va

/-- What fetching an instruction answers: its words, a wait, or the words fetched with the class and the first address
that could not be (R43). -/
inductive InstrR where
  | ok (w0 w1 w2 : BitVec 32)
  | wait
  | fault (cls addr : Nat) (words : List (BitVec 32))
  deriving DecidableEq, Repr

/-- Fetch the instruction at an address: word 0 first, then the words that its LEN states (R42, R43). -/
def State.fetchInstr (s : State) (sid va : Nat) : InstrR × State :=
  match s.fetchWord sid va with
  | (.wait, s) => (.wait, s)
  | (.fault c, s) => (.fault c va [], s)
  | (.ok w0, s) =>
    let a1 := (va + 4) % 2 ^ 56
    let a2 := (va + 8) % 2 ^ 56
    let len := w0.extractLsb' 0 2
    if len = 1#2 ∨ len = 2#2 then
      match s.fetchWord sid a1 with
      | (.wait, s) => (.wait, s)
      | (.fault c, s) => (.fault c a1 [w0], s)
      | (.ok w1, s) =>
        if len = 2#2 then
          match s.fetchWord sid a2 with
          | (.wait, s) => (.wait, s)
          | (.fault c, s) => (.fault c a2 [w0, w1], s)
          | (.ok w2, s) => (.ok w0 w1 w2, s)
        else (.ok w0 w1 0#32, s)
    else (.ok w0 0#32 0#32, s)

/-! ## The instruction boundary -/

/-- What a strand's turn comes to: a state already reached, or an instruction to execute. -/
inductive Turn where
  | done (s : State)
  | run (i : Instr) (s : State)

/-- A precise trap of fetch or decode. -/
def fetchTrap (st : Strand) (cls info faddr : Nat) (words : List (BitVec 32)) : TrapInfo :=
  { cls := cls, info := info, rpc := st.pc.toNat, fpc := st.pc.toNat, faddr := faddr, tvalid := false, thread := 0,
    fmask := 0, oplog := none, words := words }

/-- The strand's next turn: threads rejoin, and a path without threads gives way to the next (R125), a class that awaits delivery is taken
(R201), or its next instruction is fetched and decoded. An instruction that waits at the PC counts as not issued until it issues. -/
def State.boundary (s : State) (sid : Nat) : Turn :=
  let s := s.unlaunch sid
  let st := (s.strand sid).unheld.atJoin
  let s := { s.setStrand sid st with cur := sid }
  if st.amask = 0 then .done (s.endThreads sid)
  else match st.awaiting with
  | some (ti, st') => .done ((s.setStrand sid st').takeTrap sid ti)
  | none =>
    match s.fetchInstr sid st.pc.toNat with
    | (.wait, s) => .done s
    | (.fault c a ws, s) =>
      let s := if c = clsUncorr then s.errorRecord (some st.rid) clsUncorr a else s
      .done (s.takeTrap sid (fetchTrap st c 0 a ws))
    | (.ok w0 w1 w2, s) =>
      match decodeWords w0 w1 w2 with
      | .ok i => .run i s
      | .error (.illegal c) => .done (s.takeTrap sid (fetchTrap st clsIllegal c 0 (rawWords (rawOfWords w0 w1 w2))))
      | .error .short => .done s

/-! ## Time (log 1) -/

/-- The rate correction of device time, in parts of 10^9 (R446): 500,000 while a correction is slewed, else FADJ. -/
def State.rate (s : State) : Int :=
  if 0 < s.pkg.slew then 500000 else if s.pkg.slew < 0 then -500000 else sInt 32 (s.reg 0x9B1)

/-- A number of cycles passes; device time runs at its corrected rate. -/
def State.elapse (s : State) (n : Nat) : State :=
  let x := 50 * (n : Int) * s.rate + s.pkg.adjFrac
  if x = 0 then { s with cycle := s.cycle + n, time := s.time + 50 * n, turned := [] }
  else
    let w := s.pkg.slew
    let k := if 0 < w then min (x / 1000000000) w else if w < 0 then max (x / 1000000000) w else x / 1000000000
    { s with cycle := s.cycle + n, time := s.time + ((50 * n : Nat) + k).toNat, turned := [],
             pkg := { s.pkg with slew := if w = 0 then 0 else w - k,
                                 adjFrac := if k = x / 1000000000 then x % 1000000000 else 0 } }

/-- Apply a function to the next state of an outcome. -/
def onNext (o : Res) (f : State → State) : Res :=
  match o with
  | .next s => .next (f s)
  | .fault x => .fault x
  | .refused x => .refused x

/-! ## The choice of a strand (R132 to R134) -/

/-- A strand may take a turn: it runs, an instruction waits at its PC, or it waits for an entry of its log and a class awaits
delivery (R202). -/
def Strand.mayTurn (st : Strand) : Bool :=
  st.unheld.runnable || (st.life == .resident && !st.hostHeld && st.trap.isNone && st.awaiting.isSome
    && (match st.waiting with | .wait _ => true | .entry _ => true | _ => false))

/-- The key of a strand's quadrant. -/
def Strand.quadKey (st : Strand) : Nat := st.core * 4 + st.quad

/-- A strand stands where it stood, and its instruction is to be tried again. -/
def Strand.stands (a b : Strand) : Bool := b.pc == a.pc && b.loops == a.loops && b.hmode == a.hmode && b.unheld.runnable

/-- Branches, calls and LOOP: nothing but the gate holds them, and they may come back to where they stand. -/
def Raw.jumps (r : Raw) : Bool := decide (0x01 ≤ r.op.toNat) && decide (r.op.toNat ≤ 0x07)

/-- An instruction executed in a state was held: no source, destination, log entry, unit or wait let it issue (R132). -/
def State.heldIn (s : State) (sid : Nat) (i : Instr) (t : State) : Bool :=
  match toRaw i with
  | some r => (s.strand sid).gate r r.info == .hold || (!Raw.jumps r && (s.strand sid).stands (t.strand sid))
  | none => false

/-- What a turn of a strand would come to, and whether its instruction is held: the strand is not ready (R132). -/
def State.tryTurn (s : State) (sid : Nat) : Bool × Res :=
  match s.boundary sid with
  | .done t => ((s.strand sid).stands (t.strand sid), .next t)
  | .run i t =>
    match exec i t with
    | .next u => (t.heldIn sid i u, .next u)
    | o => (false, o)

/-- One strand goes before another of its quadrant: by priority, then overdue, then cohort age, then round-robin (R133). -/
def State.goesBefore (s : State) (a b : Strand) : Bool :=
  let prio (st : Strand) : Nat := (s.regionOf st).rcb.prio
  let late (st : Strand) : Bool := match st.readySince with | some t => decide (t + 128 ≤ s.cycle) | none => false
  let age (st : Strand) : Nat := (s.cohort st.cid).age
  let last := kvGet 0 (s.core a.core).lastSlots a.quad
  let turn (st : Strand) : Nat := (st.slot + 15 - last) % 16
  if prio a ≠ prio b then decide (prio b < prio a)
  else if late a ≠ late b then late a
  else if age a ≠ age b then decide (age a < age b)
  else decide (turn a < turn b)

/-- The strands that may take a turn now: of quadrants that have not issued in this cycle, and not found held in it. -/
def State.turners (s : State) : List (Nat × Strand) :=
  s.allStrands.filter (fun p => p.2.mayTurn && decide (p.2.stallUntil ≤ s.cycle) && !s.turned.contains p.2.quadKey)

/-- The other strands of a strand's quadrant that are ready now. -/
def State.rivals (s : State) (sid : Nat) : List Nat :=
  (s.turners.filter (fun p => p.1 != sid && p.2.quadKey == (s.strand sid).quadKey && !(s.tryTurn p.1).1)).map Prod.fst

/-- Each quadrant looks first at a strand that no other of the quadrant goes before. -/
def State.chosen (s : State) : List (Nat × Strand) :=
  let l := s.turners
  l.filter (fun p => !l.any (fun q => q.2.quadKey == p.2.quadKey && q.1 != p.1 && s.goesBefore q.2 p.2))

/-- The next strand: quadrants take turns in each cycle, from the one after the quadrant that issued last. -/
def State.pick (s : State) : Option Nat :=
  let last := (s.strand s.cur).quadKey
  let l := s.chosen
  match l.find? (fun p => decide (last < p.2.quadKey)) with
  | some p => some p.1
  | none => l.head?.map Prod.fst

/-! ## A turn -/

/-- A strand of the quadrant has issued: yielding strands that waited for it wait for one fewer (R141). -/
def State.yieldSeen (s : State) (sid : Nat) : State :=
  forEach s.allStrands s (fun s p =>
    match p.2.waiting with
    | .yield d (some peers) =>
      if peers.contains sid then
        let rest := peers.filter (· != sid)
        s.setStrand p.1 { p.2 with waiting := if rest.isEmpty then .nothing else .yield d (some rest) }
      else s
    | _ => s)

/-- A strand was found held: it is not ready in this cycle, and is looked at again in the next. -/
def State.looked (s : State) (sid : Nat) : State :=
  s.modStrand sid (fun st => { st with stallUntil := max st.stallUntil (s.cycle + 1), readySince := none })

/-- The wait of a strand that has just issued, while some others of its quadrant are ready: a YIELD lets those go first that have
its priority (R141). -/
def State.yielded (s : State) (sid : Nat) (ready : List Nat) : Waiting :=
  match (s.strand sid).waiting with
  | .yield d none => (match s.peersOf sid ready with
      | [] => .nothing
      | l => .yield d (some l))
  | w => w

/-- A strand has issued while some others of its quadrant were ready: its quadrant issues no more in this cycle, and notes the
slot (R133); those that go on being ready keep the cycle from which they have been so. -/
def State.issued (s : State) (sid : Nat) (ready : List Nat) : State :=
  let st := s.strand sid
  let s := (s.setStrand sid { st with readySince := none, waiting := s.yielded sid ready }).modCore st.core
    (fun c => { c with lastSlots := kvSet 0 c.lastSlots st.quad st.slot })
  let since (p : Nat × Strand) : Option Nat :=
    if !ready.contains p.1 then none else if p.2.readySince.isSome then p.2.readySince else some s.cycle
  let s := forEach (s.allStrands.filter (fun p => p.1 != sid && p.2.quadKey == st.quadKey)) (s.yieldSeen sid) (fun s p =>
    s.modStrand p.1 (fun x => { x with readySince := since p }))
  { s with turned := st.quadKey :: s.turned }

/-- Every strand that could take a turn in this cycle, and is ready, has been so from this cycle at the latest; one that is held is not
ready (R132, R133). -/
def State.noteReady (s : State) : State :=
  forEach s.turners s (fun t p => t.modStrand p.1 (fun st =>
    { st with readySince := if (s.tryTurn p.1).1 then none else st.readySince.or (some s.cycle) }))

/-- The strand that issues before another cycle may pass: the first of a quadrant in which one has been ready for 256 cycles (R134). -/
def State.mustIssue (s : State) : Option Nat :=
  let late (p : Nat × Strand) : Bool := match p.2.readySince with | some t => decide (t + 256 ≤ s.cycle + 1) | none => false
  let quads := (s.turners.filter late).map (fun p => p.2.quadKey)
  (s.chosen.find? (fun p => quads.contains p.2.quadKey)).map Prod.fst

/-- A strand takes its turn: it is found held, or it issues unless a ready strand of its quadrant goes before it (R133). -/
def State.issueTurn (s : State) (sid : Nat) : Res :=
  match s.tryTurn sid with
  | (true, o) => onNext o (fun t => t.looked sid)
  | (false, o) =>
    let ready := s.rivals sid
    if ready.any (fun q => s.goesBefore (s.strand q) (s.strand sid)) then .next s
    else onNext o (fun t => t.issued sid ready)

/-! ## Moves -/

/-- Events that carry what an earlier step found: they happen only where that step has made them possible. -/
def carried (i : Instr) : Bool :=
  match i with
  | .epochFlip => true
  | .holdingEndMessage _ _ _ _ => true
  | .llcProbe _ _ => true
  | .llcCounterRead _ _ _ => true
  | .registerWrite (.strand _) _ _ => true
  | .minjWrite (.strand _) _ => true
  | .modeselWrite (.strand _) _ => true
  | .pwrctlWrite (.strand _) _ => true
  | .vsetWrite (.strand _) _ => true
  | .leaselenWrite (.strand _) _ => true
  | .dtsetWrite (.strand _) _ => true
  | _ => false

/-- Whether an event may take place when the schedule names it; each event has its own conditions besides. -/
def State.mayHappen (s : State) (i : Instr) : Bool := (toRaw i).isNone && (!carried i || s.pending.contains i)

/-- How many cycles pass before a quadrant that has issued may issue again: two while the current cap holds (R453). -/
def State.pace (s : State) : Nat := if s.pkg.overCurrent && !s.turned.isEmpty then 2 else 1

/-- The cycle passes: two while the current cap holds, so that a quadrant issues once in two (R453). -/
def State.nextCycle (s : State) : State := s.elapse s.pace

/-- A core cache evicts a line (R380, R412): its dirty bytes are written back first. A copy that must wait to be written back,
or that a lease of this core covers, stays. -/
def State.evict (s : State) (core cache vline : Nat) : State :=
  if cache = 6 then s.modCore core (fun x => { x with icache := x.icache.filter (fun c => c.vline != vline) })
  else
    let mine (c : Copy) : Bool := c.cache == cache && c.vline == vline
    forEach (((s.core core).copies.filter mine).map Copy.pline) s (fun s line =>
      if s.leasedHere core line then s
      else
        let (ok, s) := if cache = 0 then s.writeBack core line else (true, s)
        if ok then s.dropCopies core (fun c => mine c && c.pline == line) else s)

/-- The move is a device reset. -/
def Move.isReset (m : Move) : Bool :=
  match m with
  | .event (.deviceReset _ _) => true
  | _ => false

/-! ## Events whose time has come -/

/-- A tick of logical time (R408) or, when one would reach 2^31, the flip that comes first (R415). -/
def State.tickDue (s : State) : Option Instr :=
  let due := s.cores.filter (fun c => decide (c.2.tickAt + 16 ≤ s.cycle))
  match due.find? (fun c => !wouldFlip (c.2.lt + 1)) with
  | some c => some (.ltTick c.1)
  | none => if due.isEmpty || s.pkg.flipping then none else some .epochFlip

/-- Every dirty byte can be written back now. -/
def State.flipReady (s : State) : Bool :=
  s.cores.all (fun c => c.2.copies.all (fun x => x.dirty == 0
    || (if isHbm (x.pline * 128) then !s.inFilter x.pline else (s.writeBack c.1 x.pline).1)))

/-- An epoch flip that an earlier step called for begins, and one whose leases have ended and whose dirty bytes can be written back is
completed (R415). -/
def State.flipDue (s : State) : Option Instr :=
  if (!s.pkg.flipping && s.pending.contains .epochFlip) || (s.flipHold && s.flipReady) then some .epochFlip else none

/-- A write of a core at a line would set going what it waits for. -/
def State.canNote (s : State) (core line : Nat) : Bool :=
  isHbm (line * 128) && ((s.inFilter line && !s.homes.snooped.contains line)
    || (wouldFlip (s.nextWts line (some core)) && !s.pkg.flipping && !s.pending.contains .epochFlip))

/-- A lease has lasted 4,096 cycles (R167). -/
def State.leaseDue (s : State) : Option Instr :=
  (s.homes.holdings.filterMap (fun p => match p.2 with
    | some h => if h.since + 4096 ≤ s.cycle ∧ (s.strand h.sid).leases.contains p.1 then some (.leaseExpiry h.core p.1) else none
    | none => none)).head?

/-- The end of a holding, with the dirty bytes that its core sends home. -/
def State.endOf (s : State) (line : Nat) (h : Holding) : Instr :=
  .holdingEndMessage h.core line h.ver (match s.l1Of h.core line with | some c => dirtyCells c | none => [])

/-- A lease that has ended has been on its way home for so long that its message arrives, where the home can take it (R167, R412). -/
def State.holdingDue (s : State) : Option Instr :=
  (s.homes.holdings.filterMap (fun p => match p.2 with
    | some h =>
      if h.since + 4096 ≤ s.cycle ∧ !(s.strand h.sid).leases.contains p.1
          ∧ (s.canNote h.core p.1 ∨ !isHbm (p.1 * 128) ∨ !(s.inFilter p.1 || (wouldFlip (s.nextWts p.1 (some h.core)) && !s.pkg.flipping))) then
        some (s.endOf p.1 h)
      else none
    | none => none)).head?

/-- Dirty bytes have stayed in an L1 for 8,192 cycles: they are written back, or what their write-back waits for is set going (R412). -/
def State.writeBackDue (s : State) : Option Instr :=
  (s.cores.flatMap (fun c => c.2.copies.filterMap (fun x =>
    if x.cache = 0 ∧ x.dirty ≠ 0 ∧ x.dirtySince + 8192 ≤ s.cycle
        ∧ !s.leasedHere c.1 x.pline ∧ ((s.writeBack c.1 x.pline).1 ∨ s.canNote c.1 x.pline) then
      some (.l1WriteBack c.1 x.pline)
    else none))).head?

/-- A strand's own timer has run out (R141, R151). -/
def State.strandDue (s : State) : Option Instr :=
  (s.allStrands.filterMap (fun p => match p.2.waiting with
    | .yield d _ => if d ≤ s.cycle then some (.yieldTimeout p.1) else none
    | .join _ (some t) => if t ≤ s.time ∧ p.2.life = .resident then some (.joinTimeout p.1) else none
    | _ => none)).head?

/-- A bin's timer has run out (R143). -/
def State.binDue (s : State) : Option Instr :=
  (s.cores.flatMap (fun c => c.2.bins.filterMap (fun b => match b.2.timer with
    | some t => if t ≤ s.time ∧ b.2.formed.isNone ∧ !b.2.pending.isEmpty then some (.spawnBinTimer c.1 b.1) else none
    | none => none))).head?

/-- A region's shutter or its wait has run out (R362, R364). -/
def State.regionDue (s : State) : Option Instr :=
  (s.allRegions.filterMap (fun p => match p.2.shutAt with
    | some t => if p.2.state = 3 ∧ t ≤ s.time ∧ !p.2.terminating then some (.shutterExpiry p.1) else none
    | none => if s.ages p.2 then some (.ageingStep p.1) else none)).head?

/-- The dispatch engines have an instant, a batch to close or product work to enter (R338, R341). -/
def State.expertDue (s : State) : Option Instr :=
  match [(0, 0), (0, 1), (1, 0), (1, 1)].find? (fun x => s.freshInstant x.1 x.2) with
  | some x => some (.dispatchInstant x.1 x.2)
  | none => match s.windowDue with
    | some x => some (.batchCloseWindow x.1 x.2)
    | none => (s.experts.products.find? (fun p => decide (p.retryAt ≤ s.cycle))).map (fun p => .productSpawnRetry p.lcb p.expert)

/-- The package's own times: the top-up with targets that the model leaves free (R451), the lifetime record (R459), the
contact sheet (R460). -/
def State.packageDue (s : State) : Option Instr :=
  if s.pkg.topupAt < s.ns / 100000 then
    some (.powerTopup (Config.freeValue s.free).toNat (Config.freeValue (s.free + 1)).toNat)
  else if s.pkg.lifeHour < s.hours then some .lifetimeRecord
  else if s.pkg.lastSheet < s.sheetTime then some .contactSheet
  else none

/-- The first of some alternatives. -/
def firstOf (l : List (Option Instr)) : Option Instr := (l.filterMap id).head?

/-- An event whose time has come. -/
def State.due (s : State) : Option Instr :=
  firstOf [s.tickDue, s.flipDue, s.leaseDue, s.holdingDue, s.writeBackDue, s.strandDue, s.binDue, s.regionDue, s.expertDue, s.packageDue]

/-- Cycles pass before a move of the schedule, which stays the next one. No cycle passes while an event's time has come: that event
comes first (R141, R143, R167, R362, R364, R408, R412, R415, R451, R459, R460); and none while a strand has been ready for as long as it
may be (R134). -/
def State.passThen (s : State) (m : Move) (pass : State → State) : Res :=
  let t := { s with agenda := m :: s.agenda }
  match s.due with
  | some i => exec i t
  | none =>
    let s := s.noteReady
    match s.mustIssue with
    | some sid => { s with agenda := m :: s.agenda }.issueTurn sid
    | none => .next (pass s)

/-- A move of the schedule. A strand whose quadrant has issued in this cycle waits for the next one (R133). -/
def State.move (s : State) (m : Move) : Res :=
  match m with
  | .issue sid =>
    if s.turned.contains (s.strand sid).quadKey then s.passThen m (fun s => { s.nextCycle with agenda := m :: s.agenda })
    else if (s.strand sid).mayTurn && decide ((s.strand sid).stallUntil ≤ s.cycle) then s.issueTurn sid else .next s
  | .event i =>
    if s.mayHappen i then exec i { s with pending := s.pending.filter (· != i) } else .next s
  | .elapse 0 => .next s
  | .elapse (n + 1) => s.passThen m (fun s => { s.nextCycle with agenda := .elapse (n + 1 - s.pace) :: s.agenda })
  | .upset u => .next (s.upset u)
  | .evict core cache vline => .next (s.evict core cache vline)
  | .around sid on => .next (s.modStrand sid (fun st => { st with around := on }))
  | .walkAhead sid key k => .next (s.walkAhead sid key k)
  | .counter die pa op => .next (s.counterBy die pa op)
  | .access sid slot => .next (match s.entry sid slot with | some e => s.memRun sid slot e true | none => s)
  | .copyStep core ident => .next (s.goCommand core 1 ident)
  | .image bytes => .next { s with pkg := { s.pkg with nextImage := some bytes } }
  | .bar4 off x => .next { s with pkg := { s.pkg with bar4 := kvSet 0#8 s.pkg.bar4 (off % 65536) x } }

/-! ## Looking again at what waits (log 2) -/

/-- A log entry has something that it can try again: an access to be made, a WAIT that is satisfied and must still end, a counter's
request on its way. -/
def LogEnt.unserved (e : LogEnt) : Bool :=
  e.accs.any (fun a => a.status == 0) || (e.raw.op == 0x9D#8 && e.accs.all (fun a => a.status == 1)) || (0xB0 ≤ e.raw.op.toNat && e.raw.op.toNat ≤ 0xB5 && e.accs.any (fun a => a.status == 5))

/-- Entries of the logs, but for those that the matrix queue serves. -/
def State.retryLogs (s : State) : State :=
  forEach s.allStrands s (fun s p =>
    forEach p.2.log s (fun s q =>
      if q.2.unserved && q.2.raw.op != 0xD0#8 && q.2.raw.op != 0xD5#8 then s.redo p.1 q.1 else s))

/-- Engines and the matrix unit; banks whose window has closed release them (R427). -/
def State.retryEngines (s : State) : State :=
  let s := s.push (.wsRefreshWindow (s.wsref % 16) false)
  (s.pokeEngines 0).pokeEngines 1

/-- A strand that was swapped out has nothing more to wait for, or must look again. -/
def State.mayRestore (s : State) (st : Strand) : Bool :=
  st.life == .swapped && (st.waiting == .nothing || st.awaiting.isSome
    || (match st.waiting with
      | .join _ t => (s.joinResult st).isSome || (match t with | some t => decide (t ≤ s.time) | none => false)
      | _ => false))

/-- Strands: traps to enter, swap-outs and restores, guards of strands that have ended. -/
def State.retryStrands (s : State) : State :=
  forEach s.allStrands s (fun s p =>
    let st := p.2
    if st.waiting = .trap ∧ s.drained p.1 then s.push (.trapEntry p.1)
    else if s.mayRestore st then s.push (.strandRestore p.1)
    else if s.leaves p.1 then s.push (.swapOut p.1)
    else if st.life = .ended ∧ (st.guards ≠ [] ∨ st.leases ≠ []) then s.releaseEnded p.1
    else s)

/-- Cores: formed strands. -/
def State.retryBins (s : State) : State :=
  forEach s.cores s (fun s c => forEach c.2.bins s (fun s b =>
    if b.2.formed.isSome then s.push (.spawnResidency c.1 b.1) else s))

/-- Homes: writes of the device itself, guard queues, ends of leases on their way, writes to the host, an epoch flip. -/
def State.retryHomes (s : State) : State :=
  let s := s.flushDev
  let s := forEach s.homes.guardQ s (fun s q => s.push (.guardGrant q.1))
  let s := forEach s.homes.holdings s (fun s p => match p.2 with
    | some h =>
      if (s.strand h.sid).leases.contains p.1 then s
      else s.push (s.endOf p.1 h)
    | none => s)
  let s := if s.homes.goQueue.isEmpty then s else s.push .hostGoReceipt
  if s.pkg.flipping then s.push .epochFlip else s

/-- Regions that are ending, and records to be written. -/
def State.retryRegions (s : State) : State :=
  (forEach s.allRegions s (fun s p =>
    if p.2.ending.isSome then s.settle p.1
    else if p.2.sheeting && s.sheetReady p.1 then s.push (.contactSheetWrite p.1)
    else s)).flushRecords.pushPlacement

/-- Parked work. -/
def State.retryParked (s : State) : State :=
  forEach s.parked { s with parked := [] } (fun s l => match l with
    | .repair who ws => s.repair who ws
    | .growth sid slot n ws => s.growHeap sid slot n ws
    | .counter pa ident op => s.ctrActs pa ident op
    | .window page cmd rcb => s.windowApply page cmd rcb
    | .ctxkill asid => s.killContext asid
    | .tlbinv sel asid base len => s.hostInval sel asid base len
    | .hostWrite addr bytes => s.hostStore addr bytes
    | .hostRead addr len => s.hostLoad addr len
    | .reply line bytes => s.hostReply line bytes
    | .topup die target => s.topupAgain die target
    | .flit f => s.flitAgain f)

/-- Counters: leave that ended commands have still to give back, and returns of entries on their way (R259, R282). -/
def State.retryCounters (s : State) : State :=
  forEach s.cores s (fun s c => forEach (c.2.allow.filter Allow.returning) (s.flushGives c.1) (fun s a =>
    s.push (a.back c.1)))

/-- The fabric: rebuilds whose spacing has ended. -/
def State.retryFabric (s : State) : State :=
  forEach s.fabric.rebuilds s (fun s r =>
    if kvGet 0 s.fabric.rebuildAt r.1 ≤ s.ns then s.push (.rebuildSpacingEnd r.1) else s)

/-- Everything that waits is looked at again. -/
def State.retry (s : State) : State :=
  let s := { s with retried := s.cycle / 64 }
  s.retryParked.retryLogs.retryStrands.retryBins.retryHomes.retryRegions.retryCounters.retryFabric.fwFlush.retryEngines

/-- An event that an earlier step made possible takes place. -/
def State.serve (s : State) (i : Instr) (t : List Instr) : Res :=
  exec i { s with pending := t, served := if t.isEmpty then s.cycle / 8 else s.served }

/-- Nothing is possible but what time brings: an event whose time has come, a look at everything that waits, a strand, or
the next cycle. -/
def State.rest (s : State) (next : Option Nat) : Res :=
  match s.due with
  | some i => exec i s
  | none =>
    if s.retried < s.cycle / 64 then .next s.retry
    else match next with
      | some sid => { s with served := if s.pending.isEmpty then s.cycle / 8 else s.served }.issueTurn sid
      | none => .next s.nextCycle

/-- The machine moves by itself: events that earlier steps made possible happen when no strand can issue, and at the latest
with the next multiple of 8 cycles. -/
def State.auto (s : State) : Res :=
  let next := s.pick
  match s.pending with
  | i :: t => if next.isNone || decide (s.served < s.cycle / 8) then s.serve i t else s.rest next
  | [] => s.rest next

/-- An access takes its place among those of an entry, which stand in ascending thread order (R470). -/
def placeAcc (x : Acc) (accs : List Acc) : List Acc :=
  accs.takeWhile (fun a => decide (a.thread ≤ x.thread)) ++ x :: accs.dropWhile (fun a => decide (a.thread ≤ x.thread))

/-- A store that its home has refused is deferred (R174, R199): it joins the entry of its instruction, or takes one as soon as
there is room. One whose strand has ended goes to the host. -/
def State.deferStore (s : State) (a : Author) : State :=
  let st := s.strand a.sid
  let x := s.failAcc (newAcc a.thread a.va a.size a.data true) clsProt
  if st.life = .ended then s.trapRecord a.sid clsProt a.pc a.va
  else match st.log.find? (fun p => p.2.seq == a.seq && p.2.pc == a.pc), st.freeSlot with
    | some p, _ => (s.putEntry a.sid p.1 { p.2 with accs := placeAcc x p.2.accs }.refresh).askTriage clsProt
    | none, some slot =>
      let e : LogEnt := { newEntry st a.raw a.seq [x] with pc := a.pc, amask := a.amask }
      (s.putEntry a.sid slot e.refresh).askTriage clsProt
    | none, none => { s with homes := { s.homes with refused := s.homes.refused ++ [a] } }

/-- What a step has left to be looked at: writes at whose monitors nobody has looked (R168), stores that a home has refused, entries of the
negative that wait (R461). -/
def State.attend (s : State) : State :=
  let s := s.attendWrites
  let s := forEach s.homes.refused { s with homes := { s.homes with refused := [] } } State.deferStore
  if s.homes.negQ.isEmpty then s else s.negFlush

/-- One step: the schedule's next move, else the machine's own. -/
def State.turn (s : State) : Res :=
  match s.agenda with
  | m :: t => if s.pkg.halted && !m.isReset then .fault .packageDown else onNext ({ s with agenda := t }.move m) State.attend
  | [] => if s.pkg.halted then .fault .packageDown else onNext s.auto State.attend

/-! ## Loading a program (log 7) -/

/-- A strand of a system region, fresh from creation (R39), for a program that is loaded from outside. -/
def loaderStrand : Strand :=
  { Strand.empty with life := .resident, allot := 128, pc := 0x400000#56, amask := BitVec.allOnes 64,
                      vregs := (natsFrom 1 63).map (fun t => (t, BitVec.ofNat 32 t)) }

/-- The strand whose turn comes next: its quadrant has not issued in this cycle, and no other strand of it is looked at. -/
def State.favour (s : State) (sid : Nat) : State :=
  let st := s.strand sid
  let s := forEach (s.allStrands.filter (fun p => p.1 != sid && p.2.quadKey == st.quadKey)) s (fun s p =>
    s.modStrand p.1 (fun x => { x with stallUntil := s.cycle + 1 }))
  { s.setStrand sid { st with stallUntil := 0 } with cur := sid, turned := s.turned.filter (· != st.quadKey) }

/-- The machine holds a strand that the next step can run; otherwise strand 0 of cohort 0 of region 0 stands ready. -/
def State.withRunner (s : State) : State :=
  let st := s.strand s.cur
  if st.runnable && st.awaiting.isNone && st.atJoin == st && 0 < st.allot && st.amask != 0 && (s.regionOf st).state == 2 then
    s.favour s.cur
  else
    let s := s.setStrand 0 loaderStrand
    let s := s.setCohort 0 { Cohort.empty with alive := true, strands := [0] }
    let s := s.setRegion 0 { Region.empty with state := 2, rcb := { Rcb.empty with prio := 7, allot := 128, gx := 1, gy := 1, gz := 1 },
                                               nextt := 1, owner := true }
    s.favour 0

/-- Put instruction bytes where a strand fetches them: the lines of its core's instruction cache that hold its PC. -/
def State.putCode (s : State) (sid va : Nat) (bs : List Byte) : State :=
  let w := s.who sid
  let line (s : State) (vl : Nat) : State :=
    let old := match (s.core w.core).icache.find? (fun c => c.asid == w.asid && c.vline == vl) with
      | some c => c
      | none => { asid := w.asid, vline := vl, pline := vl % 2 ^ 31, perms := 0x1F, data := List.replicate 128 0#8 }
    let data := (nats 128).map (fun i =>
      let a := (vl * 128 + i + 2 ^ 56 - va) % 2 ^ 56
      if a < bs.length then listAt 0 bs a else listAt 0 old.data i)
    let new : ICopy := { old with data := data, perms := 0x1F }
    s.modCore w.core (fun x => { x with icache := new :: x.icache.filter (fun c => !(c.asid == w.asid && c.vline == vl)) })
  forEach (dedup [] [va / 128, (va + 11) % 2 ^ 56 / 128]) s line

end Sys2Proof.Machine
end

