-- ==== Sys2Proof/Machine/Step.lean ====
section
/-! DEFINITION. One step of the machine, and the loading of one instruction where the next step runs it. -/

namespace Sys2Proof.Machine

/-- One step. -/
def step (s : State) : Host.Outcome State Fault Refusal := s.turn

/-- The state with an instruction stored where the next step fetches and runs it (log 7): its bits numbered as
spec/opcode_table.json numbers them, those at and above nbits 0. -/
def State.withFetchWord (s : State) (nbits w : Nat) : State :=
  let s := s.withRunner
  let s := s.putCode s.cur (s.strand s.cur).pc.toNat (wordBytes (tableWords nbits w))
  { s with agenda := [.issue s.cur], pkg := { s.pkg with halted := false } }

end Sys2Proof.Machine
end

