-- ==== Sys2Proof/WellFormed.lean ====
section
/-! DEFINITION. Which instructions are well formed: the field values that the decoder accepts (R57 to R63 and the
misuse tables of the entries), each constructor with the selector of its own row. Events of the machine have no
encoding and are not well formed as instructions. -/

namespace Sys2Proof

/-- The selector field that tells rows of one opcode apart has the value of this constructor's row. -/
def Instr.selectorOk (i : Instr) : Bool :=
  match i with
  | .prefL1 o => decide (o.f = 0#3)
  | .prefLlc o => decide (o.f = 1#3)
  | .cleanL1 o => decide (o.f = 0#3)
  | .cleanMem o => decide (o.f = 1#3)
  | .dropL1 o => decide (o.f = 0#3)
  | .dropLlc o => decide (o.f = 1#3)
  | .barArrive o => decide (o.f = 0#3)
  | .barWait o => decide (o.f = 1#3)
  | .barSync o => decide (o.f = 2#3)
  | .barExpect o => decide (o.f = 3#3)
  | .fenceAcq o => decide (o.f = 1#3)
  | .fenceRel o => decide (o.f = 2#3)
  | .fenceAr o => decide (o.f = 3#3)
  | .acqX o => decide (o.f = 0#3)
  | .acqSh o => decide (o.f = 1#3)
  | .ctinitQ o => decide (o.f = 0#3 ∨ o.f = 4#3)
  | .ctinitR o => decide (o.f = 1#3 ∨ o.f = 5#3)
  | .ctinitExt o => decide (o.f = 2#3)
  | .cttakeQ o => decide (o.f = 0#3)
  | .cttakeR o => decide (o.f = 1#3)
  | .mepiRoute o => decide (o.af = 3#4)
  | .mepi o => decide (o.af ≠ 3#4)
  | .mtopkAcc o => decide (o.f = 0#3)
  | .mtopkClr o => decide (o.f = 1#3)
  | .mtopkOut o => decide (o.f = 2#3)
  | .mchk o => decide (o.f = 0#3)
  | .mchkClr o => decide (o.f = 1#3)
  | .mchkRst o => decide (o.f = 2#3)
  | .xdisp o => decide (o.xmod.getLsbD 0 = false)
  | .xdispB o => decide (o.xmod.getLsbD 0 = true)
  | .xcomb o => decide (o.xmod.getLsbD 0 = false)
  | .xcombB o => decide (o.xmod.getLsbD 0 = true)
  | .tlbinvRange o => decide (o.sel = 0#12)
  | .tlbinvAsid o => decide (o.sel = 1#12)
  | .tlbinvAll o => decide (o.sel = 2#12)
  | .nop _ => true
  | .braW1b _ => true
  | .bra _ => true
  | .brc _ => true
  | .brx _ => true
  | .callW1b _ => true
  | .call _ => true
  | .callx _ => true
  | .ret _ => true
  | .loop _ => true
  | .exit _ => true
  | .yield _ => true
  | .spawn _ => true
  | .launch _ => true
  | .join _ => true
  | .trap _ => true
  | .rett _ => true
  | .dbg _ => true
  | .addW1a _ => true
  | .add _ => true
  | .subW1a _ => true
  | .sub _ => true
  | .mulW1a _ => true
  | .mul _ => true
  | .mulhW1a _ => true
  | .mulh _ => true
  | .madW1a _ => true
  | .mad _ => true
  | .divW1a _ => true
  | .divOp _ => true
  | .remW1a _ => true
  | .remOp _ => true
  | .minW1a _ => true
  | .minOp _ => true
  | .maxW1a _ => true
  | .maxOp _ => true
  | .absW1a _ => true
  | .absOp _ => true
  | .andW1a _ => true
  | .andOp _ => true
  | .orW1a _ => true
  | .orOp _ => true
  | .xorW1a _ => true
  | .xorOp _ => true
  | .andnW1a _ => true
  | .andn _ => true
  | .shlW1a _ => true
  | .shl _ => true
  | .shrW1a _ => true
  | .shr _ => true
  | .sarW1a _ => true
  | .sar _ => true
  | .rolW1a _ => true
  | .rol _ => true
  | .popcW1a _ => true
  | .popc _ => true
  | .clzW1a _ => true
  | .clz _ => true
  | .brevW1a _ => true
  | .brev _ => true
  | .bfxW1a _ => true
  | .bfx _ => true
  | .bfiW1a _ => true
  | .bfi _ => true
  | .permW1a _ => true
  | .perm _ => true
  | .lea _ => true
  | .cmp _ => true
  | .sel _ => true
  | .movW1a _ => true
  | .mov _ => true
  | .moviW1i _ => true
  | .movi _ => true
  | .movsW1a _ => true
  | .movs _ => true
  | .csrr _ => true
  | .csrw _ => true
  | .faddW1a _ => true
  | .fadd _ => true
  | .fsubW1a _ => true
  | .fsub _ => true
  | .fmulW1a _ => true
  | .fmul _ => true
  | .ffmaW1a _ => true
  | .ffma _ => true
  | .fminW1a _ => true
  | .fmin _ => true
  | .fmaxW1a _ => true
  | .fmax _ => true
  | .fcmpW1a _ => true
  | .fcmp _ => true
  | .fclassW1a _ => true
  | .fclass _ => true
  | .frcpW1a _ => true
  | .frcp _ => true
  | .frsqW1a _ => true
  | .frsq _ => true
  | .fsqrtW1a _ => true
  | .fsqrt _ => true
  | .fexp2W1a _ => true
  | .fexp2 _ => true
  | .flog2W1a _ => true
  | .flog2 _ => true
  | .frndW1a _ => true
  | .frnd _ => true
  | .cvtW1a _ => true
  | .cvt _ => true
  | .shfl _ => true
  | .vote _ => true
  | .ballot _ => true
  | .redx _ => true
  | .scan _ => true
  | .matchOp _ => true
  | .ld _ => true
  | .st _ => true
  | .ldl _ => true
  | .stl _ => true
  | .lock _ => true
  | .unlock _ => true
  | .atom _ => true
  | .atoml _ => true
  | .lease _ => true
  | .unlease _ => true
  | .wait _ => true
  | .gbind _ => true
  | .rel _ => true
  | .kopen _ => true
  | .knext _ => true
  | .kseek _ => true
  | .ksetp _ => true
  | .kdesc _ => true
  | .kcoit _ => true
  | .ksplit _ => true
  | .kcrd _ => true
  | .kpos _ => true
  | .kval _ => true
  | .kapp _ => true
  | .kapm _ => true
  | .kclose _ => true
  | .kmov _ => true
  | .ctgive _ => true
  | .ctread _ => true
  | .ctpeek _ => true
  | .ctdrop _ => true
  | .mfill _ => true
  | .mldw _ => true
  | .mswap _ => true
  | .mmul _ => true
  | .mzero _ => true
  | .mrd _ => true
  | .mwr _ => true
  | .mldt _ => true
  | .xcopy _ => true
  | .xstore _ => true
  | .xgather _ => true
  | .xscat _ => true
  | .xmcast _ => true
  | .icinv _ => true
  | .mark _ => true
  | .yieldTimeout _ => false
  | .spawnBinTimer _ _ => false
  | .spawnResidency _ _ => false
  | .joinTimeout _ => false
  | .divisionComplete _ _ => false
  | .transcendentalComplete _ _ => false
  | .loadDataArrival _ _ => false
  | .atomicAtHome _ _ => false
  | .leaseGrant _ _ => false
  | .leaseExpiry _ _ => false
  | .swapOut _ => false
  | .strandRestore _ => false
  | .guardGrant _ => false
  | .writePerformed _ _ => false
  | .strongReadAtHome _ _ => false
  | .l1WriteBack _ _ => false
  | .trapEntry _ => false
  | .triageRepair _ _ => false
  | .triageReturn _ => false
  | .heapGrowth _ _ _ => false
  | .homeCtinit _ _ _ => false
  | .homeQuantityTake _ _ _ => false
  | .homeRangeTake _ _ _ => false
  | .counterRecall _ _ => false
  | .giveFlush _ _ _ => false
  | .exactRead _ _ _ => false
  | .counterReturn _ _ _ _ => false
  | .matrixEntryStart _ _ => false
  | .matrixCompletion _ _ => false
  | .powerLeaveRetry _ _ => false
  | .copyCommandStart _ _ => false
  | .copyTileReturn _ _ _ => false
  | .dispatchRecord _ _ => false
  | .dispatchInstant _ _ => false
  | .batchCloseWindow _ _ => false
  | .productSpawnRetry _ _ => false
  | .hostTlbinv _ _ _ _ => false
  | .cohortPlacement _ => false
  | .windowLaunch _ _ _ => false
  | .windowPreempt _ _ _ => false
  | .windowKill _ _ _ => false
  | .windowResume _ _ _ => false
  | .windowFault _ _ _ => false
  | .preemptDrainComplete _ => false
  | .shutterExpiry _ => false
  | .ageingStep _ => false
  | .ctxkillWrite _ => false
  | .pageWalk _ _ _ => false
  | .hostTranslationAnswer _ _ _ _ => false
  | .llcFill _ => false
  | .llcProbe _ _ => false
  | .llcCounterRead _ _ _ => false
  | .copyRenewal _ _ _ _ => false
  | .ltTick _ => false
  | .epochFlip => false
  | .safelightEntry _ => false
  | .safelightWake _ => false
  | .holdingEndMessage _ _ _ _ => false
  | .hostSnoop _ => false
  | .hostMemRead _ _ => false
  | .hostMemWrite _ _ => false
  | .hostGoReceipt => false
  | .hostSharedFill _ _ _ _ => false
  | .mgmtWindowAccess _ _ _ => false
  | .registerWrite _ _ _ => false
  | .minjWrite _ _ => false
  | .modeselWrite _ _ => false
  | .pwrctlWrite _ _ => false
  | .vsetWrite _ _ => false
  | .leaselenWrite _ _ => false
  | .dtsetWrite _ _ => false
  | .hbmerrRead _ => false
  | .atnonceWrite _ _ => false
  | .attestationReport => false
  | .wsRefreshWindow _ _ => false
  | .hbmPatrolScrub _ _ => false
  | .flitRead _ => false
  | .flitWrite _ => false
  | .flitCompletion _ => false
  | .flitContribution _ => false
  | .flitDelivery _ => false
  | .flitPtp _ => false
  | .flitAck _ => false
  | .flitNak _ => false
  | .portRetrain _ => false
  | .memberFailure _ => false
  | .powerTopup _ _ => false
  | .currentCap _ => false
  | .thermalThrottle _ => false
  | .thermalTrip => false
  | .deviceReset _ _ => false
  | .uzoipDiscardedAccess _ _ => false
  | .lifetimeRecord => false
  | .contactSheet => false
  | .contactSheetWrite _ => false
  | .crcFailedFlit _ => false
  | .lossOfPower => false
  | .bisnpReply _ _ => false
  | .ptpMessageTimer _ _ => false
  | .rebuildSpacingEnd _ => false

/-- An instruction whose fields the decoder accepts and whose selector is its row's. -/
def Instr.wf (i : Instr) : Bool :=
  match toRaw i with
  | none => false
  | some r => (rawCheck r).isNone && i.selectorOk

end Sys2Proof
end

