-- ==== Sys2Proof/Safety.lean ====
section
/-! DEFINITION. What the statements about the machine are said in: when an instruction issues, what its next turn runs,
and what every step keeps. -/

namespace Sys2Proof.Machine

/-- The instruction with these fields passes steps 6 and 7 of R67 and the waits of R29 and R198 in the strand whose turn it
is: its registers lie inside the allotment, the ones it needs are full, the operand log has room where it takes an entry,
and no uncorrectable error struck a register it reads. -/
def Ready (s : State) (r : Raw) : Prop := (s.strand s.cur).gate r r.info = .go

/-- The strand whose turn it is. -/
def State.me (s : State) : Strand := s.strand s.cur

/-- Memory stands in its canonical form. -/
abbrev State.memoryOk (s : State) : Prop := s.mem.wf = true

/-- Nothing but the strand whose turn it is differs between two states. -/
def OnlyMe (s t : State) : Prop := ∃ x, t = s.setStrand s.cur x

/-- Registers that two strands have alike: every vector register but those of one list, every uniform register but those
of another, and every cursor and index register. -/
def SameRegs (x y : Strand) (vs ss : List Nat) : Prop :=
  (∀ n t, t < 64 → n ∉ vs → y.v n t = x.v n t) ∧ (∀ n, n ∉ ss → y.s n = x.s n) ∧ y.curs = x.curs ∧ y.jidx = x.jidx

/-- What no instruction of the arithmetic, floating and cross-lane families touches in its strand: the active threads and
the divergence stack, the mode, the operand log, leases and guards, and everything that places the strand. -/
def SameControl (x y : Strand) : Prop :=
  y.amask = x.amask ∧ y.divs = x.divs ∧ y.hmode = x.hmode ∧ y.log = x.log ∧ y.frm = x.frm ∧ y.leases = x.leases
    ∧ y.guards = x.guards ∧ y.life = x.life ∧ y.waiting = x.waiting ∧ y.trap = x.trap ∧ y.rid = x.rid ∧ y.cid = x.cid
    ∧ y.core = x.core ∧ y.allot = x.allot ∧ y.llcslsel = x.llcslsel ∧ y.llcprba = x.llcprba ∧ y.joins = x.joins

/-- The strand has gone on to the next instruction: past the instruction's words, or back to the start of a loop that ends
there (R127). -/
def GoneOn (x y : Strand) (r : Raw) : Prop := y.pc = (x.next r.bytes).pc ∧ y.loops = (x.next r.bytes).loops

/-- A value of each executing thread has reached the destination D, and no other register has changed: with U = 1 uniform
register D, extended as R91 says (s0 discards it, R20); else vector register D, or the pair D and D + 1, of every active thread. -/
def Delivers (x y : Strand) (r : Raw) (wide : Bool) (val : Nat → Nat) : Prop :=
  (if r.uniform r.info then
      (r.d.toNat ≠ 0 → y.s r.d.toNat = if wide then val x.lowest % 2 ^ 64
        else if r.ty = 0 then wrapN 64 (sInt 32 (val x.lowest)) else val x.lowest % 2 ^ 32)
      ∧ SameRegs x y [] [r.d.toNat]
    else
      (∀ t ∈ x.active, y.v (x.eff r r.d.toNat) t = val t % 2 ^ 32
        ∧ (wide = true → y.v (x.eff r r.d.toNat + 1) t = val t / 2 ^ 32 % 2 ^ 32))
      ∧ (∀ n t, t < 64 → t ∉ x.active → y.v n t = x.v n t)
      ∧ SameRegs x y (if wide then [x.eff r r.d.toNat, x.eff r r.d.toNat + 1] else [x.eff r r.d.toNat]) [])
  ∧ y.preds = x.preds ∧ SameControl x y ∧ GoneOn x y r

/-- A truth value of each active thread has reached predicate D, and nothing else of the registers has changed; p7 discards
it (R20). -/
def DeliversPred (x y : Strand) (r : Raw) (cond : Nat → Bool) : Prop :=
  (r.d.toNat ≠ 7 → ∀ t ∈ x.active, bit (y.p r.d.toNat) t = cond t)
  ∧ (∀ n t, t < 64 → (n ≠ r.d.toNat ∨ t ∉ x.active) → bit (y.p n) t = bit (x.p n) t)
  ∧ SameRegs x y [] [] ∧ SameControl x y ∧ GoneOn x y r

/-- An instruction completes: it answers a next state in which nothing but the strand whose turn it is has changed, a value of
each executing thread has reached its destination, and flags are merged into FSTAT (R34). -/
def CompletesWith (o : Res) (s : State) (r : Raw) (wide : Bool) (val : Nat → Nat) (flags : Nat) : Prop :=
  ∃ t, o = .next t ∧ OnlyMe s t ∧ t.me.fstat = s.me.fstat ||| BitVec.ofNat 5 flags ∧ Delivers s.me t.me r wide val

/-- An instruction completes with a truth value in predicate D of each active thread, and sets no flag. -/
def CompletesWithPred (o : Res) (s : State) (r : Raw) (cond : Nat → Bool) : Prop :=
  ∃ t, o = .next t ∧ OnlyMe s t ∧ t.me.fstat = s.me.fstat ∧ DeliversPred s.me t.me r cond

end Sys2Proof.Machine
end

