-- ==== Sys2Proof/Certificates/Slice0/Obligations.lean ====
section
/-! DEFINITION. The statements for the provers. Each says which rules of the manual it rests on, and what of it is a choice
of the model, with the log entry. -/

open Sys2Proof Sys2Proof.Machine

/-! ## Encoding -/

/-- Words written out bit by bit from the encodings of the manual (worked encodings of chapter 3, and R46 to R56) decode to
the instructions they stand for. -/
def Obligations.WrittenOutWordsDecode : Prop :=
  decodeTableWord 32 0x00003800 = some (.nop ⟨0, 0, 0, 7, 0⟩)
  ∧ decodeTableWord 32 0x00003840 = some (.exit ⟨0, 0, 0, 7, 0⟩)
  ∧ decodeTableWord 32 0xFFE03808 = some (.braW1b ⟨0x1FFC0, 7, 0⟩)
  ∧ decodeTableWord 64 (0x0102BB19 + 2 ^ 32 * 0x00600206) = some (.ffma ⟨0, 4, 5, 7, 0, 0, 1, 8, 0, 0, 4, 6, none⟩)
  ∧ decodeTableWord 64 (0x01829489 + 2 ^ 32 * 0x10200280) = some (.st ⟨0, 6, 5, 2, 0, 0x40, 8, 0, 0, 0, 0, 2, 1, 0, none⟩)
  ∧ decodeTableWord 64 (0x0046BC8D + 2 ^ 32 * 0x280C1000) = some (.st ⟨0, 1, 13, 7, 1, 0xA0, 3, 0, 0, 1, 0, 0, 0, 0, none⟩)
  ∧ decodeTableWord 64 (0x01823D89 + 2 ^ 32 * 0x000C0000) = some (.cttakeQ ⟨0, 6, 4, 7, 0, 0, 3, 0, 0, 0, 0, 0, 0, 0, none⟩)
  ∧ decodeTableWord 64 (0x0204BE99 + 2 ^ 32 * 0x0504060A) = some (.mmul ⟨0, 8, 9, 7, 0, 0, 0, 10, 16, 12, 10, none⟩)

/-- For every well-formed instruction: its words, with anything after them, decode to it and leave the rest. Events of the
machine have no encoding, and no event is well formed (R41 to R66). -/
def Obligations.EncodeThenDecode : Prop :=
  ∀ (i : Instr) (rest : List Byte), i.wf = true → decode (wordBytes (encode i) ++ rest) = .ok (i, rest)

/-- Every instruction that three words decode to is well formed, and its words are those it came from: no bit of an
instruction is dropped and no two words are one instruction (R41, R46 to R56). -/
def Obligations.DecodeThenEncode : Prop :=
  ∀ (w0 w1 w2 : BitVec 32) (i : Instr), decodeWords w0 w1 w2 = .ok i →
    i.wf = true ∧ encode i = [w0, w1, w2].take (lenBytes w0 / 4)

/-- LEN = 11 is the illegal instruction with info code 1 whatever the other bits hold (R42, step 2 of R67); an unassigned
OP is it with code 2 (R66, step 4 of R67), 0xFF among them; and the all-zero word traps with code 4. -/
def Obligations.ReservedWordsAreIllegal : Prop :=
  (∀ w0 w1 w2 : BitVec 32, w0.extractLsb' 0 2 = 3#2 → decodeWords w0 w1 w2 = .error (.illegal 1))
  ∧ (∀ w0 w1 w2 : BitVec 32, w0.extractLsb' 0 2 ≠ 3#2 → opInfo (w0.extractLsb' 3 8).toNat = none →
      decodeWords w0 w1 w2 = .error (.illegal 2))
  ∧ opInfo 0xFF = none
  ∧ ∀ w1 w2 : BitVec 32, decodeWords 0#32 w1 w2 = .error (.illegal 4)

/-- R57: only SEL, ST, STL, BRA, BRC, BRX, CALL, CALLX, ATOM and ATOML take a guard; every other instruction requires
G = 0111, and with another G it is the illegal instruction. With G = 1111 a guarded instruction affects no thread: no
active thread's guard holds (R9). -/
def Obligations.OnlyTheListedTakeAGuard : Prop :=
  (∀ (w0 w1 w2 : BitVec 32) (i : Instr), decodeWords w0 w1 w2 = .ok i → w0.extractLsb' 11 4 ≠ 7#4 →
    match i with
    | .sel _ | .st _ | .stl _ | .braW1b _ | .bra _ | .brc _ | .brx _ | .callW1b _ | .call _ | .callx _ | .atom _ | .atoml _ => True
    | _ => False)
  ∧ (∀ (w0 w1 w2 : BitVec 32) (i : Instr) (g : BitVec 4), decodeWords w0 w1 w2 = .ok i →
      (match i with
        | .sel _ | .st _ | .stl _ | .braW1b _ | .bra _ | .brc _ | .brx _ | .callW1b _ | .call _ | .callx _ | .atom _ | .atoml _ => True
        | _ => False) →
      ∃ j, decodeWords (w0.extractLsb' 15 17 ++ g ++ w0.extractLsb' 0 11) w1 w2 = .ok j)
  ∧ (∀ st : Strand, st.guarded 15#4 = [])

/-! ## Reset and the step -/

/-- Right after reset: device time is 0 (R445), no strand, cohort or region exists, no line is in the LLC, no translation
is held, the weight store reads 0 (R424), and each privileged register that the manual gives a reset value reads it: LEASELEN
256 (R414), PTPCTL with its priorities 128 and SPORT 15 (R446), PWRCTL with BUDGET 1,600 and VSET 400 (R452); CSHHEAD is all
ones (R460). The registers the manual gives no reset value, and so every other register here, read 0: that is the model's
choice (log 3), as is that no byte of memory is listed (log 4). -/
def Obligations.ResetLeaves : Prop :=
  State.reset.time = 0 ∧ State.reset.strands = [] ∧ State.reset.cohorts = [] ∧ State.reset.regions = []
  ∧ State.reset.homes.tags = [] ∧ State.reset.xlate.dieTlb = [] ∧ State.reset.xlate.cluster = [] ∧ State.reset.pkg.wstore = []
  ∧ State.reset.reg 0x969 = 256 ∧ bits (State.reset.reg 0x9B0) 27 24 = 15
  ∧ bits (State.reset.reg 0x9B0) 23 16 = 128 ∧ bits (State.reset.reg 0x9B0) 15 8 = 128 ∧ bits (State.reset.reg 0x9B0) 7 0 = 0 ∧ State.reset.reg 0xA00 % 65536 = 1600
  ∧ State.reset.reg 0xA02 = 400 ∧ State.reset.reg 0xA38 = 2 ^ 32 - 1
  ∧ (∀ n, n ∉ [0x969, 0x9B0, 0xA00, 0xA02, 0xA38] → State.reset.reg n = 0)
  ∧ (∀ a, State.reset.byteAt a = 0#8)

/-- Memory at reset stands in its canonical form: addresses strictly rising, and no entry equal to what an unlisted address
reads as. The form is the model's own (log 4). -/
def Obligations.ResetMemoryIsCanonical : Prop := State.reset.memoryOk

/-- Every step keeps the canonical form of memory, whatever it runs: an instruction, an event of the machine, a trap entry,
a write-back, an eviction, the passing of time or a device reset. The form is the model's own (log 4); it is what makes equal
memories equal data. -/
def Obligations.StepKeepsMemoryCanonical : Prop :=
  ∀ s t : State, s.memoryOk → step s = .next t → t.memoryOk

/-- Every instruction and every event of the table answers a next state, from every state: none stops with a fault or a
refusal. A trap is a next state too (R201). -/
def Obligations.EveryInstructionAnswers : Prop :=
  ∀ (i : Instr) (s : State), ∃ t, exec i s = .next t

/-- When the words at the program counter of the strand whose turn comes decode to an instruction, no class awaits delivery at this
boundary (R201), and no ready strand of its quadrant goes before it (R133), the step is exec of that instruction, from the state
that threads rejoining (R125) and the fetch (R41 to R45) leave; a path without active threads gives way first (R125), and a LAUNCH that
waits in the log for an older access whose class is to be delivered counts as not issued (R201). Where the instruction was held, the strand is looked at again in the
next cycle (R132); else its turn is booked: the quadrant has issued in this cycle, and its other ready strands are noted (R133,
R141). Writes that monitors have still to see and stores that a home has refused are looked at last (R168, R174). Which strand's
turn comes is the schedule's choice (log 2). -/
def Obligations.StepRunsTheDecodedInstruction : Prop :=
  ∀ (s s1 t : State) (sid : Nat) (rest : List Move) (w0 w1 w2 : BitVec 32) (i : Instr),
    let now : State := { s with agenda := rest }
    let here := now.unlaunch sid
    let st := (here.strand sid).unheld.atJoin
    s.agenda = .issue sid :: rest → s.pkg.halted = false → (s.strand sid).mayTurn = true → (s.strand sid).stallUntil ≤ s.cycle →
    s.turned.contains (s.strand sid).quadKey = false → st.amask ≠ 0 → st.awaiting = none →
    ({ here.setStrand sid st with cur := sid }).fetchInstr sid st.pc.toNat = (.ok w0 w1 w2, s1) →
    decodeWords w0 w1 w2 = .ok i → exec i s1 = .next t →
    (∀ q ∈ now.rivals sid, now.goesBefore (now.strand q) (now.strand sid) = false) →
    step s = .next (if s1.heldIn sid i t then t.looked sid else t.issued sid (now.rivals sid)).attend

/-- A word in a line that the instruction cache of the core holds for the strand's context is read from there (R45): the four
bytes at the address, little-endian (R7, R41), and fetching changes nothing; a line filled through a page that the strand may
not execute faults (R380). -/
def FetchReadsTheInstructionCache : Prop :=
  ∀ (s : State) (sid va : Nat) (c : ICopy),
    (s.core (s.strand sid).core).icache.find? (fun c => c.asid == s.asidOf (s.strand sid) && c.vline == va / 128) = some c →
    s.fetchWord sid va = ((match permFault c.perms needX (s.isSystem (s.strand sid)) 2 with
      | some f => .fault f
      | none => .ok (wordIn c.data va)), s)

/-- While the package has not left reset, no move but a device reset takes place (R450, R459, R453); a device reset does. -/
def Obligations.PackageDownTakesNoStep : Prop :=
  ∀ s : State, s.pkg.halted = true →
    (s.agenda = [] → step s = .fault .packageDown)
    ∧ (∀ m rest, s.agenda = m :: rest → m.isReset = false → step s = .fault .packageDown)
    ∧ (∀ ok retire rest, s.agenda = .event (.deviceReset ok retire) :: rest →
        ∃ t, step s = .next t ∧ t.time = 0 ∧ t.cycle = 0 ∧ t.strands = [] ∧ t.regions = [])

/-! ## The gate of every instruction -/

/-- An instruction issues exactly when every vector register it names lies inside the allotment, a pair's effective number
even (R19); no register that it must wait for is empty (R29, R231); the operand log has a free entry where it takes one
(R198); no source it reads with its FE bit is empty; and no word of a register it reads was struck (R448). -/
def Obligations.InstructionIssuesExactlyWhen : Prop :=
  ∀ (st : Strand) (r : Raw) (oi : OpInfo), st.gate r oi = .go ↔
    (∀ f ∈ st.flds r oi, f.vec = true → f.key + f.cnt ≤ st.allot ∧ (f.even = true → f.key % 2 = 0))
    ∧ (∀ f ∈ st.flds r oi, (f.src = true ∧ f.fe = false ∨ f.dst = true) → st.fldEmpty f = false)
    ∧ (r.needsLog = true → st.freeSlot ≠ none)
    ∧ (∀ f ∈ st.flds r oi, f.src = true → f.fe = true → st.fldEmpty f = false)
    ∧ (∀ f ∈ st.flds r oi, f.src = true → ∀ k ∈ f.keys, ∀ w ∈ st.wordsOf k, w ∉ st.bad)

/-- An instruction that waits for a register or for the operand log changes nothing (R29, R198). -/
def HeldInstructionChangesNothing : Prop :=
  ∀ (i : Instr) (r : Raw) (s : State), toRaw i = some r → s.me.gate r r.info = .hold → exec i s = .next s

/-- An instruction that names a register outside the allotment, or an odd pair, takes the register-bounds trap, and one that
reads an empty register with its FE bit the empty-register trap: precisely, before any effect of its own (R19, R29, steps 6 and 7
of R67). -/
def GateTrapsPrecisely : Prop :=
  ∀ (i : Instr) (r : Raw) (s : State) (c : Nat), toRaw i = some r → s.me.gate r r.info = .trap c → c ≠ clsUncorr →
    exec i s = .next (s.fault s.cur r c 0)

/-- An instruction that waits for a register or for the operand log changes nothing (R29, R198); one that names a register outside the
allotment, or an odd pair, takes the register-bounds trap, and one that reads an empty register with its FE bit the empty-register
trap: precisely, before any effect of its own (R19, R29, steps 6 and 7 of R67). -/
def Obligations.GateHoldsOrTraps : Prop := HeldInstructionChangesNothing ∧ GateTrapsPrecisely

/-! ## Integer and bit instructions -/

/-- The rows of R94 but DIV and REM in one word, with their opcodes. -/
def integerOneWord : List ((W1Ops → Instr) × Nat) :=
  [(.addW1a, 0x20), (.subW1a, 0x21), (.mulW1a, 0x22), (.mulhW1a, 0x23), (.madW1a, 0x24), (.minW1a, 0x27), (.maxW1a,
   0x28), (.absW1a, 0x29), (.andW1a, 0x2A), (.orW1a, 0x2B), (.xorW1a, 0x2C), (.andnW1a, 0x2D), (.shlW1a, 0x2E),
   (.shrW1a, 0x2F), (.sarW1a, 0x30), (.rolW1a, 0x31), (.popcW1a, 0x32), (.clzW1a, 0x33), (.brevW1a, 0x34), (.bfxW1a,
   0x35), (.bfiW1a, 0x36), (.permW1a, 0x37)]

/-- The same rows in two and three words. -/
def integerLong : List ((AOps → Instr) × Nat) :=
  [(.add, 0x20), (.sub, 0x21), (.mul, 0x22), (.mulh, 0x23), (.mad, 0x24), (.minOp, 0x27), (.maxOp, 0x28), (.absOp,
   0x29), (.andOp, 0x2A), (.orOp, 0x2B), (.xorOp, 0x2C), (.andn, 0x2D), (.shl, 0x2E), (.shr, 0x2F), (.sar, 0x30),
   (.rol, 0x31), (.popc, 0x32), (.clz, 0x33), (.brev, 0x34), (.bfx, 0x35), (.bfi, 0x36), (.perm, 0x37)]

/-- ADD, SUB, MUL, MULH, MAD, MIN, MAX, ABS, AND, OR, XOR, ANDN, SHL, SHR, SAR, ROL, POPC, CLZ, BREV, BFX, BFI and PERM, in
one word and in longer forms: once the instruction issues, every executing thread's D holds the element results of its own
sources, all read first, elements of packed types apart from each other (R13, R94, R95); FSTAT, memory and everything else
stands as it was. -/
def Obligations.IntegerResultsReachTheirDestination : Prop :=
  let res (st : Strand) (r : Raw) (th : Nat) : Nat :=
    mapElems r.ty (intElem r.op.toNat (tyWidth r.ty) (tySigned r.ty) (bit r.mod 0)) (st.srcA r th) (st.srcB r th) (st.srcC r th)
  (∀ p ∈ integerOneWord, ∀ (o : W1Ops) (s : State), Ready s (rawW1 p.2 o) →
    CompletesWith (exec (p.1 o) s) s (rawW1 p.2 o) (rawW1 p.2 o).wide (res s.me (rawW1 p.2 o)) 0)
  ∧ (∀ p ∈ integerLong, ∀ (o : AOps) (s : State), Ready s (rawA p.2 o) →
    CompletesWith (exec (p.1 o) s) s (rawA p.2 o) (rawA p.2 o).wide (res s.me (rawA p.2 o)) 0)

/-- The element results of R94, for every element width w: sums, differences and products wrap modulo 2^w, or clamp with
.SAT; MULH is the high half; MIN and MAX follow the type's order; ABS leaves the most negative value as it is without .SAT;
shift counts are taken modulo w; CLZ counts leading zeros, and BREV reverses the bits. -/
def IntegerElements : Prop :=
  ∀ (w : Nat) (a b c : BitVec w), 0 < w →
    let e (op : Nat) (sg sat : Bool) : BitVec w := BitVec.ofNat w (intElem op w sg sat a.toNat b.toNat c.toNat)
    (∀ sg, e 0x20 sg false = a + b ∧ e 0x21 sg false = a - b ∧ e 0x22 sg false = a * b ∧ e 0x24 sg false = a * b + c)
    ∧ (e 0x20 true true).toInt = max (-2 ^ (w - 1)) (min (a.toInt + b.toInt) (2 ^ (w - 1) - 1))
    ∧ (e 0x20 false true).toNat = min (a.toNat + b.toNat) (2 ^ w - 1)
    ∧ (e 0x21 true true).toInt = max (-2 ^ (w - 1)) (min (a.toInt - b.toInt) (2 ^ (w - 1) - 1))
    ∧ (e 0x21 false true).toNat = a.toNat - b.toNat
    ∧ e 0x23 true false = BitVec.ofInt w (a.toInt * b.toInt / 2 ^ w) ∧ e 0x23 false false = BitVec.ofNat w (a.toNat * b.toNat / 2 ^ w)
    ∧ e 0x27 true false = (if b.slt a then b else a) ∧ e 0x27 false false = (if b < a then b else a)
    ∧ e 0x28 true false = (if a.slt b then b else a) ∧ e 0x28 false false = (if a < b then b else a)
    ∧ e 0x29 true false = (if a.slt 0#w then -a else a)
    ∧ (∀ sg, e 0x2A sg false = a &&& b ∧ e 0x2B sg false = a ||| b ∧ e 0x2C sg false = a ^^^ b ∧ e 0x2D sg false = a &&& ~~~b)
    ∧ (∀ sg, e 0x2E sg false = a <<< (b.toNat % w) ∧ e 0x2F sg false = a >>> (b.toNat % w)
        ∧ e 0x30 sg false = a.sshiftRight (b.toNat % w) ∧ e 0x31 sg false = a.rotateLeft (b.toNat % w))
    ∧ (∀ sg, e 0x34 sg false = a.reverse)
    ∧ (∀ sg, a ≠ 0#w → (e 0x33 sg false).toNat = (w - 1 - Nat.log2 a.toNat) % 2 ^ w) ∧ (a = 0#w → ∀ sg, e 0x33 sg false = BitVec.ofNat w w)

/-- The quotient and remainder of R96: truncated toward zero, the remainder with the dividend's sign; by zero all ones (which
reads as -1) and the dividend; the least value by -1 gives the least value and 0. -/
def DivisionCorners : Prop :=
  ∀ (w : Nat) (a b : BitVec w), 0 < w →
    let q (sg : Bool) : BitVec w := BitVec.ofNat w (divElem false sg w a.toNat b.toNat)
    let m (sg : Bool) : BitVec w := BitVec.ofNat w (divElem true sg w a.toNat b.toNat)
    (b = 0#w → ∀ sg, q sg = BitVec.allOnes w ∧ m sg = a)
    ∧ (b ≠ 0#w → q false = a / b ∧ m false = a % b ∧ q true = a.sdiv b ∧ m true = a.srem b)

/-- The element results of R94 for every element width w: sums, differences and products wrap modulo 2^w, or clamp with .SAT; MULH is
the high half; MIN and MAX follow the type's order; ABS leaves the most negative value as it is without .SAT; shift counts are taken
modulo w; CLZ counts leading zeros, and BREV reverses the bits. The quotient and remainder of R96: truncated toward zero, the
remainder with the dividend's sign, and the corners of a divisor 0 and of the most negative dividend over -1. -/
def Obligations.IntegerElementsAreExact : Prop := IntegerElements ∧ DivisionCorners

/-- DIV, REM and the transcendental functions in one word, with their opcodes. -/
def slowOneWord : List ((W1Ops → Instr) × Nat) :=
  [(.divW1a, 0x25), (.remW1a, 0x26), (.frcpW1a, 0x68), (.frsqW1a, 0x69), (.fsqrtW1a, 0x6A), (.fexp2W1a, 0x6B), (.flog2W1a, 0x6C)]

/-- The same rows in longer forms. -/
def slowLong : List ((AOps → Instr) × Nat) :=
  [(.divOp, 0x25), (.remOp, 0x26), (.frcp, 0x68), (.frsq, 0x69), (.fsqrt, 0x6A), (.fexp2, 0x6B), (.flog2, 0x6C)]

/-- The result of DIV, REM or a transcendental function in a thread (R96, R108). -/
def slowResult (st : Strand) (r : Raw) (th : Nat) : Nat :=
  if 0x68 ≤ r.op.toNat then (transcElem r.op.toNat (st.rmOf r) (st.srcA r th)).bits
  else divElem (r.op.toNat == 0x26) (tySigned r.ty) (tyWidth r.ty) (st.srcA r th % 2 ^ tyWidth r.ty) (st.srcB r th % 2 ^ tyWidth r.ty)

/-- A result is on its way: the destination is empty, what will reach it is fixed with its number, the event that brings it
may happen, and nothing else of the strand has changed but that it has gone on. -/
def OnItsWay (o : Res) (s : State) (r : Raw) (transc wide : Bool) (val : Nat → Nat) : Prop :=
  ∃ t f, o = .next t ∧ t.me.fills = s.me.fills ++ [f] ∧ f.seq = s.seq ∧ f.kind = (if transc then .transc else .division) ∧ f.regs = s.me.destKeys r
    ∧ (∀ k ∈ s.me.destKeys r, k ≠ keyS 0 → t.me.isEmpty k = true)
    ∧ (r.u = 0#1 → f.uregs = [] ∧ ∀ th ∈ s.me.active, (s.me.eff r r.d.toNat * 64 + th, BitVec.ofNat 32 (val th)) ∈ f.lanes
        ∧ (wide = true → ((s.me.eff r r.d.toNat + 1) * 64 + th, BitVec.ofNat 32 (val th / 2 ^ 32)) ∈ f.lanes))
    ∧ (r.u = 1#1 → f.lanes = [] ∧ f.uregs = [(r.d.toNat, BitVec.ofNat 64 (if wide then val s.me.lowest
        else if r.ty = 0 then wrapN 64 (sInt 32 (val s.me.lowest)) else val s.me.lowest % 2 ^ 32))])
    ∧ (if transc then .transcendentalComplete s.cur s.seq else .divisionComplete s.cur s.seq) ∈ t.pending
    ∧ SameRegs s.me t.me [] [] ∧ t.me.preds = s.me.preds ∧ t.me.fstat = s.me.fstat ∧ SameControl s.me t.me ∧ GoneOn s.me t.me r
    ∧ t.mem = s.mem

/-- DIV and REM, and FRCP, FRSQ, FSQRT, FEXP2 and FLOG2, in one word and in longer forms: once the instruction issues, its
destination is empty and the results of every executing thread are on their way to it, with no flag set yet (R28, R96,
R108); the strand goes on, and nothing else of it changes. -/
def SlowResultsAreOnTheirWay : Prop :=
  (∀ p ∈ slowOneWord, ∀ (o : W1Ops) (s : State), Ready s (rawW1 p.2 o) →
    OnItsWay (exec (p.1 o) s) s (rawW1 p.2 o) (decide (0x68 ≤ p.2)) (decide (p.2 < 0x68) && (rawW1 p.2 o).wide) (slowResult s.me (rawW1 p.2 o)))
  ∧ (∀ p ∈ slowLong, ∀ (o : AOps) (s : State), Ready s (rawA p.2 o) →
    OnItsWay (exec (p.1 o) s) s (rawA p.2 o) (decide (0x68 ≤ p.2)) (decide (p.2 < 0x68) && (rawA p.2 o).wide) (slowResult s.me (rawA p.2 o)))

/-- The result that is on its way under a number has reached its registers: they are full and hold it, its flags are merged into
FSTAT, it is on its way no more, and neither memory nor the PC has changed (R28, R34). -/
def Arrived (s t : State) (sid : Nat) (f : Fill) : Prop :=
  (t.strand sid).fills = (s.strand sid).fills.filter (fun g => g.seq != f.seq)
  ∧ (∀ k ∈ f.regs, (t.strand sid).isEmpty k = false)
  ∧ (t.strand sid).fstat = (s.strand sid).fstat ||| f.flags
  ∧ (∀ n v, f.uregs = [(n, v)] → n ≠ 0 → (t.strand sid).s n = v.toNat)
  ∧ ((f.lanes.map Prod.fst).Nodup → ∀ x ∈ f.lanes, (t.strand sid).v (x.1 / 64) (x.1 % 64) = x.2.toNat)
  ∧ t.mem = s.mem ∧ (t.strand sid).pc = (s.strand sid).pc

/-- DIVISION_COMPLETE and TRANSCENDENTAL_COMPLETE: the result that is on its way under that number fills its registers, its
flags are merged into FSTAT, and it is on its way no more (R28, R34, R96, R108); each is for its own kind of result. -/
def SlowResultsArrive : Prop :=
  ∀ (s : State) (sid seq : Nat) (f : Fill), (s.strand sid).fills.find? (fun g => g.seq == seq) = some f →
    (f.kind = .division → ∃ t, exec (.divisionComplete sid seq) s = .next t ∧ Arrived s t sid f)
    ∧ (f.kind = .transc → ∃ t, exec (.transcendentalComplete sid seq) s = .next t ∧ Arrived s t sid f)

/-- An instruction and the event that brings its result, one after the other: between them the destination is empty (R28), and after
both every executing thread's D holds its result, the flags are merged into FSTAT, and nothing else has changed. -/
def CompletesLater (i : Instr) (ev : Nat → Nat → Instr) (s : State) (r : Raw) (wide : Bool) (val : Nat → Nat) (flags : Nat) : Prop :=
  ∃ t u, exec i s = .next t ∧ (∀ k ∈ s.me.destKeys r, k ≠ keyS 0 → t.me.isEmpty k = true)
    ∧ exec (ev s.cur s.seq) t = .next u ∧ (∀ k ∈ s.me.destKeys r, u.me.isEmpty k = false)
    ∧ Delivers s.me u.me r wide val ∧ u.me.fstat = s.me.fstat ||| BitVec.ofNat 5 flags ∧ u.mem = s.mem

/-- DIV and REM, and FRCP, FRSQ, FSQRT, FEXP2 and FLOG2, in one word and in longer forms, complete (R28, R34, R96, R108): after the
instruction and the DIVISION_COMPLETE or TRANSCENDENTAL_COMPLETE of its result, D of every executing thread holds the result of its
sources. No result that is on its way already has the number that the instruction's will have. -/
def SlowInstructionsComplete : Prop :=
  let flags (st : Strand) (r : Raw) : Nat := (st.doers r).foldl (fun fl th => fl ||| (transcElem r.op.toNat (st.rmOf r) (st.srcA r th)).flags) 0
  let runs (i : Instr) (s : State) (r : Raw) : Prop :=
    Ready s r → (∀ f ∈ s.me.fills, f.seq ≠ s.seq) →
      if 0x68 ≤ r.op.toNat then CompletesLater i .transcendentalComplete s r false (slowResult s.me r) (flags s.me r)
      else CompletesLater i .divisionComplete s r r.wide (slowResult s.me r) 0
  (∀ p ∈ slowOneWord, ∀ (o : W1Ops) (s : State), runs (p.1 o) s (rawW1 p.2 o))
  ∧ (∀ p ∈ slowLong, ∀ (o : AOps) (s : State), runs (p.1 o) s (rawA p.2 o))

/-- DIV, REM, FRCP, FRSQ, FSQRT, FEXP2 and FLOG2: once the instruction issues, its destination is empty and the results of every
executing thread are on their way to it, with no flag set yet, and the strand goes on (R28, R96, R108). DIVISION_COMPLETE and
TRANSCENDENTAL_COMPLETE bring the result that is on its way under their number: it fills its registers, its flags are merged into
FSTAT, and it is on its way no more (R34). The instruction and its event, one after the other, leave D of every executing thread
with the result of its sources. -/
def Obligations.SlowResultsArriveLater : Prop := SlowResultsAreOnTheirWay ∧ SlowResultsArrive ∧ SlowInstructionsComplete

/-! ## Addresses, comparisons, selection and moves -/

/-- LEA writes the effective address modulo 2^56, its low 32 bits for n32 (R99); MOV the bits of A; MOVI its immediate,
extended as R12 states; MOVS the uniform register A in every active thread (R102); SEL writes A where the guard holds
and B where it does not (R101). Nothing else changes. -/
def Obligations.MovesAndAddresses : Prop :=
  ∀ s : State,
    (∀ o, Ready s (rawM 0x38 o) → CompletesWith (exec (.lea o) s) s (rawM 0x38 o) (rawM 0x38 o).wide
      (fun th => (((s.me.s o.a.toNat : Int) + s.me.index (rawM 0x38 o) th * 2 ^ (rawM 0x38 o).sc + (rawM 0x38 o).dispM) % 2 ^ 56).toNat
        % 2 ^ (if (rawM 0x38 o).wide then 64 else 32)) 0)
    ∧ (∀ o, Ready s (rawW1 0x3B o) →
        CompletesWith (exec (.movW1a o) s) s (rawW1 0x3B o) (rawW1 0x3B o).wide (s.me.srcA (rawW1 0x3B o)) 0)
    ∧ (∀ o, Ready s (rawA 0x3B o) →
        CompletesWith (exec (.mov o) s) s (rawA 0x3B o) (rawA 0x3B o).wide (s.me.srcA (rawA 0x3B o)) 0)
    ∧ (∀ o, Ready s (rawI 0x3C o) →
        CompletesWith (exec (.moviW1i o) s) s (rawI 0x3C o) false (fun _ => (o.imm.signExtend 32).toNat) 0)
    ∧ (∀ o, Ready s (rawA 0x3C o) →
        CompletesWith (exec (.movi o) s) s (rawA 0x3C o) (rawA 0x3C o).wide (fun _ => (rawA 0x3C o).immVal (rawA 0x3C o).wide) 0)
    ∧ (∀ o, Ready s (rawW1 0x3D o) → CompletesWith (exec (.movsW1a o) s) s (rawW1 0x3D o) (rawW1 0x3D o).wide
        (fun _ => s.me.s o.a.toNat % 2 ^ (if (rawW1 0x3D o).wide then 64 else 32)) 0)
    ∧ (∀ o, Ready s (rawA 0x3D o) → CompletesWith (exec (.movs o) s) s (rawA 0x3D o) (rawA 0x3D o).wide
        (fun _ => s.me.s o.a.toNat % 2 ^ (if (rawA 0x3D o).wide then 64 else 32)) 0)
    ∧ (∀ o, Ready s (rawA 0x3A o) → CompletesWith (exec (.sel o) s) s (rawA 0x3A o) (rawA 0x3A o).wide
        (fun th => if s.me.guard o.g (if o.u = 1#1 then s.me.lowest else th) then s.me.srcA (rawA 0x3A o) th
          else s.me.srcB (rawA 0x3A o) th) 0)

/-- The condition of CMP in a thread: the code in F, over the type's order (R100). -/
def cmpHolds (st : Strand) (r : Raw) (th : Nat) : Bool :=
  let w := tyWidth r.ty
  let a := BitVec.ofNat w (st.srcA r th)
  let b := BitVec.ofNat w (st.srcB r th)
  let lt (x y : BitVec w) : Bool := if tySigned r.ty then x.slt y else x.ult y
  let f := r.f.toNat
  if f = 0 then a == b else if f = 1 then a != b else if f = 2 then lt a b else if f = 3 then lt a b || a == b
    else if f = 4 then lt b a else lt b a || a == b

/-- CMP compares A and B by the condition in F, signed for the i types and natural for the n types (R100), and FCMP two FP32
values (R107): each writes predicate D of every active thread, with U = 1 one value for all, and sets no flag. -/
def Obligations.ComparisonsWriteAPredicate : Prop :=
  let at_ (st : Strand) (r : Raw) (th : Nat) : Nat := if r.u = 1#1 then st.lowest else th
  ∀ s : State,
    (∀ o, Ready s (rawA 0x39 o) → CompletesWithPred (exec (.cmp o) s) s (rawA 0x39 o) (fun th =>
      cmpHolds s.me (rawA 0x39 o) (at_ s.me (rawA 0x39 o) th)))
    ∧ (∀ o, Ready s (rawW1 0x66 o) → CompletesWithPred (exec (.fcmpW1a o) s) s (rawW1 0x66 o) (fun th =>
      fcmpHolds o.f.toNat (s.me.srcA (rawW1 0x66 o) (at_ s.me (rawW1 0x66 o) th)) (s.me.srcB (rawW1 0x66 o) (at_ s.me (rawW1 0x66 o) th))))
    ∧ (∀ o, Ready s (rawA 0x66 o) → CompletesWithPred (exec (.fcmp o) s) s (rawA 0x66 o) (fun th =>
      fcmpHolds o.f.toNat (s.me.srcA (rawA 0x66 o) (at_ s.me (rawA 0x66 o) th)) (s.me.srcB (rawA 0x66 o) (at_ s.me (rawA 0x66 o) th))))

/-- The conditions of FCMP: with a NaN operand NE and UN hold and no other does; otherwise the order is that of the values, for every two
patterns by sign and magnitude with -0 equal to +0, and UN fails (R107). -/
def FloatComparisonsFollowTheValues : Prop :=
  let key (x : Nat) : Int := if x < 2 ^ 31 then (x : Int) else -((x - 2 ^ 31 : Nat) : Int)
  (∀ f a b, (fmtF32.value a).isNan || (fmtF32.value b).isNan → fcmpHolds f a b = (f == 1 || f == 6))
  ∧ (∀ f a b, a < 2 ^ 32 → b < 2 ^ 32 → (fmtF32.value a).isNan = false → (fmtF32.value b).isNan = false → f < 6 →
      fcmpHolds f a b = condHolds f (key a == key b) (decide (key a < key b)))
  ∧ (∀ a b, (fmtF32.value a).isNan = false → (fmtF32.value b).isNan = false → fcmpHolds 6 a b = false)
  ∧ fcmpHolds 0 0x80000000 0 = true ∧ fcmpHolds 2 0x80000000 0 = false ∧ fcmpHolds 2 0xBF800000 0x3F800000 = true

/-! ## Floating point -/

/-- FADD, FSUB, FMUL, FFMA, FMIN, FMAX and FRND in one word, with their opcodes. -/
def floatOneWord : List ((W1Ops → Instr) × Nat) :=
  [(.faddW1a, 0x60), (.fsubW1a, 0x61), (.fmulW1a, 0x62), (.ffmaW1a, 0x63), (.fminW1a, 0x64), (.fmaxW1a, 0x65), (.frndW1a, 0x6D)]

/-- The same rows in longer forms. -/
def floatLong : List ((AOps → Instr) × Nat) :=
  [(.fadd, 0x60), (.fsub, 0x61), (.fmul, 0x62), (.ffma, 0x63), (.fmin, 0x64), (.fmax, 0x65), (.frnd, 0x6D)]

/-- The rounded elements of a floating instruction in a thread, with their flags, at the rounding mode in force (R33, R105). -/
def floatResult (st : Strand) (r : Raw) (th : Nat) : Nat × Nat :=
  floatElems r.op.toNat r.ty (st.rmOf r) (st.srcA r th) (st.srcB r th) (st.srcC r th)

/-- The flags of all executing threads together. -/
def flagsOf (st : Strand) (r : Raw) (f : Nat → Nat) : Nat := (st.doers r).foldl (fun fl th => fl ||| f th) 0

/-- FADD, FSUB, FMUL, FFMA, FMIN, FMAX and FRND write each element rounded in its own format and merge the flags of every
executing thread into FSTAT (R34, R104, R105); FCLASS writes the mask of its class and sets no flag (R107). Nothing else
changes. -/
def Obligations.FloatResultsReachTheirDestination : Prop :=
  (∀ p ∈ floatOneWord, ∀ (o : W1Ops) (s : State), Ready s (rawW1 p.2 o) →
    CompletesWith (exec (p.1 o) s) s (rawW1 p.2 o) false (fun th => (floatResult s.me (rawW1 p.2 o) th).1)
      (flagsOf s.me (rawW1 p.2 o) (fun th => (floatResult s.me (rawW1 p.2 o) th).2)))
  ∧ (∀ p ∈ floatLong, ∀ (o : AOps) (s : State), Ready s (rawA p.2 o) →
    CompletesWith (exec (p.1 o) s) s (rawA p.2 o) false (fun th => (floatResult s.me (rawA p.2 o) th).1)
      (flagsOf s.me (rawA p.2 o) (fun th => (floatResult s.me (rawA p.2 o) th).2)))
  ∧ (∀ (o : W1Ops) (s : State), Ready s (rawW1 0x67 o) →
    CompletesWith (exec (.fclassW1a o) s) s (rawW1 0x67 o) false (fun th => 2 ^ fclassBit (s.me.srcA (rawW1 0x67 o) th)) 0)
  ∧ (∀ (o : AOps) (s : State), Ready s (rawA 0x67 o) →
    CompletesWith (exec (.fclass o) s) s (rawA 0x67 o) false (fun th => 2 ^ fclassBit (s.me.srcA (rawA 0x67 o) th)) 0)

/-- The place of a value that is no NaN in the order of a format: by sign and magnitude, with -0 below +0 (R106). -/
def floatKey (f : FFmt) (x : Nat) : Int := if x < f.signBit then (x : Int) else -((x - f.signBit : Nat) : Int) - 1

/-- FMIN and FMAX on FP32, FP16 and BF16 elements: -0 stands below +0; with exactly one NaN the result is the other operand,
bit for bit; with two it is the canonical NaN; no operand value sets a flag; and rounding, in whatever mode, is exact
(R106). -/
def Obligations.MinAndMaxOrderTheZeros : Prop :=
  ∀ f ∈ [fmtF32, fmtF16, fmtBf16], ∀ rm a b c : Nat, a < 2 * f.signBit → b < 2 * f.signBit →
    let nan (x : Nat) : Bool := (f.value x).isNan
    floatElem 0x64 f rm a b c = ⟨if nan a then (if nan b then f.nan else b) else if nan b then a
      else if floatKey f a ≤ floatKey f b then a else b, 0, 0⟩
    ∧ floatElem 0x65 f rm a b c = ⟨if nan a then (if nan b then f.nan else b) else if nan b then a
      else if floatKey f a ≤ floatKey f b then b else a, 0, 0⟩

/-- The class of every FP32 pattern is the bit that the table of R107 gives it. -/
def EveryPatternHasItsClass : Prop :=
  ∀ x : Nat, x < 2 ^ 32 → fclassBit x =
    if 0x7F800000 < x % 2 ^ 31 then 8 else if x = 0xFF800000 then 0 else if 0x80800000 ≤ x then 1
    else if 0x80000000 < x then 2 else if x = 0x80000000 then 3 else if x = 0 then 4 else if x < 0x00800000 then 5
    else if x < 0x7F800000 then 6 else 7

/-- The conditions of FCMP: with a NaN operand NE and UN hold and no other does; otherwise the order is that of the values, -0 equal to
+0, and UN fails. The class of every FP32 pattern is the bit that the table of FCLASS gives it (R107). -/
def Obligations.FloatCornersFollowTheTables : Prop := FloatComparisonsFollowTheValues ∧ EveryPatternHasItsClass

/-- The special operands of FRCP, FRSQ, FSQRT, FEXP2 and FLOG2 give the results and flags of the table of R108, in every
rounding mode; and every other negative operand of FRSQ, FSQRT or FLOG2 gives the canonical NaN and sets NV. -/
def Obligations.TranscendentalSpecialOperands : Prop :=
  let pinf := 0x7F800000
  let ninf := 0xFF800000
  let nan := 0x7FC00000
  let one := 0x3F800000
  (∀ rm < 5,
    (transcElem 0x68 rm 0 = ⟨pinf, flDZ, 0⟩ ∧ transcElem 0x69 rm 0 = ⟨pinf, 0, 0⟩ ∧ transcElem 0x6A rm 0 = ⟨0, 0, 0⟩
      ∧ transcElem 0x6B rm 0 = ⟨one, 0, 0⟩ ∧ transcElem 0x6C rm 0 = ⟨ninf, flDZ, 0⟩)
    ∧ (transcElem 0x68 rm 0x80000000 = ⟨ninf, flDZ, 0⟩ ∧ transcElem 0x69 rm 0x80000000 = ⟨ninf, 0, 0⟩
      ∧ transcElem 0x6A rm 0x80000000 = ⟨0x80000000, 0, 0⟩ ∧ transcElem 0x6B rm 0x80000000 = ⟨one, 0, 0⟩
      ∧ transcElem 0x6C rm 0x80000000 = ⟨ninf, flDZ, 0⟩)
    ∧ (transcElem 0x68 rm pinf = ⟨0, 0, 0⟩ ∧ transcElem 0x69 rm pinf = ⟨0, 0, 0⟩ ∧ transcElem 0x6A rm pinf = ⟨pinf, 0, 0⟩
      ∧ transcElem 0x6B rm pinf = ⟨pinf, 0, 0⟩ ∧ transcElem 0x6C rm pinf = ⟨pinf, 0, 0⟩)
    ∧ (transcElem 0x68 rm ninf = ⟨0x80000000, 0, 0⟩ ∧ transcElem 0x6B rm ninf = ⟨0, 0, 0⟩)
    ∧ (transcElem 0x68 rm one = ⟨one, 0, 0⟩ ∧ transcElem 0x69 rm one = ⟨one, 0, 0⟩ ∧ transcElem 0x6A rm one = ⟨one, 0, 0⟩
      ∧ transcElem 0x6B rm one = ⟨0x40000000, 0, 0⟩ ∧ transcElem 0x6C rm one = ⟨0, 0, 0⟩))
  ∧ (∀ op ∈ [0x68, 0x69, 0x6A, 0x6B, 0x6C], ∀ rm x : Nat, (fmtF32.value x).isNan = true → (transcElem op rm x).bits = nan
      ∧ (transcElem op rm x).flags = 0)
  ∧ (∀ op ∈ [0x69, 0x6A, 0x6C], ∀ rm x : Nat, 0x80000000 < x → x ≤ ninf → (transcElem op rm x).bits = nan
      ∧ (transcElem op rm x).flags = flNV)

/-- What CVT writes into the strand: every unit of every executing thread, all read first, and the flags (R81, R112). -/
def cvtStrand (st : Strand) (r : Raw) : Strand :=
  forEach ((st.doers r).map (fun th => (th, st.cvtAt r th))) st (fun x y =>
    (forEach ((nats r.cvtUnits.2).zip y.2.1) x (fun x z => x.putUnit r z.1 y.1 z.2)).addFlags y.2.2.1)

/-- The events that one CVT counts (R85, R87). -/
def cvtCount (st : Strand) (r : Raw) : Nat × Nat × Nat :=
  (st.doers r).foldl (fun e th => addEvents e (st.cvtAt r th).2.2) (0, 0, 0)

/-- CVT, in one word and in longer forms: the units of every executing thread are converted and written, the strand goes on,
and the events of all of them are added to the region's conversion record in one addition (R85 to R87); where that
crosses a threshold of the record class 15 is raised after the instruction has completed (R89), else nothing more happens. -/
def Obligations.CvtConvertsAndCounts : Prop :=
  let holds (i : Instr) (r : Raw) (s : State) : Prop :=
    let after := s.nextSeq.2.setStrand s.cur ((cvtStrand s.me r).next r.bytes)
    let counted := after.countEvents s.me.rid (cvtCount s.me r)
    exec i s = .next (if counted.1 then counted.2.raiseAfter s.cur clsThresh s.me.pc.toNat 0 s.seq (rawWords r) else counted.2)
    ∧ (cvtCount s.me r = (0, 0, 0) → exec i s = .next after)
  (∀ (o : W1Ops) (s : State), Ready s (rawW1 0x6E o) → holds (.cvtW1a o) (rawW1 0x6E o) s)
  ∧ (∀ (o : AOps) (s : State), Ready s (rawA 0x6E o) → holds (.cvt o) (rawA 0x6E o) s)

/-! ## Cross-lane instructions -/

/-- SHFL gives each active thread the A of its source thread, where that thread lies in its segment and is active, else its own
(R116); SCAN the combination of the A of the active threads up to it, or below it with .EXCL, with the flags of its rounding
(R118). Nothing else changes. -/
def Obligations.ShuffleAndScan : Prop :=
  (∀ (o : AOps) (s : State), Ready s (rawA 0x80 o) →
    let r := rawA 0x80 o
    let size := if r.mod % 8 = 0 then 64 else 2 ^ (r.mod % 8)
    CompletesWith (exec (.shfl o) s) s r r.wide (fun th =>
      let b := if r.bImm then r.imm32 else s.me.v (s.me.eff r r.b) th
      let start := th - th % size
      let u : Int := if r.f = 0#3 then ((start + b % size : Nat) : Int) else if r.f = 1#3 then (th : Int) - b
        else if r.f = 2#3 then (th : Int) + b else ((th ^^^ b : Nat) : Int)
      if (start : Int) ≤ u ∧ u < start + size ∧ u.toNat ∈ s.me.active then s.me.srcA r u.toNat else s.me.srcA r th) 0)
  ∧ (∀ (o : AOps) (s : State), Ready s (rawA 0x84 o) →
    let r := rawA 0x84 o
    let part (th : Nat) : Nat × Nat := s.me.comb r ((s.me.active.filter (fun u => if bit r.mod 0 then decide (u < th) else decide (u ≤ th))).map (s.me.srcA r))
    CompletesWith (exec (.scan o) s) s r r.wide (fun th => (part th).1) (s.me.active.foldl (fun fl th => fl ||| (part th).2) 0))

/-- VOTE writes one value into predicate D of every active thread: ALL, ANY or UNI of predicate A over the active threads;
BALLOT the mask of the active threads whose predicate holds into uniform D (R117); REDX the combination of A over the active
threads into uniform D, extended as R91 says, with the flags of its rounding (R118). Nothing else changes. -/
def VotesAndReductionsReachTheirDestination : Prop :=
  (∀ (o : AOps) (s : State), Ready s (rawA 0x81 o) → CompletesWithPred (exec (.vote o) s) s (rawA 0x81 o) (fun _ =>
    if o.f = 0#3 then s.me.active.all (fun th => bit (s.me.p o.a.toNat) th)
    else if o.f = 1#3 then s.me.active.any (fun th => bit (s.me.p o.a.toNat) th)
    else s.me.active.all (fun th => bit (s.me.p o.a.toNat) th) || !s.me.active.any (fun th => bit (s.me.p o.a.toNat) th)))
  ∧ (∀ (o : AOps) (s : State), Ready s (rawA 0x82 o) →
    ∃ t, exec (.ballot o) s = .next t ∧ OnlyMe s t ∧ t.me.fstat = s.me.fstat ∧ t.me.preds = s.me.preds
      ∧ (o.d.toNat ≠ 0 → ∀ th < 64, bit (t.me.s o.d.toNat) th = (decide (th ∈ s.me.active) && bit (s.me.p o.a.toNat) th))
      ∧ SameRegs s.me t.me [] [o.d.toNat] ∧ SameControl s.me t.me ∧ GoneOn s.me t.me (rawA 0x82 o))
  ∧ (∀ (o : AOps) (s : State), Ready s (rawA 0x83 o) →
    let r := rawA 0x83 o
    let x := s.me.comb r (s.me.active.map (s.me.srcA r))
    ∃ t, exec (.redx o) s = .next t ∧ OnlyMe s t ∧ t.me.fstat = s.me.fstat ||| BitVec.ofNat 5 x.2 ∧ t.me.preds = s.me.preds
      ∧ (o.d.toNat ≠ 0 → t.me.s o.d.toNat = (if r.ty = 0 then wrapN 64 (sInt 32 x.1) else x.1) % 2 ^ 64)
      ∧ SameRegs s.me t.me [] [o.d.toNat] ∧ SameControl s.me t.me ∧ GoneOn s.me t.me r)

/-- The combination of REDX and SCAN does not depend on the order of the threads: integer ADD is the sum modulo 2^w, and any
permutation of the values gives the same combination and the same flags; the empty combination is the identity of R118. -/
def CombinationsIgnoreTheOrder : Prop :=
  (∀ (st : Strand) (r : Raw) (l m : List Nat), l.Perm m → st.comb r l = st.comb r m)
  ∧ (∀ (ty : Nat) (l : List Nat), combInt 0 ty l = l.sum % 2 ^ tyWidth ty)
  ∧ (∀ ty : Nat, combInt 3 ty [] = 2 ^ tyWidth ty - 1 ∧ combInt 4 ty [] = 0 ∧ combInt 5 ty [] = 0)
  ∧ combInt 1 0 [] = 2 ^ 31 - 1 ∧ combInt 2 0 [] = 2 ^ 31 ∧ combInt 1 1 [] = 2 ^ 32 - 1 ∧ combInt 2 1 [] = 0
  ∧ (∀ rm, (combFloat 1 rm []).bits = 0x7F800000 ∧ (combFloat 2 rm []).bits = 0xFF800000)
  ∧ (∀ rm < 5, (combFloat 0 rm []).bits = 0)

/-- VOTE writes one value into predicate D of every active thread: ALL, ANY or UNI of predicate A over the active threads; BALLOT the mask
of the active threads whose predicate holds into uniform D (R117); REDX the combination of A over the active threads into uniform D,
with the flags of its rounding (R118). The combination does not depend on the order of the threads: integer ADD is the sum modulo
2^w, and any permutation gives the same value and flags; the empty combination is the identity of R118. -/
def Obligations.VotesAndReductions : Prop := VotesAndReductionsReachTheirDestination ∧ CombinationsIgnoreTheOrder

/-- MATCH: bit u of the mask that an active thread t receives in its pair D, the low 32 bits in the even register, is 1 exactly
when thread u is active and its A equals thread t's bit for bit; for n64, A is a pair; D must be an even field (R119). -/
def Obligations.MatchMasksEqualThreads : Prop :=
  (∀ (o : AOps) (s : State), Ready s (rawA 0x85 o) →
    let r := rawA 0x85 o
    ∃ t, exec (.matchOp o) s = .next t ∧ OnlyMe s t ∧ t.me.fstat = s.me.fstat
      ∧ (∃ mask : Nat → Nat, Delivers s.me t.me r true mask
          ∧ ∀ th ∈ s.me.active, ∀ u < 64, bit (mask th) u =
            (decide (u ∈ s.me.active) && decide (s.me.val (s.me.eff r r.a.toNat) u r.wide = s.me.val (s.me.eff r r.a.toNat) th r.wide))))
  ∧ (∀ (w0 w1 w2 : BitVec 32) (o : AOps), decodeWords w0 w1 w2 = .ok (.matchOp o) → o.js = 0#2 → o.d.toNat % 2 = 0)


/-! ## Control -/

/-- What a branch or call comes to in the strand whose turn it is. Its guard holds in no active thread: it goes on at the next
instruction. In some but not in all: the illegal-convergence trap. In all, with a target off a word boundary: the alignment
fault. In all, with an aligned target: the PC is the target; a call writes the address of the next instruction into its
link register (s0 discards it) and leaves the loop stack, and another branch leaves the loops that it lies in and its target
does not, unless the strand is in handler mode. -/
def BranchesTo (i : Instr) (s : State) (r : Raw) (target : BitVec 56) (link : Option Nat) : Prop :=
  let still (t : State) : Prop := OnlyMe s t ∧ t.me.preds = s.me.preds ∧ t.me.fstat = s.me.fstat ∧ SameControl s.me t.me
  let inside (e : LoopEnt) (a : BitVec 56) : Bool := e.start ≤ a && a ≤ e.last
  (s.me.amask ≠ 0 → (∀ th ∈ s.me.active, s.me.guard r.g th = false) →
    ∃ t, exec i s = .next t ∧ still t ∧ SameRegs s.me t.me [] [] ∧ GoneOn s.me t.me r)
  ∧ ((∃ th ∈ s.me.active, s.me.guard r.g th = true) → (∃ th ∈ s.me.active, s.me.guard r.g th = false) →
    exec i s = .next (s.fault s.cur r clsConverge 0))
  ∧ ((∀ th ∈ s.me.active, s.me.guard r.g th = true) → target.toNat % 4 ≠ 0 →
    exec i s = .next (s.fault s.cur r clsAlign target.toNat))
  ∧ ((∀ th ∈ s.me.active, s.me.guard r.g th = true) → target.toNat % 4 = 0 →
    ∃ t, exec i s = .next t ∧ still t ∧ t.me.pc = target
      ∧ (∀ d, link = some d → (d ≠ 0 → t.me.s d = (s.me.pc + BitVec.ofNat 56 r.bytes).toNat) ∧ SameRegs s.me t.me [] [d]
          ∧ t.me.loops = s.me.loops)
      ∧ (link = none → SameRegs s.me t.me [] []
          ∧ t.me.loops = if s.me.hmode then s.me.loops
              else s.me.loops.dropWhile (fun e => inside e s.me.pc && !inside e target)))

/-- BRA and CALL, in one word and in three, BRX, CALLX and RET (R122, R123, R128, R203): the relative forms go to their own
address plus 4 times the signed offset, modulo 2^56, and the register forms to bits [55:0] of S(A), read before a link is
written. -/
def Obligations.BranchesGoOrStay : Prop :=
  ∀ s : State,
    (∀ o, Ready s (rawB 0x01 o) → BranchesTo (.braW1b o) s (rawB 0x01 o) (s.me.pc + 4#56 * o.off.signExtend 56) none)
    ∧ (∀ o, Ready s (rawBW 0x01 o) → BranchesTo (.bra o) s (rawBW 0x01 o) (s.me.pc + 4#56 * o.offA.signExtend 56) none)
    ∧ (∀ o, Ready s (rawB 0x04 o) → BranchesTo (.callW1b o) s (rawB 0x04 o) (s.me.pc + 4#56 * o.off.signExtend 56) (some 62))
    ∧ (∀ o, Ready s (rawBW 0x04 o) → BranchesTo (.call o) s (rawBW 0x04 o) (s.me.pc + 4#56 * o.offA.signExtend 56) (some 62))
    ∧ (∀ o, Ready s (rawW1 0x03 o) → BranchesTo (.brx o) s (rawW1 0x03 o) (BitVec.ofNat 56 (s.me.s o.a.toNat)) none)
    ∧ (∀ o, Ready s (rawW1 0x05 o) → BranchesTo (.callx o) s (rawW1 0x05 o) (BitVec.ofNat 56 (s.me.s o.a.toNat)) (some o.d.toNat))
    ∧ (∀ o, Ready s (rawW1 0x06 o) → BranchesTo (.ret o) s (rawW1 0x06 o) (BitVec.ofNat 56 (s.me.s o.a.toNat)) none)

/-- NOP is W1A with D, A and F 0 and G = 0111; its only word is 0x00003800, and an all-zero word traps; it changes nothing but
the PC, and the loop stack with it where the NOP ends a loop (R121, R127). -/
def Obligations.NopChangesOnlyThePc : Prop :=
  (∀ (w0 w1 w2 : BitVec 32) (o : W1Ops), decodeWords w0 w1 w2 = .ok (.nop o) ↔ (w0 = 0x00003800#32 ∧ o = ⟨0, 0, 0, 7, 0⟩))
  ∧ (∀ w1 w2 : BitVec 32, decodeWords 0#32 w1 w2 = .error (.illegal 4))
  ∧ (∀ s : State, exec (.nop ⟨0, 0, 0, 7, 0⟩) s = .next (s.setStrand s.cur (s.me.next 4)))
  ∧ (∀ x : Strand, (x.next 4).loops = x.loops → x.next 4 = { x with pc := (x.next 4).pc })

/-- BRC sends the active threads whose guard holds to its body and lets the others wait at its join (R124): to the join when it
holds in none, to the body when it holds in all, and otherwise with one more divergence entry, which traps when 16 are
there. At a join the waiting threads are active again, entry after entry while the PC is theirs (R125). EXIT ends every active
thread: the first entry that holds threads resumes at its join, and without one the strand has ended (R125, R140). -/
def DivergenceSplitsAndRejoins : Prop :=
  (∀ (s : State) (o : BWOps), Ready s (rawBW 0x02 o) →
    let body := s.me.pc + 4#56 * o.offA.signExtend 56
    let join := s.me.pc + 4#56 * o.offB.signExtend 56
    let goes (th : Nat) : Bool := s.me.guard o.g th
    ((∀ th ∈ s.me.active, goes th = false) → exec (.brc o) s = .next (s.setStrand s.cur (s.me.jump join)))
    ∧ (s.me.amask ≠ 0 → (∀ th ∈ s.me.active, goes th = true) → exec (.brc o) s = .next (s.setStrand s.cur (s.me.jump body)))
    ∧ ((∃ th ∈ s.me.active, goes th = true) → (∃ th ∈ s.me.active, goes th = false) → 16 ≤ s.me.divs.length →
        exec (.brc o) s = .next (s.fault s.cur (rawBW 0x02 o) clsDivOvf 0))
    ∧ ((∃ th ∈ s.me.active, goes th = true) → (∃ th ∈ s.me.active, goes th = false) → s.me.divs.length < 16 →
        ∃ n e : BitVec 64, n ||| e = s.me.amask ∧ n &&& e = 0 ∧ (∀ th < 64, e.getLsbD th = (s.me.amask.getLsbD th && goes th))
          ∧ exec (.brc o) s = .next (s.setStrand s.cur { s.me.jump body with divs := ⟨n, join⟩ :: s.me.divs, amask := e })))
  ∧ (∀ (st : Strand) (e : DivEnt) (rest : List DivEnt), st.divs = e :: rest →
      st.atJoin = if e.joinpc = st.pc then ({ st with divs := rest, amask := st.amask ||| e.rmask } : Strand).atJoin else st)
  ∧ (∀ (s : State) (o : W1Ops), Ready s (rawW1 0x08 o) →
      (∀ (skipped rest : List DivEnt) (e : DivEnt), s.me.divs = skipped ++ e :: rest → (∀ x ∈ skipped, x.rmask = 0) → e.rmask ≠ 0 →
        let loops := if s.me.hmode then s.me.loops else (skipped ++ [e]).foldl (fun l x => unwind l s.me.pc x.joinpc) s.me.loops
        exec (.exit o) s = .next (s.setStrand s.cur { s.me with pc := e.joinpc, amask := e.rmask, divs := rest, loops := loops }))
      ∧ ((∀ x ∈ s.me.divs, x.rmask = 0) →
        exec (.exit o) s = .next ((s.setStrand s.cur { s.me with amask := 0, divs := [] }).endStrand s.cur)))

/-- LOOP pushes its body and count and goes to the body's start; with a count of 0, or a last instruction before the start, it
goes to its exit; with four loops in flight, or in handler mode, it traps and changes nothing (R126, R203). Going on after the
instruction at the end of the innermost body counts one iteration: it goes back to the start while the count is not
exhausted, else the loop is left and the one around it is treated alike; in handler mode loops stand still (R127, R203). -/
def LoopsRunTheirBody : Prop :=
  (∀ (s : State) (o : BWOps), Ready s (rawBW 0x07 o) →
    let n := s.me.s 63 % 2 ^ 32
    let start := s.me.pc + 12#56
    let last := s.me.pc + 4#56 * o.offA.signExtend 56
    (s.me.hmode = true → exec (.loop o) s = .next (s.fault s.cur (rawBW 0x07 o) clsLoopOvf 0))
    ∧ (s.me.hmode = false → n = 0 ∨ last < start →
        exec (.loop o) s = .next (s.setStrand s.cur { s.me with pc := s.me.pc + 4#56 * o.offB.signExtend 56 }))
    ∧ (s.me.hmode = false → n ≠ 0 → start ≤ last → 4 ≤ s.me.loops.length →
        exec (.loop o) s = .next (s.fault s.cur (rawBW 0x07 o) clsLoopOvf 0))
    ∧ (s.me.hmode = false → n ≠ 0 → start ≤ last → s.me.loops.length < 4 →
        exec (.loop o) s = .next (s.setStrand s.cur
          { s.me with pc := start, loops := ⟨start, last, BitVec.ofNat 32 n⟩ :: s.me.loops })))
  ∧ (∀ (st : Strand) (len : Nat),
      (st.hmode = true ∨ st.loops = [] → st.next len = { st with pc := st.pc + BitVec.ofNat 56 len })
      ∧ (∀ (e : LoopEnt) (rest : List LoopEnt), st.hmode = false → st.loops = e :: rest →
          (e.last ≠ st.pc → st.next len = { st with pc := st.pc + BitVec.ofNat 56 len })
          ∧ (e.last = st.pc → e.count ≠ 1#32 →
              st.next len = { st with pc := e.start, loops := { e with count := e.count - 1#32 } :: rest })
          ∧ (e.last = st.pc → e.count = 1#32 → st.next len = ({ st with loops := rest } : Strand).next len)))

/-- BRC sends the active threads whose guard holds to its body and lets the others wait at its join, with one more divergence entry, which
traps when 16 are there (R124). At a join the waiting threads are active again (R125). EXIT ends every active thread: the first entry
that holds threads resumes at its join, and without one the strand has ended (R125, R140). LOOP pushes its body and count and goes to
the body's start; with a count of 0, or a last instruction before the start, it goes to its exit; with four loops in flight, or in handler
mode, it traps (R126, R203). Going on after the last instruction of the innermost body counts one iteration (R127). -/
def Obligations.DivergenceAndLoops : Prop := DivergenceSplitsAndRejoins ∧ LoopsRunTheirBody

/-! ## Strands and spawned work -/

/-- YIELD lets the ready strands of its quadrant with its own region's priority go first: it waits until each has issued or 64
cycles have passed (R141); which they are is known where its turn is booked, and with none it goes straight on. YIELD_TIMEOUT ends
the wait when the 64 cycles have passed, and before that nothing happens. -/
def YieldStepsAside : Prop :=
  (∀ (s : State) (o : W1Ops), Ready s (rawW1 0x09 o) →
    ∃ t, exec (.yield o) s = .next t ∧ OnlyMe s t ∧ t.me = { s.me.next 4 with waiting := .yield (s.cycle + 64) none })
  ∧ (∀ (s : State) (sid d : Nat) (ready : List Nat), (s.strand sid).waiting = .yield d none →
      ((s.issued sid ready).strand sid).waiting = (if s.peersOf sid ready = [] then .nothing else .yield d (some (s.peersOf sid ready)))
      ∧ ∀ p, p ∈ s.peersOf sid ready ↔ p ∈ ready ∧ p ≠ sid ∧ (s.strand p).core = (s.strand sid).core ∧ (s.strand p).quad = (s.strand sid).quad
          ∧ (s.regionOf (s.strand p)).rcb.prio = (s.regionOf (s.strand sid)).rcb.prio)
  ∧ (∀ (s : State) (sid d : Nat) (ps : Option (List Nat)), (s.strand sid).waiting = .yield d ps →
      (d ≤ s.cycle → exec (.yieldTimeout sid) s = .next (s.setStrand sid { s.strand sid with waiting := .nothing }))
      ∧ (s.cycle < d → exec (.yieldTimeout sid) s = .next s))

/-- The arguments of a thread that SPAWN takes along: v(A) to v(A + 3), with the spawner and its place in program order. -/
def spawnThread (s : State) (r : Raw) (th : Nat) : BinThread :=
  { args := (nats 4).map (fun i => BitVec.ofNat 32 (s.me.v (s.me.eff r (r.a.toNat + i)) th)), parent := s.cur, seq := s.seq }

/-- SPAWN (R142, R143, R145, R146): an entry off a word boundary is the alignment fault; more than 2,048 tiles give every
active thread status 8 and no thread enters; otherwise each active thread receives status 0 or 4, and into an empty bin all of
them enter in thread order, with status 0, starting its timer; 64 of them close it. Only the bin that the entry address hashes to
changes. SPAWN_BIN_TIMER closes a bin whose time has come and whose formed place is empty, and before that does nothing. -/
def SpawnFillsABin : Prop :=
  (∀ (s : State) (o : AOps), Ready s (rawA 0x0A o) →
    let r := rawA 0x0A o
    let entry := if r.len = 2#2 then (s.me.pc + 4#56 * r.w2.signExtend 56).toNat else s.me.s r.b % 2 ^ 56
    let b := binOf entry
    let key : BinKey := { rid := s.me.rid, entry := entry, allot := 8 * (o.mod.toNat % 16 + 1), tiles := s.me.s r.c, swz := bit o.mod.toNat 4 }
    let all := s.me.active.map (spawnThread s r)
    (entry % 4 ≠ 0 → exec (.spawn o) s = .next (({ s with seq := s.seq + 1 } : State).fault s.cur r clsAlign entry))
    ∧ (entry % 4 = 0 → 2048 < s.me.s r.c → ∃ t, exec (.spawn o) s = .next t ∧ Delivers s.me t.me r false (fun _ => 8)
        ∧ ∀ c n, t.bin c n = s.bin c n)
    ∧ (entry % 4 = 0 → s.me.s r.c ≤ 2048 → ∃ t, exec (.spawn o) s = .next t
        ∧ (∃ status : Nat → Nat, Delivers s.me t.me r false status ∧ ∀ th ∈ s.me.active, status th = 0 ∨ status th = 4)
        ∧ (∀ c n, (c ≠ s.me.core ∨ n ≠ b) → t.bin c n = s.bin c n) ∧ t.mem = s.mem
        ∧ ((s.bin s.me.core b).pending = [] → (s.bin s.me.core b).formed = none → s.me.amask ≠ 0 →
            Delivers s.me t.me r false (fun _ => 0)
            ∧ t.bin s.me.core b = (if s.me.amask = BitVec.allOnes 64 then ⟨none, [], none, some (key, all), s.seq + 1⟩
                else ⟨some key, all, some (s.time + (s.region s.me.rid).rcb.spint * 4700), none, (s.bin s.me.core b).formedSeq⟩))))
  ∧ (∀ (s : State) (core b d : Nat) (key : BinKey), (s.bin core b).timer = some d → (s.bin core b).key = some key →
      (s.time < d → exec (.spawnBinTimer core b) s = .next s)
      ∧ (d ≤ s.time → (s.bin core b).formed = none → (s.bin core b).pending ≠ [] →
          exec (.spawnBinTimer core b) s
            = .next ((({ s with seq := s.seq + 1 } : State).setBin core b ⟨none, [], none, some (key, (s.bin core b).pending), s.seq⟩).push
                (.spawnResidency core b))))

/-- SPAWN_RESIDENCY (R137, R144, R148): while a formed strand has no room, in its core or in its pool, or another formed strand or a
waiting tile of a higher priority goes first, or an access of memory of a spawner from before is outstanding, nothing happens; otherwise, once the core's dirty bytes are
performed, the strand is resident at its entry with one active thread for each spawned one, thread t holding its arguments in v1 to
v4, and the formed place is empty. -/
def FormedStrandBecomesResident : Prop :=
  ∀ (s : State) (core b : Nat) (key : BinKey) (ts : List BinThread), (s.bin core b).formed = some (key, ts) →
    let room : Bool := s.hasRoom core 1 key.allot key.tiles 0 && s.poolRoom (s.region key.rid).pool 1 key.tiles 0
      && !s.formedBefore core b (s.region key.rid).rcb.prio && !s.tileFirst core (s.region key.rid).rcb.prio
    (room = false ∨ (∃ x ∈ ts, s.logClear x.parent x.seq = false) → exec (.spawnResidency core b) s = .next s)
    ∧ (room = true → (∀ x ∈ ts, s.logClear x.parent x.seq = true) → (s.performCore core (ts.map BinThread.parent)).1 = true → ts.length ≤ 64 →
        (∀ x ∈ ts, x.args.length = 4) → (s.bin core b).pending.length < 64 → (∀ d, (s.bin core b).timer = some d → s.time < d) →
        ∃ t sid, exec (.spawnResidency core b) s = .next t ∧ (t.bin core b).formed = none
          ∧ (t.strand sid).life = .resident ∧ (t.strand sid).core = core ∧ (t.strand sid).rid = key.rid
          ∧ (t.strand sid).pc = BitVec.ofNat 56 key.entry ∧ (t.strand sid).amask = BitVec.ofNat 64 (2 ^ ts.length - 1)
          ∧ (t.strand sid).allot = key.allot ∧ (t.strand sid).spawned = true
          ∧ ∀ (th i : Nat) (x : BinThread), ts[th]? = some x → i < 4 → (t.strand sid).v (i + 1) th = (listAt 0#32 x.args i).toNat)

/-- SPAWN (R142, R143, R145, R146): an entry off a word boundary is the alignment fault; more than 2,048 tiles give every active thread
status 8 and no thread enters; otherwise each active thread receives status 0 or 4, and into an empty bin all enter in thread order, with
status 0, starting its timer; 64 of them close it. SPAWN_BIN_TIMER closes a bin whose time has come and whose formed place is empty.
SPAWN_RESIDENCY (R137, R144, R148): while a formed strand has no room, or an access of memory of a spawner is outstanding, nothing
happens; otherwise the strand is resident at its entry with one active thread for each spawned one, thread t holding its arguments in v1 to v4. -/
def Obligations.SpawnedThreadsBecomeStrands : Prop := SpawnFillsABin ∧ FormedStrandBecomesResident

/-- LAUNCH (R150): once its RCB is read the strand has its status in S(D): 4 with 64 launches of its own to be joined or for a region
whose STATE allows no launch, 2 where its own pool grants no room, and 0 when the region has entered its queue as one more region to be
joined, after every access of memory that the strand issued before; with 1,024 regions live it waits, S(D) empty. An address off a 512-byte
boundary, or priority 7 asked by another than a system region, faults precisely. -/
def LaunchReturnsAStatus : Prop :=
  ∀ (s u : State) (o : AOps) (l : LaunchInfo), Ready s (rawA 0x0B o) →
    let r := rawA 0x0B o
    let va := s.me.rcbAddr r
    (va % 512 ≠ 0 → exec (.launch o) s = .next (s.fault s.cur r clsAlign va))
    ∧ (va % 512 = 0 → s.readRcb (s.who s.cur) va (some s.me.rid) (some s.seq) = (.ok l, u) →
        let st := u.strand s.cur
        let answers (k : Nat) : Prop := exec (.launch o) s = .next (u.setStrand s.cur ((st.setS o.d.toNat k).next r.bytes))
        (l.rcb.prio = 7 → u.isSystem st = false → exec (.launch o) s = .next (u.fault s.cur r clsProt va))
        ∧ ((l.rcb.prio = 7 → u.isSystem st = true) →
            (64 ≤ st.joins.length ∨ (1 ≤ l.state ∧ l.state ≤ 3) ∨ 10 ≤ l.state → answers 4)
            ∧ (st.joins.length < 64 → (l.state = 0 ∨ 4 ≤ l.state) → l.state < 10 → 1024 ≤ u.liveRegions →
                exec (.launch o) s = .next (u.again s.cur o.d.toNat))
            ∧ (st.joins.length < 64 → (l.state = 0 ∨ 4 ≤ l.state) → l.state < 10 → u.liveRegions < 1024 →
                (bit (rcbOvr l.words) 5 = true → u.poolRoom (u.regionOf st).pool l.rcb.slotb l.rcb.tileb l.rcb.rowb = false → answers 2)
                ∧ ((bit (rcbOvr l.words) 5 = true → u.poolRoom (u.regionOf st).pool l.rcb.slotb l.rcb.tileb l.rcb.rowb = true) →
                    (u.performCore st.core [s.cur]).1 = true → (u.performCore st.core [s.cur]).2.logClear s.cur s.seq = true →
                    ∃ t rid, exec (.launch o) s = .next t ∧ (o.d.toNat ≠ 0 → (t.strand s.cur).s o.d.toNat = 0)
                      ∧ (t.region rid).parent = some st.rid ∧ (t.region rid).rcbVa = va
                      ∧ (let own := bit (rcbOvr l.words) 5;
                         l.state ≠ 4 → l.valid own (if own then l.rcb else (u.region (u.regionOf st).pool).rcb) = true → (t.region rid).state = 1)
                      ∧ rid ∈ (t.strand s.cur).joins))))

/-- JOIN (R151): with every launched region done, S(D) and S(D + 1) receive 7 with the killed regions counted above bit 32 and the
faulted ones below, or 6 with the faulted ones, or 0, and nothing is left to join; with a timeout of 0 and regions still running,
status 1 with their number; otherwise the strand waits with both registers empty. JOIN_TIMEOUT gives a waiting strand status 1 when
its time has come, and before that does nothing. -/
def JoinReportsTheChildren : Prop :=
  (∀ (s : State) (o : AOps), Ready s (rawA 0x0C o) →
    let r := rawA 0x0C o
    let d := o.d.toNat
    let count (p : Nat → Bool) : Nat := (s.me.joins.filter (fun rid => p (s.region rid).state)).length
    let faulted := count (fun x => x == 6 || x == 9)
    let killed := count (fun x => x == 7 || x == 8)
    let running := count (fun x => decide (x < 5))
    (running = 0 → exec (.join o) s = .next ((s.setStrand s.cur ((s.me.finishJoin d
      (if 0 < killed then 7 else if 0 < faulted then 6 else 0) (faulted + killed * 2 ^ 32)).next r.bytes)).expireCopies s.me.core))
    ∧ (0 < running → o.imm = some 0#32 → exec (.join o) s = .next (s.setStrand s.cur ((s.me.finishJoin d 1 running).next r.bytes)))
    ∧ (0 < running → o.imm ≠ some 0#32 → ∃ t, exec (.join o) s = .next t ∧ OnlyMe s t ∧ SameRegs s.me t.me [] []
        ∧ t.me.waiting = .join d (o.imm.map (fun x => s.time + x.toNat * 47000))
        ∧ (d ≠ 0 → t.me.isEmpty (keyS d) = true) ∧ t.me.isEmpty (keyS (d + 1)) = true ∧ GoneOn s.me t.me r))
  ∧ (∀ (st : Strand) (d status n : Nat), d ≠ 0 → status < 2 ^ 64 → n < 2 ^ 64 → (st.finishJoin d status n).s d = status
      ∧ (st.finishJoin d status n).s (d + 1) = n ∧ (st.finishJoin d status n).joins = (if status = 1 then st.joins else [])
      ∧ (st.finishJoin d status n).isEmpty (keyS d) = false ∧ (st.finishJoin d status n).waiting = .nothing)
  ∧ (∀ (s : State) (sid d lim : Nat), (s.strand sid).waiting = .join d (some lim) →
      (s.time < lim → exec (.joinTimeout sid) s = .next s)
      ∧ (lim ≤ s.time → (s.strand sid).life = .resident → (∃ rid ∈ (s.strand sid).joins, (s.region rid).state < 5) →
          exec (.joinTimeout sid) s = .next (s.setStrand sid ((s.strand sid).finishJoin d 1 (s.runningChildren (s.strand sid))))))

/-- LAUNCH (R150): once its RCB is read the strand has its status in S(D): 4 with 64 launches of its own to be joined or for a region that
already runs, 2 where its own pool grants no room, and 0 when the region has entered its queue as one more region to be joined. An
address off a 512-byte boundary, or priority 7 asked by another than a system region, faults precisely. JOIN (R151): with every
launched region done, S(D) and S(D + 1) receive 7 with the killed and the faulted counted, or 6 with the faulted, or 0; with a timeout
of 0 and regions running, status 1 with their number; otherwise it waits with both registers empty, and JOIN_TIMEOUT gives status 1. -/
def Obligations.LaunchAndJoin : Prop := LaunchReturnsAStatus ∧ JoinReportsTheChildren

/-! ## Traps -/

/-- TRAP completes and raises class 18 with its code as the address; DBG completes, and in a debug-enabled region raises class 19
(R206); the resume PC is that of the next instruction (R197). -/
def SoftwareTrapsFollowTheInstruction : Prop :=
  let raised (s : State) (r : Raw) (cls : Nat) : State :=
    let t := s.setStrand s.cur (s.me.next r.bytes)
    t.takeTrap s.cur { cls := cls, info := 0, rpc := (s.me.next r.bytes).pc.toNat, fpc := s.me.pc.toNat, faddr := r.imm10, tvalid := false,
                       thread := 0, fmask := 0, oplog := none, words := rawWords r }
  ∀ (s : State) (o : IOps),
    (Ready s (rawI 0x0D o) → exec (.trap o) s = .next (raised s (rawI 0x0D o) 18))
    ∧ (Ready s (rawI 0x0F o) → exec (.dbg o) s = .next (if (s.region s.me.rid).rcb.dbg then raised s (rawI 0x0F o) 19
        else s.setStrand s.cur (s.me.next 4)))

/-- Taking a trap (R201, R202, R203): in handler mode the strand is held for the host; a strand whose log has not drained takes it
later; else, with its frame and log image written where the frame lies, it enters the handler when the region has one and delivers the
class: the PC is HANDLER, s60 the frame's address, s61 the class word, and handler mode is on; otherwise it is held for the
host. A frame that cannot be written ends the region with a fault. TRAP_ENTRY takes the trap that a drained strand waits for, and does
nothing for one that has not drained. -/
def TrapsEnterTheHandler : Prop :=
  (∀ (s : State) (sid : Nat) (ti : TrapInfo),
    ((s.strand sid).hmode = true → s.takeTrap sid ti = s.holdForHost sid ti)
    ∧ ((s.strand sid).hmode = false → s.drained sid = true → s.takeTrap sid ti = s.enterTrap sid ti)
    ∧ ((s.strand sid).hmode = false → s.drained sid = false →
        ((s.takeTrap sid ti).strand sid) = { s.strand sid with trap := some ti, waiting := .trap }
        ∧ .trapEntry sid ∈ (s.takeTrap sid ti).pending))
  ∧ (∀ (s u v : State) (sid pa x : Nat) (ti : TrapInfo), s.frameAt sid (s.frameVa (s.strand sid)) 512 = (.ok pa, u) →
      u.homeStore (u.who sid) (s.frameVa (s.strand sid)) (frameBytes u (u.strand sid) ti ++ logImage (u.strand sid)) 2 = (.ok x, v) →
      (v.strand sid).hmode = false →
      let t := s.enterTrap sid ti
      let r := (v.regionOf (v.strand sid)).rcb
      (t.strand sid).trapDepth = (v.strand sid).divs.length ∧ (t.strand sid).frameLog = ti.oplog ∧ (t.strand sid).trap = none
      ∧ (t.strand sid).waiting = .nothing ∧ (t.strand sid).amask = (v.strand sid).amask ∧ (t.strand sid).loops = (v.strand sid).loops
      ∧ (bit r.dmask ti.cls = true → r.handler ≠ 0 → (t.strand sid).pc = BitVec.ofNat 56 r.handler ∧ (t.strand sid).hmode = true
          ∧ (t.strand sid).s 60 = s.frameVa (s.strand sid) % 2 ^ 64 ∧ (t.strand sid).s 61 % 32 = ti.cls % 32
          ∧ SameRegs (v.strand sid) (t.strand sid) [] [60, 61])
      ∧ (bit r.dmask ti.cls = false ∨ r.handler = 0 → (t.strand sid).hostHeld = true ∧ (t.strand sid).pc = (v.strand sid).pc))
  ∧ (∀ (s u : State) (sid bad : Nat) (ti : TrapInfo), s.frameAt sid (s.frameVa (s.strand sid)) 512 = (.error (some bad), u) →
      s.enterTrap sid ti = u.terminate (u.strand sid).rid 6 ti.cls ti.fpc bad)
  ∧ (∀ (s : State) (sid : Nat) (ti : TrapInfo), (s.strand sid).waiting = .trap → (s.strand sid).trap = some ti →
      (s.strand sid).life = .resident →
      (s.drained sid = true → exec (.trapEntry sid) s = .next (s.enterTrap sid ti))
      ∧ (s.drained sid = false → exec (.trapEntry sid) s = .next s))

/-- TRAP completes and raises class 18 with its code as the address; DBG completes, and in a debug-enabled region raises class 19 (R206).
Taking a trap (R201, R202, R203): in handler mode the strand is held for the host; a strand whose log has not drained takes it later;
else, with its frame and log image written where the frame lies, it enters the handler when the region has one and delivers the class:
the PC is HANDLER, s60 the frame's address, s61 the class word, and handler mode is on; otherwise it is held for the host. A frame that
cannot be written ends the region with a fault. TRAP_ENTRY takes the trap that a drained strand waits for. -/
def Obligations.TrapsAreTaken : Prop := SoftwareTrapsFollowTheInstruction ∧ TrapsEnterTheHandler

/-- RETT out of handler mode is a protection fault; in it, with a frame that can be read and names no deeper stack than there is, the
strand leaves handler mode at the resume PC of its frame, with AMASK, s60 and s61 from it, the loops that it lists and
no others, and the divergence stack no deeper than at entry (R207). Of a frame that delivered no entry of the log, with the log empty,
that is all that happens. -/
def Obligations.RettReloadsTheFrame : Prop :=
  (∀ (s u : State) (o : W1Ops) (ws : List Nat), Ready s (rawW1 0x0E o) → s.me.hmode = true → s.frameWords s.cur 0 24 = (.ok ws, u) →
    let w (i : Nat) : Nat := listAt 0 ws i
    let st := u.strand s.cur
    st.frameLog = none → st.log = [] → bits (w 8) 12 8 ≤ st.trapDepth → w 8 % 8 ≤ 4 →
    ∃ t, exec (.rett o) s = .next t ∧ (t.strand s.cur).hmode = false ∧ (t.strand s.cur).pc = BitVec.ofNat 56 (w 0 / 4 * 4)
      ∧ (t.strand s.cur).amask = BitVec.ofNat 64 (w 4) ∧ (t.strand s.cur).s 60 = w 9 % 2 ^ 64 ∧ (t.strand s.cur).s 61 = w 10 % 2 ^ 64
      ∧ (t.strand s.cur).loops.length = w 8 % 8 ∧ (t.strand s.cur).divs.length ≤ st.divs.length ∧ (t.strand s.cur).hostHeld = false
      ∧ SameRegs st (t.strand s.cur) [] [60, 61] ∧ (t.strand s.cur).preds = st.preds ∧ (t.strand s.cur).log = [] ∧ t.mem = u.mem)
  ∧ (∀ (s : State) (o : W1Ops), Ready s (rawW1 0x0E o) →
    (s.me.hmode = false → exec (.rett o) s = .next (s.fault s.cur (rawW1 0x0E o) clsProt 0))
    ∧ (∀ (u : State) (replay : Bool), s.me.hmode = true → s.restoreFrame s.cur = (.done replay, u) →
        exec (.rett o) s = .next (u.afterFrame s.cur replay)))
  ∧ (∀ (s u v : State) (sid : Nat) (ws : List Nat) (replay : Bool), s.frameWords sid 0 24 = (.ok ws, v) →
      s.restoreFrame sid = (.done replay, u) →
      let w (i : Nat) : Nat := listAt 0 ws i
      (u.strand sid).hmode = false ∧ (u.strand sid).pc = BitVec.ofNat 56 (w 0 / 4 * 4) ∧ (u.strand sid).amask = BitVec.ofNat 64 (w 4)
      ∧ (u.strand sid).s 60 = w 9 % 2 ^ 64 ∧ (u.strand sid).s 61 = w 10 % 2 ^ 64
      ∧ (u.strand sid).loops.length = w 8 % 8 ∧ w 8 % 8 ≤ 4 ∧ bits (w 8) 12 8 ≤ (v.strand sid).trapDepth)

/-- A store of a function (R455, R456): one by the host to package HBM that nothing holds back is performed at its home, but for a block
that a counter occupies, which takes none (R252); one by Uzoip
outside its firmware area and outside the windows that the host has granted is discarded and logged. -/
def FunctionStoresAreGuarded : Prop :=
  ∀ (s : State) (die : Nat) (p : Nat × DWord),
    let pa := p.1 / 8 * 8
    (isHbm pa = true → s.writeBlocked (pa / 128) none none false false = false →
      s.fnStore true die p = (true, if s.countsAt pa then s else s.homeWrite (cellsOf pa (leBytes 8 p.2.toNat)) none))
    ∧ (inFwArea pa = false → s.fwReady die = true → s.fwGranted pa true = false →
      s.fnStore false die p = (true, s.fwEntry 0xFF pa p.2.toNat))

/-- TRIAGE_REPAIR (R199, R200, R470): once the table writes are made of the function that serves the fault (R454), the accesses that
triage has of the threads it names are made again, and no others. A Uzoip that has not started repairs nothing (R457). -/
def TriageRepairsAreTriedAgain : Prop :=
  ∀ (s u : State) (sid slot : Nat) (ts : BitVec 64) (ws : List (Nat × DWord)) (e : LogEnt),
    let who : FaultOf := .entry sid slot ts
    (s.byHost who = false → s.pkg.uzoipOff = true → exec (.triageRepair who ws) s = .next s)
    ∧ ((s.byHost who = true ∨ s.pkg.uzoipOff = false) →
      s.fnStores (s.byHost who) (dieOf (s.strand sid).core) ws = ([], u) → u.entry sid slot = some e →
      ((∃ a ∈ e.accs, a.atTriage = true ∧ a.among ts = true) → exec (.triageRepair who ws) s = .next
        ((u.putEntry sid slot (e.reissued (e.accs.map (fun a => if a.atTriage && a.among ts then { a with status := 0 } else a)))).redo
          sid slot))
      ∧ ((∀ a ∈ e.accs, (a.atTriage && a.among ts) = false) → exec (.triageRepair who ws) s = .next u))

/-- TRIAGE_RETURN (R199, R470): the faults that triage has of the threads it names are returned, so that the entry is failed, in state
4; nothing of memory has changed. -/
def TriageReturnsFailTheEntry : Prop :=
  ∀ (s : State) (sid slot : Nat) (ts : BitVec 64) (e : LogEnt), s.entry sid slot = some e → (s.strand sid).life = .resident →
    (s.core (s.strand sid).core).mq = [] → (∀ a ∈ e.accs, a.write = false) → (∃ a ∈ e.accs, a.atTriage = true ∧ a.among ts = true) →
    ∃ t e', exec (.triageReturn (.entry sid slot ts)) s = .next t ∧ t.entry sid slot = some e' ∧ e'.state = 4
      ∧ e'.raw = e.raw ∧ e'.accs = e.accs.map (fun a => if a.atTriage && a.among ts then { a with status := 3 } else a) ∧ t.mem = s.mem

/-- HEAP_GROWTH (R225, R226, R255, R354): by the blocks given, at least one grain, where the pool's budget admits it; otherwise the
append's class is delivered to the threads that append to that heap (R470). Where the host serves it (R454), with the function's writes
made, its turn come at the home and nothing held back there, END goes up, the budget is charged, and every append held on the heap is
made again. -/
def HeapsGrowWithinTheBudget : Prop :=
  ∀ (s : State) (sid slot blocks pa : Nat) (ws : List (Nat × DWord)) (e : LogEnt) (a : Acc), s.entry sid slot = some e →
    e.accs.find? Acc.hungry = some a → s.heapOf sid e a = some pa → (a.byHost = true ∨ s.pkg.uzoipOff = false) →
    let pool := (s.regionOf (s.strand sid)).pool
    let n := max blocks (blkGrain (s.blk pa))
    let used := (s.region pool).heapused + n
    let fits : Bool := blocks != 0 && decide (used ≤ (s.region pool).rcb.heapb) && decide (blkEnd (s.blk pa) + n ≤ ctrMax)
      && blkKind (s.blk pa) == 2
    (fits = false → exec (.heapGrowth sid slot ⟨blocks, ws⟩) s = .next ((s.starve sid slot e (some pa)).ctrLeave pa (.growth sid slot)))
    ∧ (∀ u v, fits = true → a.byHost = true → s.fnStores true (dieOf (s.strand sid).core) ws = ([], u) →
        u.ctrTurn pa (.growth sid slot) = (true, v) → v.writeBlocked (pa / 128) none none true false = false →
        let w := (v.extendCtr pa (blkEnd (v.blk pa) + n)).2
        exec (.heapGrowth sid slot ⟨blocks, ws⟩) s = .next ((((w.setRegion pool { w.region pool with heapused := used }).rcbPut pool 0x118 used).ctrLeave
          pa (.growth sid slot)).feedHeap pa))

/-- The answers of fault triage and heap growth (R199, R225, R226, R354, R470). With its table writes made, a repair tries again the
accesses that triage has of the threads it names; a return fails them, so that the entry's class is delivered; a heap grows by the
blocks given, at least one grain, where the pool's budget admits it, and otherwise the append's class is delivered. What Uzoip stores
outside its area and its grants is discarded and logged (R455, R456). -/
def Obligations.FunctionsAnswerTheirFaults : Prop :=
  FunctionStoresAreGuarded ∧ TriageRepairsAreTriedAgain ∧ TriageReturnsFailTheEntry ∧ HeapsGrowWithinTheBudget

/-! ## Registers by number, and the system instructions -/

/-- Every result that sets flags of the strand whose turn it is has reached FSTAT (R34, R79): neither a transcendental result nor a
read of the matrix array that rounds is still on its way. -/
def FlagsAreIn (s : State) : Prop := s.me.fills.any (fun f => f.kind == .transc) = false ∧ s.queued s.cur MEnt.setsFlags = false

/-- CSRR (R31 to R34, R37, R38, R103): a number that no table lists is the illegal instruction with info code 14, a privileged one asked for by
another than a system region's strand the protection fault; FRM, TIME, the strand's number, AMASK, the stack depths and the index
registers reach S(D), FSTAT once no result that sets flags is on its way, and the fields of the conversion record (R86), a count once the strand's conversions
in the matrix queue are counted (R87); and a system region's strand reads a privileged register as the register's own rules say, one of
the LLC once its slices have been read (R406). -/
def CsrReadsReachTheRegister : Prop :=
  ∀ (s : State) (o : SOps), Ready s (rawS 0x3E o) →
    let n := o.sel.toNat
    let gives (x : Nat) : Prop := exec (.csrr o) s = .next (s.setStrand s.cur ((s.me.setS o.d.toNat x).next (rawS 0x3E o).bytes))
    (n < 0x800 → n ∉ [0, 1, 0x010, 0x011, 0x020, 0x030, 0x040, 0x041, 0x042, 0x051, 0x052, 0x053] → cvField n = none →
      exec (.csrr o) s = .next (s.precise s.cur (rawS 0x3E o) clsIllegal 14 0 none 0))
    ∧ (0x800 ≤ n → s.isSystem s.me = false → exec (.csrr o) s = .next (s.precise s.cur (rawS 0x3E o) clsProt 0 0 none 0))
    ∧ (n = 0 → gives s.me.frm.toNat) ∧ (n = 0x010 → gives (s.time / 47)) ∧ (n = 0x011 → gives (s.time % 47 * 65536 / 47))
    ∧ (n = 0x040 → gives s.me.strandId) ∧ (n = 0x041 → gives s.me.amask.toNat) ∧ (n = 0x042 → gives s.me.depths)
    ∧ (n = 0x051 → gives (s.me.j 1)) ∧ (n = 0x052 → gives (s.me.j 2)) ∧ (n = 0x053 → gives (s.me.j 3))
    ∧ (n = 1 → FlagsAreIn s → gives s.me.fstat.toNat) ∧ (n = 1 → ¬ FlagsAreIn s → exec (.csrr o) s = .next s)
    ∧ (∀ i w, cvField n = some (i, w) →
        (n ∉ [0x100, 0x101, 0x102] ∨ s.queued s.cur MEnt.converts = false → gives (bits (s.cvRec (s.regionOf s.me).cvrecPa) (i + w - 1) i))
        ∧ (n ∈ [0x100, 0x101, 0x102] → s.queued s.cur MEnt.converts = true → exec (.csrr o) s = .next s))
    ∧ (0x800 ≤ n → s.isSystem s.me = true → privListed n = true → llcCsr n = false →
        let p := s.privTake (.strand s.cur) n
        exec (.csrr o) s = .next (p.2.setStrand s.cur (((p.2.strand s.cur).setS o.d.toNat p.1).next (rawS 0x3E o).bytes)))
    ∧ (s.isSystem s.me = true → llcCsr n = true → ∃ t, exec (.csrr o) s = .next t ∧ t.me.waiting = .llc o.d.toNat .start ∧ GoneOn s.me t.me (rawS 0x3E o)
        ∧ SameRegs s.me t.me [] [] ∧ t.mem = s.mem)

/-- CSRW (R31 to R34, R103): FRM takes bits [2:0] and 000 for a reserved mode, FSTAT bits [4:0], an index register bits [15:0], and a field of the conversion
record is written as R86 says; a
read-only or unlisted number is the illegal instruction with info code 14, a privileged one of another than a system region's strand
the protection fault; a system region's strand writes a privileged register under that register's own rules. -/
def CsrWritesFollowTheFields : Prop :=
  ∀ (s : State) (o : SOps), Ready s (rawS 0x3F o) →
    let n := o.sel.toNat
    let x := s.me.s o.a.toNat
    let after := s.me.next (rawS 0x3F o).bytes
    (n < 0x800 → n ∉ [0, 1, 0x051, 0x052, 0x053] → cvField n = none →
      exec (.csrw o) s = .next (s.precise s.cur (rawS 0x3F o) clsIllegal 14 0 none 0))
    ∧ (0x800 ≤ n → privReadOnly n = false → s.isSystem s.me = false →
        exec (.csrw o) s = .next (s.precise s.cur (rawS 0x3F o) clsProt 0 0 none 0))
    ∧ (0x800 ≤ n → privReadOnly n = true → exec (.csrw o) s = .next (s.precise s.cur (rawS 0x3F o) clsIllegal 14 0 none 0))
    ∧ (n = 0 → exec (.csrw o) s = .next (s.setStrand s.cur { after with frm := BitVec.ofNat 3 (if x % 8 < 5 then x % 8 else 0) }))
    ∧ (n = 1 → FlagsAreIn s →
        exec (.csrw o) s = .next (s.setStrand s.cur { after with fstat := BitVec.ofNat 5 x }))
    ∧ (∀ f, cvField n = some f → exec (.csrw o) s = .next ((s.setStrand s.cur after).cvWrite s.me.rid n x))
    ∧ (n ∈ [0x051, 0x052, 0x053] → ∃ t, exec (.csrw o) s = .next t ∧ OnlyMe s t ∧ t.me.j (n - 0x050) = x % 65536
        ∧ (∀ k, k ≠ n - 0x050 → t.me.j k = s.me.j k) ∧ (∀ m u, t.me.v m u = s.me.v m u) ∧ (∀ m, t.me.s m = s.me.s m) ∧ GoneOn s.me t.me (rawS 0x3F o))
    ∧ (0x800 ≤ n → privListed n = true → privReadOnly n = false → s.isSystem s.me = true →
        exec (.csrw o) s = .next ((s.setStrand s.cur after).privWrite (.strand s.cur) n x))

/-- CSRR and CSRW (R31 to R34, R37, R38, R86, R103): a number that no table lists, or a read-only one that is written, is the illegal
instruction with info code 14; a privileged one asked for by another than a system region's strand the protection fault. FRM, TIME, the
strand's number, AMASK, the stack depths, the index registers and the conversion record's fields reach S(D), FSTAT once no result
that sets flags is on its way. FRM takes bits [2:0] and 000 for a reserved mode, FSTAT bits [4:0], an index register bits [15:0]; a
privileged register is read and written under its own rules. -/
def Obligations.RegistersByNumberFollowTheirFields : Prop := CsrReadsReachTheRegister ∧ CsrWritesFollowTheFields

/-- TLBINV is a protection fault for a strand of another than a system region; an empty range, or one past 2^56, gives status 7 and does
nothing; else it waits until the strand's accesses of memory in the log and its dirty bytes on its core are performed, invalidates what it names in the dies of its
scope, and gives status 0 (R383, R384). HOST_TLBINV does the same in both dies, without a status. ICINV removes the lines of its range and
context from the instruction caches of its scope's cores (R385). MARK is nothing outside a debug region, and in one its entry, made at
its place in program order, follows those of the strand's earlier operations (R462). -/
def Obligations.SystemInstructionsComplete : Prop :=
  (∀ p ∈ ([(.tlbinvRange, 0), (.tlbinvAsid, 1), (.tlbinvAll, 2)] : List ((SOps → Instr) × Nat)), ∀ (s : State) (o : SOps), Ready s (rawS 0xF0 o) →
    let r := rawS 0xF0 o
    let v : Inval := ⟨p.2, if r.len = 2#2 then r.w2.toNat % 65536 else o.imm16.toNat, s.me.s o.a.toNat, s.me.s (o.a.toNat + 1)⟩
    let gives (t : State) (k : Nat) : State := t.setStrand s.cur (((t.strand s.cur).setS o.d.toNat k).next r.bytes)
    (s.isSystem s.me = false → exec (p.1 o) s = .next (s.fault s.cur r clsProt 0))
    ∧ (s.isSystem s.me = true → v.kind = 0 ∧ (v.len = 0 ∨ 2 ^ 56 < v.lo + v.len) → exec (p.1 o) s = .next (gives s 7))
    ∧ (∀ u t, s.isSystem s.me = true → v.bad = false → s.me.accessing = false → s.performCore s.me.core [s.cur] = (true, u) →
        u.invalidate (u.who s.cur) v (s.me.scopeDies r) = (true, t) → exec (p.1 o) s = .next (gives t 0))
    ∧ (s.isSystem s.me = true → v.bad = false → s.me.accessing = true → exec (p.1 o) s = .next (s.again s.cur o.d.toNat))
    ∧ (∀ u, s.isSystem s.me = true → v.bad = false → s.me.accessing = false → s.performCore s.me.core [s.cur] = (false, u) →
        exec (p.1 o) s = .next (u.again s.cur o.d.toNat)))
  ∧ (∀ (s t : State) (sel asid base len : Nat), sel ≤ 2 → (⟨sel, asid, base, len⟩ : Inval).bad = false →
      s.invalidate ⟨0, none, asid, true⟩ ⟨sel, asid, base, len⟩ [0, 1] = (true, t) → exec (.hostTlbinv sel asid base len) s = .next t)
  ∧ (∀ (s u : State) (o : SOps), Ready s (rawS 0xF1 o) →
      let r := rawS 0xF1 o
      let v : Inval := ⟨0, s.asidOf s.me, s.me.s o.a.toNat, s.me.s (o.a.toNat + 1)⟩
      (v.bad = true → exec (.icinv o) s = .next (s.setStrand s.cur ((s.me.setS o.d.toNat 7).next r.bytes)))
      ∧ (v.bad = false → s.me.accessing = true → exec (.icinv o) s = .next (s.again s.cur o.d.toNat))
      ∧ (v.bad = false → s.me.accessing = false → s.performCore s.me.core [s.cur] = (false, u) →
          exec (.icinv o) s = .next (u.again s.cur o.d.toNat))
      ∧ (v.bad = false → s.me.accessing = false → s.performCore s.me.core [s.cur] = (true, u) →
          ∃ t, exec (.icinv o) s = .next t ∧ (o.d.toNat ≠ 0 → t.me.s o.d.toNat = 0) ∧ t.mem = u.mem
            ∧ ∀ c, dieOf c ∈ s.me.scopeDies r → ∀ y ∈ (t.core c).icache, v.hits y.asid (y.vline * 128) 128 = false))
  ∧ (∀ (s : State) (o : SOps), Ready s (rawS 0xF2 o) →
      let r := rawS 0xF2 o
      ((s.regionOf s.me).rcb.dbg = false → exec (.mark o) s = .next (s.setStrand s.cur (s.me.next r.bytes)))
      ∧ ((s.regionOf s.me).rcb.dbg = true → s.negBlocks s.cur = true → exec (.mark o) s = .next s)
      ∧ ((s.regionOf s.me).rcb.dbg = true → s.negBlocks s.cur = false → exec (.mark o) s = .next
          ((({ s with seq := s.seq + 1 } : State).negative s.cur s.seq 9 0
            ((if r.len = 2#2 then r.w2.toNat else o.imm16.toNat) % 2 ^ 32 + s.me.s o.a.toNat % 2 ^ 32 * 2 ^ 32) 0xFF (10000 + s.cur)).done s.cur r)))

/-! ## Memory -/

/-- An instruction has entered the operand log (R198): its accesses stand in the free entry, its destinations are empty, an event that
performs it may happen, the strand has gone on, and nothing else has changed. -/
def EntersLog (o : Res) (s : State) (r : Raw) (dests : List Nat) (accs : List Acc) (ev : Nat → Instr) : Prop :=
  ∃ t slot e, o = .next t ∧ s.me.freeSlot = some slot ∧ kvFind t.me.log slot = some e
    ∧ (∀ k, k ≠ slot → kvFind t.me.log k = kvFind s.me.log k)
    ∧ e.raw = r ∧ e.pc = s.me.pc.toNat ∧ e.seq = s.seq ∧ e.amask = s.me.amask.toNat ∧ e.accs = accs ∧ e.state = 1
    ∧ (∀ k ∈ dests, k ≠ keyS 0 → t.me.isEmpty k = true) ∧ ev slot ∈ t.pending
    ∧ SameRegs s.me t.me [] [] ∧ t.me.preds = s.me.preds ∧ t.me.fstat = s.me.fstat ∧ t.me.amask = s.me.amask ∧ t.me.divs = s.me.divs
    ∧ GoneOn s.me t.me r ∧ t.mem = s.mem ∧ t.cohorts = s.cohorts ∧ t.cores = s.cores

/-- LD, LDL, ATOM, LEASE and a global WAIT enter the operand log with one access for each thread, at the thread's effective address
(R155, R158, R164, R166, R168): that is S(A) plus the scaled index plus the displacement, modulo 2^56. A misaligned thread
faults precisely, the lowest of them naming itself (R156, R204). An LDL waits behind an earlier scratchpad atomic of its strand that is
still to take place on the same bytes (R159, R200). -/
def Obligations.LoadsAndAtomicsEnterTheLog : Prop :=
  (∀ (st : Strand) (r : Raw) (th : Nat),
    st.ea r th = (((st.s r.a.toNat : Int) + st.index r th * 2 ^ r.sc + r.dispM) % 2 ^ 56).toNat)
  ∧ ∀ (s : State) (o : MOps),
    (Ready s (rawM 0x90 o) →
      let r := rawM 0x90 o
      let ts := s.me.memThreads r
      ((∀ th ∈ ts, s.me.ea r th % r.accAlign = 0) → EntersLog (exec (.ld o) s) s r (s.me.destKeys r)
        (ts.map (fun th => newAcc th (s.me.ea r th) r.accWidth 0 false))
        (fun slot => if r.kind = 1 then .strongReadAtHome s.cur slot else .loadDataArrival s.cur slot))
      ∧ ((∃ th ∈ ts, s.me.ea r th % r.accAlign ≠ 0) → ∃ th m, th ∈ ts ∧ s.me.ea r th % r.accAlign ≠ 0
          ∧ (∀ u ∈ ts, u < th → s.me.ea r u % r.accAlign = 0)
          ∧ exec (.ld o) s = .next (s.threadFault s.cur r (th, clsAlign, s.me.ea r th, m))))
    ∧ (Ready s (rawM 0x92 o) →
        let r := rawM 0x92 o
        let ts := s.me.memThreads r
        let earlier : Bool := s.me.behindBank (ts.map (fun th => newAcc th (spadVa + (s.me.offset r th).toNat) r.accWidth 0 false))
        (∀ th ∈ ts, s.spadCheck s.me.cid (s.me.offset r th) r.accWidth r.accAlign = none) →
        (earlier = true → exec (.ldl o) s = .next s)
        ∧ (earlier = false → ∃ accs, EntersLog (exec (.ldl o) s) s r (s.me.destKeys r) accs (.loadDataArrival s.cur)
          ∧ accs.map (fun a => (a.thread, a.got)) = ts.map (fun th => (th, s.spadNum s.me.cid (s.me.offset r th).toNat r.accWidth))))
    ∧ (Ready s (rawM 0x99 o) →
        let r := rawM 0x99 o
        let ts := s.me.guardThreads r
        (∀ th ∈ ts, s.me.ea r th % r.atomWidth = 0) → EntersLog (exec (.atom o) s) s r (s.me.destKeys r)
          (ts.map (fun th => s.me.atomAcc r th (s.me.ea r th))) (.atomicAtHome s.cur))
    ∧ (Ready s (rawM 0x9B o) →
        let r := rawM 0x9B o
        EntersLog (exec (.lease o) s) s r [keyS o.d.toNat] [newAcc s.me.lowest (s.me.ea r s.me.lowest) 0 0 false] (.leaseGrant s.cur))
    ∧ (Ready s (rawM 0x9D o) → o.f.toNat < 4 → s.negBlocks s.cur = false →
        let r := rawM 0x9D o
        let ts := s.me.memThreads r
        (∀ th ∈ ts, s.me.ea r th % r.atomWidth = 0) → EntersLog (exec (.wait o) s) s r (s.me.destKeys r)
          (ts.map (fun th => newAcc th (s.me.ea r th) r.atomWidth (s.me.dataOf r th % 2 ^ (8 * r.atomWidth)) false)) (.strongReadAtHome s.cur))

/-- No WAIT of the strand whose turn it is stands in its log: nothing that another write does reaches its registers. -/
def Undisturbed (s : State) : Prop := ∀ x, (s.cur, some x) ∈ s.strands → ∀ p ∈ x.log, p.2.raw.op ≠ 0x9D#8

/-- STL writes each storing thread's bytes at its offset, a higher thread's over a lower one's, and no other byte of its cohort's
scratchpad (R158, R160); ATOML gives each thread the old value at its offset and writes the new one, in one step (R164, R165); no
other cohort's scratchpad and no global memory changes, and with threads that fail a check of R156 nothing but the precise fault
happens. A store waits behind an earlier atomic of its strand that is still to take place on the same bytes (R159, R200). -/
def ScratchpadStoresAndAtomics : Prop :=
  (∀ (s : State) (o : MOps), Ready s (rawM 0x93 o) →
    let r := rawM 0x93 o
    let ts := s.me.guardThreads r
    let n := r.accWidth
    let at_ (th : Nat) : Nat := (s.me.offset r th).toNat
    let earlier : Bool := s.me.behindBank (ts.map (fun th => newAcc th (spadVa + at_ th) n 0 true))
    (∀ th ∈ ts, s.spadCheck s.me.cid (s.me.offset r th) n r.accAlign = none) → s.reg 0xA34 = 0 → Undisturbed s →
    (earlier = true → exec (.stl o) s = .next s)
    ∧ (earlier = false → ∃ t, exec (.stl o) s = .next t
      ∧ (∀ th ∈ ts, ∀ i < n, (∀ u ∈ ts, th < u → ¬ (at_ u ≤ at_ th + i ∧ at_ th + i < at_ u + n)) →
          t.spadByte s.me.cid (at_ th + i) = BitVec.ofNat 8 (s.me.dataOf r th / 256 ^ i))
      ∧ (∀ b, (∀ th ∈ ts, ¬ (at_ th ≤ b ∧ b < at_ th + n)) → t.spadByte s.me.cid b = s.spadByte s.me.cid b)
      ∧ (∀ c b, c ≠ s.me.cid → t.spadByte c b = s.spadByte c b) ∧ t.mem = s.mem
      ∧ SameRegs s.me t.me [] [] ∧ t.me.preds = s.me.preds ∧ t.me.fstat = s.me.fstat ∧ GoneOn s.me t.me r))
  ∧ (∀ (s : State) (o : MOps), Ready s (rawM 0x93 o) → (∃ th ∈ s.me.guardThreads (rawM 0x93 o),
      s.spadCheck s.me.cid (s.me.offset (rawM 0x93 o) th) (rawM 0x93 o).accWidth (rawM 0x93 o).accAlign ≠ none) →
      ∃ x, exec (.stl o) s = .next (s.threadFault s.cur (rawM 0x93 o) x) ∧ x.2.1 ∈ [clsAlign, clsProt, clsTile])
  ∧ (∀ (s : State) (o : MOps), Ready s (rawM 0x9A o) →
    let r := rawM 0x9A o
    let ts := s.me.guardThreads r
    let n := r.atomWidth
    let at_ (th : Nat) : Nat := (s.me.offset r th).toNat
    (∀ th ∈ ts, s.spadCheck s.me.cid (s.me.offset r th) n n = none ∧ s.spadStruck s.me.cid (at_ th) n = false) →
    (s.regionOf s.me).rcb.dbg = false → s.reg 0xA34 = 0 → Undisturbed s → s.me.log = [] → s.me.life = .resident →
    ∃ t, exec (.atoml o) s = .next t ∧ t.mem = s.mem ∧ GoneOn s.me t.me r ∧ t.me.log = []
      ∧ (∀ c b, c ≠ s.me.cid → t.spadByte c b = s.spadByte c b)
      ∧ ∀ th ∈ ts, (∀ u ∈ ts, u ≠ th → overlaps (at_ u) n (at_ th) n = false) →
          let old := s.spadNum s.me.cid (at_ th) n
          t.spadNum s.me.cid (at_ th) n = atomNew o.f.toNat r.ty old (s.me.atomArgs r th).1 (s.me.atomArgs r th).2 % 2 ^ (8 * n)
          ∧ (r.u = 0#1 → t.me.v (s.me.dnum r) th = old % 2 ^ 32))

/-- What a barrier's 16 bytes become when its phase is complete, with every expected strand counted in and no byte still due: the
phase bit flips, no strand is counted in, and the abandoned mark becomes that of the phase just done (R170, R171). -/
def barDone (x : Nat) : Nat :=
  if bits x 12 8 = bits x 4 0 ∧ bits x 103 64 = 0 then
    setBits (setBits (setBits (setBits x 18 18 (bits x 17 17)) 17 17 0) 12 8 0) 16 16 (b2n !(bit x 16)) else x

/-- BAR (R170 to R172): ARRIVE and SYNC count the strand in once its earlier accesses of memory are done and the phase has room; EXPECT adds S(D)[39:0] to the bytes
due; a barrier that expects no strand, or a sum of 2^40 and more, is a protection fault; WAIT and SYNC give the status and go on when the recorded
phase is over, 5 for an abandoned phase and else 0, and otherwise wait with S(D) empty. -/
def Obligations.BarriersCountPhases : Prop :=
  ∀ (s : State) (o : MOps), Ready s (rawM 0x9E o) → s.reg 0xA34 = 0 →
    let r := rawM 0x9E o
    let off := (s.me.offset r s.me.lowest).toNat
    let x := s.spadNum s.me.cid off 16
    s.spadCheck s.me.cid (s.me.offset r s.me.lowest) 16 16 = none →
    (s.me.accessing = false → bits x 4 0 = 0 → s.negBlocks s.cur = false → exec (.barArrive o) s = .next (s.fault s.cur r clsProt off)
      ∧ exec (.barSync o) s = .next (s.fault s.cur r clsProt off))
    ∧ (s.me.accessing = true ∨ (bits x 4 0 ≠ 0 ∧ bits x 12 8 = bits x 4 0) → exec (.barArrive o) s = .next s ∧ exec (.barSync o) s = .next (s.again s.cur o.d.toNat))
    ∧ (s.me.accessing = false → bits x 4 0 ≠ 0 → bits x 12 8 ≠ bits x 4 0 → s.negBlocks s.cur = false →
        (∃ t, exec (.barArrive o) s = .next t ∧ t.spadNum s.me.cid off 16 = barDone (setBits x 12 8 (bits x 12 8 + 1)) % 2 ^ 128
          ∧ GoneOn s.me t.me r ∧ t.mem = s.mem)
        ∧ (∃ t, exec (.barSync o) s = .next t ∧ t.spadNum s.me.cid off 16 = barDone (setBits x 12 8 (bits x 12 8 + 1)) % 2 ^ 128
          ∧ GoneOn s.me t.me r ∧ t.mem = s.mem))
    ∧ (let due := bits x 103 64 + s.me.s o.d.toNat % 2 ^ 40;
        (bits x 4 0 = 0 ∨ 2 ^ 40 ≤ due → exec (.barExpect o) s = .next (s.fault s.cur r clsProt off))
        ∧ (bits x 4 0 ≠ 0 → due < 2 ^ 40 → ∃ t, exec (.barExpect o) s = .next t ∧ GoneOn s.me t.me r ∧ t.mem = s.mem
            ∧ t.spadNum s.me.cid off 16 = barDone (setBits x 103 64 due) % 2 ^ 128))
    ∧ (let phase : Bool := (match s.me.barRec with | some (f, p) => if f = off then p else bit x 16 | none => bit x 16);
        (phase ≠ bit x 16 → ∃ t, exec (.barWait o) s = .next t ∧ OnlyMe s t ∧ GoneOn s.me t.me r ∧ t.me.waiting = .nothing
            ∧ (o.d.toNat ≠ 0 → t.me.s o.d.toNat = if bit x 18 then 5 else 0))
        ∧ (phase = bit x 16 → ∃ t, exec (.barWait o) s = .next t ∧ OnlyMe s t ∧ GoneOn s.me t.me r ∧ t.me.waiting = .bar off phase o.d.toNat
            ∧ (o.d.toNat ≠ 0 → t.me.isEmpty (keyS o.d.toNat) = true) ∧ SameRegs s.me t.me [] []))

/-- No LLC tag has lost both of its copies (R449). -/
def NoTagLost (s : State) : Prop := ∀ k t, (k, some t) ∈ s.homes.tags → (t.bad1 && t.bad2) = false

/-- ST enters the log; a weak store then reaches its core's L1, and a strong one waits to be performed at its home (R158, R181). Where the
lines of all its threads stand in L1 with write permission, and no epoch flips (R415), a weak store is complete as it issues: each byte of a thread stands in the
core's copy of its line, a higher thread's over a lower one's, and memory at the homes is unchanged. -/
def Obligations.StoresReachTheCache : Prop :=
  ∀ (s : State) (o : MOps), Ready s (rawM 0x91 o) →
    let r := rawM 0x91 o
    let ts := s.me.guardThreads r
    let n := r.accWidth
    let accs := ts.map (fun th => newAcc th (s.me.ea r th) n (s.me.dataOf r th % 2 ^ (8 * n)) true)
    let p := s.logged s.cur r accs [] false
    let copyAt (t : State) (va : Nat) : Option Copy := t.copyOf s.me.core (fun c => c.isAt 0 (s.asidOf s.me) (va / 128))
    (∀ th ∈ ts, s.me.ea r th % r.accAlign = 0) →
    (r.kind = 1 → ts ≠ [] → EntersLog (exec (.st o) s) s r [] accs (.writePerformed s.cur))
    ∧ (r.kind ≠ 1 ∨ ts = [] → ∃ e, p.2.entry s.cur p.1 = some e ∧ e.accs = accs
        ∧ exec (.st o) s = .next ((p.2.runEntry s.cur p.1 e (State.storeAcc r s.cur p.1) Strand.finishNone).stillDue s.cur p.1))
    ∧ (r.kind ≠ 1 → s.me.log = [] → s.me.life = .resident → s.flipHold = false →
        (∀ th ∈ ts, s.me.ea r th % 128 + n ≤ 128 ∧ ∃ c, copyAt s (s.me.ea r th) = some c ∧ c.data.length = 128
          ∧ permFault c.perms needW (s.isSystem s.me) 0 = none ∧ s.leasedAway s.me.core c.pline (some s.cur) = false
          ∧ s.isProtected (c.pline * 128 + s.me.ea r th % 128) = false
          ∧ s.isProtected (c.pline * 128 + s.me.ea r th % 128 + n - 1) = false) →
        ∃ t, exec (.st o) s = .next t ∧ t.mem = s.mem ∧ t.me.log = [] ∧ GoneOn s.me t.me r ∧ SameRegs s.me t.me [] []
          ∧ t.me.preds = s.me.preds ∧ t.me.fstat = s.me.fstat ∧ t.cohorts = s.cohorts
          ∧ ∀ th ∈ ts, ∀ i < n, (∀ u ∈ ts, th < u → ¬ (s.me.ea r u ≤ s.me.ea r th + i ∧ s.me.ea r th + i < s.me.ea r u + n)) →
              ∃ c, copyAt t (s.me.ea r th) = some c
                ∧ listAt 0 c.data (s.me.ea r th % 128 + i) = BitVec.ofNat 8 (s.me.dataOf r th % 2 ^ (8 * n) / 256 ^ i)
                ∧ bit c.dirty (s.me.ea r th % 128 + i) = true)

/-- CLEAN and DROP enter the log with one access for each distinct line, LOCK and UNLOCK with one for each active thread, UNLEASE with one, and run
as they issue (R161, R162, R166); PREF touches no register, and with no lost tag no byte of
memory, but that with U = 1 the core's own dirty bytes of the line may be performed first (R161, R381). -/
def LineInstructionsRunAsTheyIssue : Prop :=
  (∀ p ∈ ([(.cleanL1, 0x95), (.cleanMem, 0x95), (.dropL1, 0x96), (.dropLlc, 0x96)] : List ((MOps → Instr) × Nat)), ∀ (s : State) (o : MOps),
    Ready s (rawM p.2 o) →
    let r := rawM p.2 o
    let accs := (s.me.lineThreads r).map (fun th => newAcc th (s.me.ea r th) 128 0 true)
    let l := s.logged s.cur r accs [] false
    ∃ e, l.2.entry s.cur l.1 = some e ∧ e.accs = accs ∧ e.raw = r
      ∧ exec (p.1 o) s = .next ((l.2.runEntry s.cur l.1 e (State.cleanAcc r s.cur) Strand.finishNone).stillDue s.cur l.1))
  ∧ (∀ p ∈ ([(.lock, 0x97), (.unlock, 0x98)] : List ((MOps → Instr) × Nat)), ∀ (s : State) (o : MOps), Ready s (rawM p.2 o) →
    let r := rawM p.2 o
    let accs := s.me.active.map (fun th => newAcc th (s.me.ea r th) 0 0 false)
    let l := s.logged s.cur r accs (s.me.destKeys r) false
    ∃ e, l.2.entry s.cur l.1 = some e ∧ e.accs = accs ∧ e.raw = r
      ∧ exec (p.1 o) s = .next (l.2.runEntry s.cur l.1 e (State.pinAcc r s.cur) Strand.finishPin))
  ∧ (∀ (s : State) (o : MOps), Ready s (rawM 0x9C o) →
    let r := rawM 0x9C o
    let l := s.oneEntry s.cur r 0 false
    ∃ e, l.2.entry s.cur l.1 = some e ∧ e.accs = [newAcc s.me.lowest (s.me.ea r s.me.lowest) 0 0 false]
      ∧ exec (.unlease o) s = .next (l.2.unleaseEntry s.cur l.1 e))
  ∧ (∀ p ∈ ([.prefL1, .prefLlc] : List (MOps → Instr)), ∀ (s : State) (o : MOps), Ready s (rawM 0x94 o) → NoTagLost s → Undisturbed s →
    ∃ t, exec (p o) s = .next t ∧ SameRegs s.me t.me [] [] ∧ (o.u = 0#1 → t.mem = s.mem) ∧ t.me.preds = s.me.preds ∧ t.me.fstat = s.me.fstat ∧ t.me.log = s.me.log
      ∧ GoneOn s.me t.me (rawM 0x94 o) ∧ t.cohorts = s.cohorts ∧ t.regions = s.regions)

/-- FENCE (R173, R413): REL and AR wait for the strand's accesses of memory in the log, ACQ for its loads, atomics and WAITs; then, with a
scope wider than the cohort, REL and AR have the strand's dirty bytes on the core performed, and ACQ and AR raise the core's logical time to the largest
write stamp it has read; at the cohort's scope ACQ and AR have the copies of what the core's strong reads have read renewed before they
answer again (R182). A wider REL or AR has then no store that its home has refused and that is still to be deferred (R174, R201). -/
def FencesWaitAndOrder : Prop :=
  ∀ (s : State) (o : MOps), Ready s (rawM 0x9F o) →
    let r := rawM 0x9F o
    let wide := r.scopeM ≠ 0
    let acquire (t : State) : State := if wide then t.modCore s.me.core (fun c => { c with lt := max c.lt c.acqts, acqts := 0, acqLines := [] })
      else t.expireRead s.me.core
    (s.me.accessing = true → exec (.fenceRel o) s = .next s ∧ exec (.fenceAr o) s = .next s)
    ∧ ((∃ p ∈ s.me.log, p.2.isRead = true) → exec (.fenceAcq o) s = .next s)
    ∧ ((∀ p ∈ s.me.log, p.2.isRead = false) →
        exec (.fenceAcq o) s = .next ((acquire s).done s.cur r))
    ∧ (s.me.accessing = false → ¬ wide →
        exec (.fenceRel o) s = .next (s.done s.cur r) ∧ exec (.fenceAr o) s = .next ((acquire s).done s.cur r))
    ∧ (∀ u, s.me.accessing = false → wide → s.performCore s.me.core [s.cur] = (true, u) → (∀ a ∈ u.homes.refused, a.sid ≠ s.cur)
        ∧ exec (.fenceRel o) s = .next (u.done s.cur r) ∧ exec (.fenceAr o) s = .next ((acquire u).done s.cur r))
    ∧ (∀ u, s.me.accessing = false → wide → s.performCore s.me.core [s.cur] = (false, u) →
        exec (.fenceRel o) s = .next u ∧ exec (.fenceAr o) s = .next u)

/-- CLEAN and DROP enter the log with one access for each distinct line, LOCK and UNLOCK with one for each active thread, UNLEASE with one,
and run as they issue (R161, R162, R166); PREF touches no register and, with no tag lost, no byte of memory but its core's own dirty
bytes. FENCE (R173, R413): REL and AR wait for the strand's accesses of memory in the log, ACQ for its loads, atomics and WAITs; then,
with a scope wider than the cohort, REL and AR have the strand's dirty bytes on the core performed, and ACQ and AR raise the core's logical time to the
largest write stamp it has read. -/
def Obligations.LinesAndFences : Prop := LineInstructionsRunAsTheyIssue ∧ FencesWaitAndOrder

/-- Guard objects (R174 to R176). A guard address off a 64-byte boundary is the alignment fault. An instruction on a guard waits behind an
earlier access of its strand to the guard's bytes that is still to be performed (R159, R200). At a guard that is reached, GBIND gives status 7
for a range that passes 2^56, 6 while the guard is held, and else 0 with the ranges bound; ACQ gives 7 to a strand that holds the guard, 6 for one
that is not bound, and else waits in the guard's queue; REL gives 7 to a strand that does not hold it. GUARD_GRANT leaves a request that the
guard's state forbids where it is, and grants it otherwise. -/
def Obligations.GuardsAreRequestedAndGranted : Prop :=
  (∀ (s u : State) (o : MOps) (pa : Nat),
    let d := o.d.toNat
    let gives (k : Nat) (t : State) (r : Raw) : State := t.setStrand s.cur (((t.strand s.cur).setS d k).next r.bytes)
    let waits (va : Nat) : Prop := s.behind s.cur s.seq (newAcc 0 va 64 0 true) = true
    (Ready s (rawM 0xA2 o) →
      let r := rawM 0xA2 o
      let va := s.me.ea r s.me.lowest
      (va % 64 ≠ 0 → exec (.gbind o) s = .next (s.fault s.cur r clsAlign va))
      ∧ (va % 64 = 0 → waits va → exec (.gbind o) s = .next (s.again s.cur d))
      ∧ (va % 64 = 0 → ¬ waits va → s.reachGuard s.cur va = (.at pa, u) → ∃ k t, exec (.gbind o) s = .next (gives k t r) ∧ k ∈ [0, 6, 7]
          ∧ (k = 7 ↔ ∃ i < 3, 2 ^ 56 < listAt 0 (s.me.bindVals r) (2 * i) % 2 ^ 56 + listAt 0 (s.me.bindVals r) (2 * i + 1) % 2 ^ 56)
          ∧ (k = 6 ↔ (¬ ∃ i < 3, 2 ^ 56 < listAt 0 (s.me.bindVals r) (2 * i) % 2 ^ 56 + listAt 0 (s.me.bindVals r) (2 * i + 1) % 2 ^ 56)
              ∧ guardHeld (u.numAt pa 64) = true)
          ∧ (k ≠ 0 → t = u)))
    ∧ (∀ p ∈ ([(.acqX, true), (.acqSh, false)] : List ((MOps → Instr) × Bool)), Ready s (rawM 0xA0 o) →
      let r := rawM 0xA0 o
      let va := s.me.ea r s.me.lowest
      (va % 64 ≠ 0 → exec (p.1 o) s = .next (s.fault s.cur r clsAlign va))
      ∧ (va % 64 = 0 → s.negBlocks s.cur = false → waits va → exec (p.1 o) s = .next (s.again s.cur d))
      ∧ (va % 64 = 0 → s.negBlocks s.cur = false → ¬ waits va → s.reachGuard s.cur va = (.at pa, u) →
          ((u.strand s.cur).guards.contains pa = true → exec (p.1 o) s = .next (gives 7 u r))
          ∧ ((u.strand s.cur).guards.contains pa = false → guardBound (u.numAt pa 64) = false → exec (p.1 o) s = .next (gives 6 u r))
          ∧ ((u.strand s.cur).guards.contains pa = false → guardBound (u.numAt pa 64) = true →
              ∃ t, exec (p.1 o) s = .next t ∧ t.me.waiting = .acq pa va d ∧ .guardGrant pa ∈ t.pending ∧ GoneOn (u.strand s.cur) t.me r
                ∧ kvGet [] t.homes.guardQ pa = kvGet [] u.homes.guardQ pa ++ [(s.cur, d, p.2)] ∧ t.mem = u.mem)))
    ∧ (Ready s (rawM 0xA1 o) →
      let r := rawM 0xA1 o
      let va := s.me.ea r s.me.lowest
      (va % 64 ≠ 0 → exec (.rel o) s = .next (s.fault s.cur r clsAlign va))
      ∧ (va % 64 = 0 → s.negBlocks s.cur = false → waits va → exec (.rel o) s = .next (s.again s.cur d))
      ∧ (va % 64 = 0 → s.negBlocks s.cur = false → ¬ waits va → s.reachGuard s.cur va = (.at pa, u) →
          ((u.strand s.cur).guards.contains pa = false → exec (.rel o) s = .next (gives 7 u r))
          ∧ (∀ v, u.releaseGuard s.cur u.seq va pa = (some 0, v) → exec (.rel o) s = .next (gives 0 v r)))))
  ∧ (∀ (s : State) (pa sid d : Nat) (excl : Bool) (rest : List (Nat × Nat × Bool)), kvGet [] s.homes.guardQ pa = (sid, d, excl) :: rest →
      ((if excl then guardHeld (s.numAt pa 64) else guardExcl (s.numAt pa 64)) = true → exec (.guardGrant pa) s = .next s)
      ∧ (s.negBlocks sid = true → exec (.guardGrant pa) s = .next s)
      ∧ ((if excl then guardHeld (s.numAt pa 64) else guardExcl (s.numAt pa 64)) = false →
          s.negBlocks sid = false → s.writeBlocked (pa / 128) none (some (s.strand sid).core) true false = false →
          ∃ t u, exec (.guardGrant pa) s = .next t ∧ (t = u ∨ t = u.push (.guardGrant pa))
            ∧ u = ({ s with homes := { s.homes with guardQ := kvSet [] s.homes.guardQ pa rest } } : State).grantGuard pa sid d excl))

/-- A write performed at its home (R181, R411): of bytes of one line, with no tag of the set lost and no ring for the negative, it changes the
bytes that it writes, a later one of the list over an earlier one, and no other byte at any home; a line of package HBM is then stamped
with the larger of the writer's logical time and one more than its rts, which becomes the writer's logical time. -/
def HomeWritesChangeTheirBytesOnly : Prop :=
  ∀ (s : State) (pa : Nat) (b : Byte) (rest : List (Nat × Byte)) (core : Option Nat), NoTagLost s → s.reg 0xA34 = 0 →
    (∀ w ∈ rest, w.1 / 128 = pa / 128) →
    let t := s.homeWrite ((pa, b) :: rest) core
    (∀ a, (∀ w ∈ (pa, b) :: rest, w.1 ≠ a) → t.byteAt a = s.byteAt a)
    ∧ (∀ before after a v, (pa, b) :: rest = before ++ (a, v) :: after → (∀ w ∈ after, w.1 ≠ a) → t.byteAt a = v)
    ∧ (isHbm pa = true →
        let stamp := max (match core with | some c => (s.core c).lt | none => 0) ((s.wr (pa / 128)).2 + 1)
        t.wr (pa / 128) = (stamp, stamp) ∧ ∀ c, core = some c → (t.core c).lt = stamp)

/-- The new value of an atomic's location (R164): sums wrap, minimum and maximum follow the type's order, and CAS writes its second operand only
where the first equals the old value. -/
def AtomicsComputeTheirNewValue : Prop :=
  (∀ old x y : BitVec 32,
    let f (op ty : Nat) : BitVec 32 := BitVec.ofNat 32 (atomNew op ty old.toNat x.toNat y.toNat)
    (∀ ty ∈ [0, 1], f 0 ty = old + x ∧ f 3 ty = old &&& x ∧ f 4 ty = old ||| x ∧ f 5 ty = old ^^^ x ∧ f 6 ty = x
      ∧ f 7 ty = if old = x then y else old)
    ∧ f 1 0 = (if x.slt old then x else old) ∧ f 2 0 = (if old.slt x then x else old)
    ∧ f 1 1 = (if x < old then x else old) ∧ f 2 1 = (if old < x then x else old)
    ∧ f 0 8 = BitVec.ofNat 32 (floatElem 0x60 fmtF32 0 old.toNat x.toNat 0).bits)
  ∧ (∀ old x y : BitVec 64,
    let f (op ty : Nat) : BitVec 64 := BitVec.ofNat 64 (atomNew op ty old.toNat x.toNat y.toNat)
    (∀ ty ∈ [2, 3], f 0 ty = old + x ∧ f 3 ty = old &&& x ∧ f 4 ty = old ||| x ∧ f 5 ty = old ^^^ x ∧ f 6 ty = x
      ∧ f 7 ty = if old = x then y else old)
    ∧ f 1 2 = (if x.slt old then x else old) ∧ f 2 2 = (if old.slt x then x else old)
    ∧ f 1 3 = (if x < old then x else old) ∧ f 2 3 = (if old < x then x else old))
  ∧ (∀ (r : Raw) (sid slot : Nat) (s u : State) (a : Acc) (pa : Nat), s.negBlocks sid = false → (u.regionOf (u.strand sid)).rcb.dbg = false →
      s.atomicAt (s.who sid) a.va a.size needRW = (.ok pa, u) → u.isProtected pa = false →
      let new := atomNew r.f.toNat r.ty (u.numAt pa a.size) a.data a.data2
      let w := (u.noteWts (pa / 128) (s.strand sid).core).homeWrite (cellsOf pa (leBytes a.size new)) (some (s.strand sid).core)
      (w.regionOf (w.strand sid)).rcb.dbg = false →
      ∃ v, State.atomHome r sid slot s a = (.ok (u.numAt pa a.size), v) ∧ v.mem = w.mem)

/-- A write performed at its home (R181, R411), of bytes of one line, with no tag of the set lost and no ring for the negative, changes the
bytes that it writes, a later one of the list over an earlier one, and no other byte at any home; a line of package HBM is stamped
with the larger of the writer's logical time and one more than its rts, which becomes the writer's logical time. The new value of an
atomic's location (R164): sums wrap, minimum and maximum follow the type's order, and CAS writes its second operand only where the
first equals the old value; the atomic reads and writes its home in one step (R165). -/
def Obligations.HomesPerformWritesAndAtomics : Prop := HomeWritesChangeTheirBytesOnly ∧ AtomicsComputeTheirNewValue

/-- The events of memory (R158, R165, R166, R167, R181, R412). LOAD_DATA_ARRIVAL runs the accesses of a load's entry, WRITE_PERFORMED those of
a store, CLEAN or DROP, ATOMIC_AT_HOME those of an atomic, STRONG_READ_AT_HOME those of a strong load or a WAIT, LEASE_GRANT a LEASE;
each leaves an entry of another kind, and a place that holds none, as it is. A scratchpad load that is alone in the log fills D
with its values and leaves the log. L1_WRITE_BACK performs a line's dirty bytes as one write at its home, but for those that a protected block
refuses, whose stores are to be deferred (R174, R199), and LEASE_EXPIRY ends a lease that has stood 4,096 cycles, once its holder's accesses on
their way have joined it. -/
def Obligations.MemoryEventsPerformTheLog : Prop :=
  (∀ (s : State) (sid slot : Nat), s.entry sid slot = none → slot < 8 →
    ∀ i ∈ ([.loadDataArrival sid slot, .writePerformed sid slot, .atomicAtHome sid slot, .strongReadAtHome sid slot, .leaseGrant sid slot] : List Instr),
      exec i s = .next s)
  ∧ (∀ (s : State) (sid slot : Nat) (e : LogEnt), s.entry sid slot = some e → slot < 8 →
    let op := e.raw.op.toNat
    let if_ (ops : List Nat) (t : State) : Res := .next (if op ∈ ops then t else s)
    exec (.loadDataArrival sid slot) s = if_ [0x90, 0x92] (s.memEntry sid slot e)
    ∧ exec (.writePerformed sid slot) s = if_ [0x91, 0x95, 0x96] (s.memEntry sid slot e)
    ∧ exec (.atomicAtHome sid slot) s = if_ [0x99, 0x9A] (s.memEntry sid slot e)
    ∧ (op ≠ 0x90 → exec (.strongReadAtHome sid slot) s = if_ [0x9D] (s.waitEntry sid slot e))
    ∧ (op = 0x90 → exec (.strongReadAtHome sid slot) s = .next (s.memEntry sid slot e))
    ∧ exec (.leaseGrant sid slot) s = if_ [0x9B] (s.leaseEntry sid slot e))
  ∧ (∀ (s : State) (sid slot : Nat) (e : LogEnt), (s.strand sid).log = [(slot, e)] → (s.strand sid).life = .resident → e.raw.op = 0x92#8 →
      slot < 8 → e.raw.u = 0#1 → (∀ a ∈ e.accs, a.status = 0 ∧ a.data ≠ 1 ∧ a.thread < 64) → (e.accs.map Acc.thread).Nodup →
      ∃ t, exec (.loadDataArrival sid slot) s = .next t ∧ (t.strand sid).log = [] ∧ t.mem = s.mem
        ∧ (t.strand sid).isEmpty (keyV e.dnum) = false
        ∧ ∀ a ∈ e.accs, (t.strand sid).v e.dnum a.thread = extendTo e.raw a.size a.got % 2 ^ 32)
  ∧ (∀ (s : State) (core line : Nat),
      ((∀ c, s.l1Of core line = some c → c.dirty = 0) → exec (.l1WriteBack core line) s = .next s)
      ∧ (∀ c, s.l1Of core line = some c → c.dirty ≠ 0 → (∀ h, s.holding line = some h → h.core ≠ core) →
          let sifted := s.sift c (dirtyCells c)
          (isHbm (line * 128) = true → s.writeBlocked line none (some core) false false = false →
            exec (.l1WriteBack core line) s = .next ((sifted.2.setCopy core c.cleaned).homeWrite sifted.1 (some core)))
          ∧ (isHbm (line * 128) = false → ∃ t, exec (.l1WriteBack core line) s = .next t
              ∧ t.homes.goQueue = s.homes.goQueue ++ [(core, dirtyCells c)] ∧ t.l1Of core line = none ∧ t.mem = s.mem)))
  ∧ (∀ (s : State) (core line : Nat) (h : Holding), s.holding line = some h →
      (h.core = core → h.since + 4096 ≤ s.cycle → line ∈ (s.strand h.sid).leases → exec (.leaseExpiry core line) s = .next ((s.joinLease h.sid line s.seq).endLease h.sid line))
      ∧ (s.cycle < h.since + 4096 → exec (.leaseExpiry core line) s = .next s))

/-! ## Memory instructions that complete -/

/-- The strand whose turn it is runs, with nothing in its log, no lease and nothing that it waits for, and no WAIT entry under its number. -/
def Unburdened (s : State) : Prop :=
  s.me.log = [] ∧ s.me.leases = [] ∧ s.me.waiting = .nothing ∧ s.me.life = .resident ∧ Undisturbed s

/-- A value of each thread of a list has reached D: with U = 1 uniform register D (s0 discards it, R20), else vector register D, or the pair
D and D + 1, of each thread; D is full, and nothing else of the strand's registers has changed. -/
def GivesEach (x y : Strand) (r : Raw) (ts : List Nat) (val : Nat → Nat) : Prop :=
  (∀ k ∈ x.destKeys r, k ≠ keyS 0 → y.isEmpty k = false) ∧ y.preds = x.preds ∧ y.fstat = x.fstat ∧ GoneOn x y r
  ∧ (r.u = 1#1 → (∀ th ∈ ts, r.d.toNat ≠ 0 → y.s r.d.toNat = val th % 2 ^ 64) ∧ SameRegs x y [] [r.d.toNat])
  ∧ (r.u ≠ 1#1 → SameRegs x y (if r.wide then [x.eff r r.d.toNat, x.eff r r.d.toNat + 1] else [x.eff r r.d.toNat]) []
      ∧ (∀ th ∈ ts, y.v (x.eff r r.d.toNat) th = val th % 2 ^ 32
          ∧ (r.wide = true → y.v (x.eff r r.d.toNat + 1) th = val th / 2 ^ 32 % 2 ^ 32))
      ∧ ∀ n t, t < 64 → t ∉ ts → y.v n t = x.v n t)

/-- Nothing at the home stands in the way of one access of n bytes at a virtual address: it translates to package HBM at pa with the
permissions that it needs, its core's L1 has no copy of the line, no lease, device write, back-invalidate or epoch flip makes it wait (R167,
R415, R418, R434), no half of a line is poisoned, in HBM or beneath the LLC (R422), and no negative is kept (R461). -/
def HomeIsQuiet (s : State) (va need n pa : Nat) : Prop :=
  (∃ perms u, s.access (s.who s.cur) va need 0 = (.hit pa perms, u)) ∧ va % 128 + n ≤ 128 ∧ pa % 128 + n ≤ 128 ∧ isHbm pa = true
  ∧ s.l1Of s.me.core (pa / 128) = none ∧ s.holding (pa / 128) = none ∧ s.goPending (pa / 128) = false
  ∧ s.writeBlocked (pa / 128) none (some s.me.core) true false = false ∧ s.homes.poison = [] ∧ s.homes.hbmBad = [] ∧ NoTagLost s ∧ s.reg 0xA34 = 0

/-- Memory is as it was, but for n bytes from an address. -/
def SameMemBut (s t : State) (pa n : Nat) : Prop := ∀ a, a < pa ∨ pa + n ≤ a → t.byteAt a = s.byteAt a

/-- Loads, strong stores and atomics COMPLETE (R155 to R159, R164, R165, R181): a weak LD whose lines its core's cache holds as valid copies brings every
thread's bytes from them when its data arrives; a strong LD of one thread the bytes at the home; a LDL every thread's bytes of the scratchpad. A strong ST of
one thread has changed exactly its bytes at the home once it is performed there; an ATOM of one thread its word, to the new value that R164 gives, with
the old value in D. No other byte of memory changes. -/
def LoadsAndAtomicsComplete : Prop :=
  ∀ (s : State) (o : MOps), Unburdened s →
    (Ready s (rawM 0x90 o) →
      let r := rawM 0x90 o
      let ts := s.me.memThreads r
      let n := r.accWidth
      let at_ (th : Nat) : Option Copy := s.copyOf s.me.core (fun c => c.isAt (s.me.loadCache r) (s.asidOf s.me) (s.me.ea r th / 128))
      (∀ th ∈ ts, s.me.ea r th % r.accAlign = 0) →
      (r.kind ≠ 1 → s.me.around = false → s.flipHold = false →
        (∀ th ∈ ts, s.me.ea r th % 128 + n ≤ 128 ∧ ∃ c, at_ th = some c ∧ permFault c.perms needR (s.isSystem s.me) 0 = none
          ∧ s.copyValid s.me.core c = true ∧ c.poison = 0 ∧ s.leasedAway s.me.core c.pline (some s.cur) = false) →
        ∃ t u, exec (.ld o) s = .next t ∧ exec (.loadDataArrival s.cur 0) t = .next u ∧ u.me.log = [] ∧ u.mem = s.mem ∧ u.cohorts = s.cohorts
          ∧ GivesEach s.me u.me r ts (fun th => extendTo r n (match at_ th with
              | some c => ofLe ((c.data.drop (s.me.ea r th % 128)).take n)
              | none => 0)))
      ∧ (∀ th pa, r.kind = 1 → ts = [th] → HomeIsQuiet s (s.me.ea r th) needR n pa →
        ∃ t u, exec (.ld o) s = .next t ∧ exec (.strongReadAtHome s.cur 0) t = .next u ∧ u.me.log = [] ∧ u.mem = s.mem ∧ u.cohorts = s.cohorts
          ∧ GivesEach s.me u.me r ts (fun _ => extendTo r n (s.numAt pa n))))
    ∧ (Ready s (rawM 0x92 o) →
      let r := rawM 0x92 o
      let ts := s.me.memThreads r
      let n := r.accWidth
      (∀ th ∈ ts, s.spadCheck s.me.cid (s.me.offset r th) n r.accAlign = none ∧ s.spadStruck s.me.cid (s.me.offset r th).toNat n = false) →
      ∃ t u, exec (.ldl o) s = .next t ∧ exec (.loadDataArrival s.cur 0) t = .next u ∧ u.me.log = [] ∧ u.mem = s.mem ∧ u.cohorts = s.cohorts
        ∧ u.cores = s.cores ∧ GivesEach s.me u.me r ts (fun th => extendTo r n (s.spadNum s.me.cid (s.me.offset r th).toNat n)))
    ∧ (Ready s (rawM 0x91 o) →
      let r := rawM 0x91 o
      let n := r.accWidth
      ∀ th pa, r.kind = 1 → s.me.guardThreads r = [th] → s.me.ea r th % r.accAlign = 0 → HomeIsQuiet s (s.me.ea r th) needW n pa →
        s.isProtected pa = false → s.isProtected (pa + n - 1) = false →
        ∃ t u, exec (.st o) s = .next t ∧ exec (.writePerformed s.cur 0) t = .next u ∧ u.me.log = [] ∧ GoneOn s.me u.me r
          ∧ SameRegs s.me u.me [] [] ∧ u.cohorts = s.cohorts ∧ SameMemBut s u pa n
          ∧ ∀ i < n, u.byteAt (pa + i) = BitVec.ofNat 8 (s.me.dataOf r th % 2 ^ (8 * n) / 256 ^ i))
    ∧ (Ready s (rawM 0x99 o) →
      let r := rawM 0x99 o
      let n := r.atomWidth
      ∀ th pa, s.me.guardThreads r = [th] → s.me.ea r th % n = 0 → HomeIsQuiet s (s.me.ea r th) needRW n pa → s.isProtected pa = false →
        ∃ t u, exec (.atom o) s = .next t ∧ exec (.atomicAtHome s.cur 0) t = .next u ∧ u.me.log = [] ∧ u.cohorts = s.cohorts
          ∧ GivesEach s.me u.me r [th] (fun _ => extendTo r n (s.numAt pa n)) ∧ SameMemBut s u pa n
          ∧ u.numAt pa n = atomNew r.f.toNat r.ty (s.numAt pa n) (s.me.atomArgs r th).1 (s.me.atomArgs r th).2 % 2 ^ (8 * n))

/-- LEASE, UNLEASE and WAIT COMPLETE (R166 to R168). A LEASE of a line that nobody holds, with a slot for it, is granted: status 0, the line in the strand's
list and fresh in its L1. UNLEASE of a held line ends it with status 0; of another it has status 7 and ends nothing. A WAIT of one thread on a word that
satisfies it already goes on with that word in D, and one on the scratchpad as it issues. -/
def LeasesAndWaitsComplete : Prop :=
  (∀ (s : State) (o : MOps) (pa : Nat), Unburdened s → Ready s (rawM 0x9B o) →
    let va := s.me.ea (rawM 0x9B o) s.me.lowest
    HomeIsQuiet s va needRW 1 pa → s.pkg.flipping = false → s.slotFree s.me.core 0 (va / 128) = true → s.readBlocked (pa / 128) (some s.cur) s.me.core = false →
    ∃ t u, exec (.lease o) s = .next t ∧ exec (.leaseGrant s.cur 0) t = .next u ∧ u.me.log = [] ∧ u.mem = s.mem ∧ GoneOn s.me u.me (rawM 0x9B o)
      ∧ SameRegs s.me u.me [] [o.d.toNat] ∧ (o.d.toNat ≠ 0 → u.me.s o.d.toNat = 0) ∧ u.me.leases = [pa / 128]
      ∧ (∃ h, u.holding (pa / 128) = some h ∧ h.core = s.me.core ∧ h.sid = s.cur ∧ h.since = s.cycle)
      ∧ ∃ c, u.l1Of s.me.core (pa / 128) = some c ∧ c.data = s.lineBytes (pa / 128) ∧ c.dirty = 0 ∧ c.asid = s.asidOf s.me ∧ c.vline = va / 128)
  ∧ (∀ (s u : State) (o : MOps) (pa perms : Nat), s.me.log = [] → s.me.waiting = .nothing → s.me.life = .resident → Ready s (rawM 0x9C o) →
    NoTagLost s → s.access (s.who s.cur) (s.me.ea (rawM 0x9C o) s.me.lowest) needRW 0 = (.hit pa perms, u) →
    let held := s.isHolder (some s.cur) (pa / 128)
    ∃ t, exec (.unlease o) s = .next t ∧ t.me.log = [] ∧ t.mem = s.mem ∧ GoneOn s.me t.me (rawM 0x9C o) ∧ SameRegs s.me t.me [] [o.d.toNat]
      ∧ (o.d.toNat ≠ 0 → t.me.s o.d.toNat = if held then 0 else 7)
      ∧ t.me.leases = if held then s.me.leases.filter (· != pa / 128) else s.me.leases)
  ∧ (∀ (s : State) (o : MOps), Unburdened s → Ready s (rawM 0x9D o) →
    let r := rawM 0x9D o
    let n := r.atomWidth
    let x (th : Nat) : Nat := s.me.dataOf r th % 2 ^ (8 * n)
    (∀ th pa, o.f.toNat < 4 → s.me.memThreads r = [th] → s.me.ea r th % n = 0 → HomeIsQuiet s (s.me.ea r th) needR n pa →
      waitHolds r (s.numAt pa n) (x th) = true →
      ∃ t u, exec (.wait o) s = .next t ∧ exec (.strongReadAtHome s.cur 0) t = .next u ∧ u.me.log = [] ∧ u.me.waiting = .nothing ∧ u.mem = s.mem
        ∧ GivesEach s.me u.me r [th] (fun _ => extendTo r n (s.numAt pa n)))
    ∧ (4 ≤ o.f.toNat → s.reg 0xA34 = 0 →
      (∀ th ∈ s.me.memThreads r, s.spadCheck s.me.cid (s.me.offset r th) n n = none ∧ s.spadStruck s.me.cid (s.me.offset r th).toNat n = false
        ∧ waitHolds r (s.spadNum s.me.cid (s.me.offset r th).toNat n) (x th) = true) →
      ∃ t, exec (.wait o) s = .next t ∧ t.me.log = [] ∧ t.me.waiting = .nothing ∧ t.mem = s.mem ∧ t.cohorts = s.cohorts
        ∧ GivesEach s.me t.me r (s.me.memThreads r) (fun th => extendTo r n (s.spadNum s.me.cid (s.me.offset r th).toNat n))))

/-- The instructions on lines and pins COMPLETE (R161, R162, R400). CLEAN and DROP of one line that the L1 holds, with nothing at its home in the way, have performed its
dirty bytes there and changed no other byte: CLEAN keeps the line, clean; DROP removes it. With F = 1, CLEAN leaves the line clean in the LLC, and DROP drops it there
unless it is pinned. LOCK and UNLOCK of one thread give the status of R162. -/
def LineInstructionsComplete : Prop :=
  (∀ p ∈ ([(.cleanL1, 0x95), (.cleanMem, 0x95), (.dropL1, 0x96), (.dropLlc, 0x96)] : List ((MOps → Instr) × Nat)),
    ∀ (s : State) (o : MOps) (th : Nat) (c : Copy), Unburdened s → Ready s (rawM p.2 o) →
    let r := rawM p.2 o
    let base := c.pline * 128
    s.me.lineThreads r = [th] → s.copyOf s.me.core (fun c => c.isAt 0 (s.asidOf s.me) (s.me.ea r th / 128)) = some c →
    s.l1Of s.me.core c.pline = some c → permFault c.perms (if p.2 = 0x96 then needW else needR) (s.isSystem s.me) 0 = none →
    isHbm base = true → s.holding c.pline = none → s.goPending c.pline = false → s.writeBlocked c.pline none (some s.me.core) false false = false →
    (∀ i < 128, s.isProtected (base + i) = false) → NoTagLost s → s.reg 0xA34 = 0 →
    ∃ t, exec (p.1 o) s = .next t ∧ t.me.log = [] ∧ GoneOn s.me t.me r ∧ SameRegs s.me t.me [] [] ∧ t.cohorts = s.cohorts
      ∧ (∀ i < 128, t.byteAt (base + i) = if bit c.dirty i then listAt 0 c.data i else s.byteAt (base + i)) ∧ SameMemBut s t base 128
      ∧ (p.2 = 0x96 → t.l1Of s.me.core c.pline = none)
      ∧ (p.2 = 0x95 → ∃ c', t.l1Of s.me.core c.pline = some c' ∧ c'.dirty = 0 ∧ c'.data = c.data)
      ∧ (p.2 = 0x95 → r.f = 1#3 → ∀ k x, t.findTag c.pline = some (k, x) → x.dirty = false)
      ∧ (p.2 = 0x96 → r.f = 1#3 → c.dirty = 0 → ∀ k x, s.findTag c.pline = some (k, x) → x.pin = none → t.tag k = none))
  ∧ (∀ p ∈ ([(.lock, 0x97), (.unlock, 0x98)] : List ((MOps → Instr) × Nat)), ∀ (s u : State) (o : MOps) (th pa perms : Nat), Unburdened s → Ready s (rawM p.2 o) →
    let r := rawM p.2 o
    s.me.active = [th] → s.access (s.who s.cur) (s.me.ea r th) 0 0 = (.hit pa perms, u) →
    (∀ k x, (k, some x) ∈ s.homes.tags → x.bad1 = false ∧ x.bad2 = false) →
    let asid := s.asidOf s.me
    let line := pa / 128
    let pin := (u.findTag line).bind (fun p => p.2.pin)
    let status : Nat :=
      if isHbm (line * 128) = false then 8
      else if p.2 = 0x97 then
        (if pin = some asid then 0 else if pin ≠ none then 6
          else if u.lockQuota asid (sliceOf line / 48) ≤ u.pinsOf asid (sliceOf line / 48) then 2
          else if 8 ≤ ((u.setTags line).filter (fun p => p.2.pin.isSome)).length then 4 else 0)
      else (if pin = none then 7 else if pin = some asid then 0 else 6)
    ∃ t, exec (p.1 o) s = .next t ∧ t.me.log = [] ∧ t.mem = s.mem ∧ GivesEach s.me t.me r [th] (fun _ => status)
      ∧ (p.2 = 0x97 → status = 0 → pin = none → ∀ k x, u.findTag line = some (k, x) → u.committed line k + 4 ≤ 32 →
          ∃ y, t.tag k = some y ∧ y.pin = some asid ∧ y.line = line)
      ∧ (p.2 = 0x98 → status = 0 → ∀ k x, u.findTag line = some (k, x) → ∃ y, t.tag k = some y ∧ y.pin = none ∧ y.line = line))

/-- The memory instructions COMPLETE, each once what its rules name stands in its way no longer: loads, strong stores and atomics (R155 to R165, R181); LEASE, UNLEASE
and WAIT (R166 to R168); the instructions on lines and pins (R161, R162, R400). -/
def Obligations.MemoryInstructionsComplete : Prop := LoadsAndAtomicsComplete ∧ LeasesAndWaitsComplete ∧ LineInstructionsComplete

/-- SWAP_OUT does nothing to a strand that need not leave; else, once its record can be written, it is no longer resident and holds no
lease. STRAND_RESTORE makes a strand that is swapped out resident again where a quadrant of its core has room, and without room does nothing
(R139, R355). -/
def StrandsLeaveAndReturn : Prop :=
  (∀ (s : State) (sid : Nat), s.leaves sid = false → exec (.swapOut sid) s = .next s)
  ∧ (∀ (s u : State) (sid pa perms : Nat), s.leaves sid = true →
      let st := s.strand sid
      s.access (s.who sid) (s.frameVa st) needW 2 = (.hit pa perms, u) → isWindow pa = false →
      (∀ p ∈ st.log, p.2.raw.op ≠ 0x90#8 ∧ p.2.raw.op ≠ 0x91#8) → u.homes.poison = [] →
      (∀ l ∈ linesOf (pa + 512) 65024, u.goPending l = false ∧ u.writeBlocked l (some sid) (some st.core) false false = false) →
      ∃ t, exec (.swapOut sid) s = .next t ∧ (t.strand sid).life = .swapped ∧ (t.strand sid).leases = [] ∧ (t.strand sid).pc = st.pc
        ∧ (t.strand sid).vregs = st.vregs ∧ (t.strand sid).sregs = st.sregs
        ∧ (isHbm pa = true → NoTagLost u → ∀ a, (a < pa + 512 ∨ pa + 65536 ≤ a) → t.byteAt a = u.byteAt a))
  ∧ (∀ (s : State) (sid : Nat), (s.strand sid).life = .swapped →
      (s.quadFor (s.strand sid).core (s.strand sid).allot = none → exec (.strandRestore sid) s = .next s)
      ∧ (∀ q, s.quadFor (s.strand sid).core (s.strand sid).allot = some q → (∀ x, (sid, some x) ∈ s.strands → ∀ d l, x.waiting ≠ .join d l) →
          ∃ t, exec (.strandRestore sid) s = .next t ∧ (t.strand sid).life = .resident ∧ (t.strand sid).quad = q ∧ t.mem = s.mem
            ∧ (t.strand sid).pc = (s.strand sid).pc ∧ (t.strand sid).vregs = (s.strand sid).vregs))

/-- YIELD waits until the ready strands of its quadrant with its own region's priority have each issued or 64 cycles have passed, and with
none it goes straight on (R141); YIELD_TIMEOUT ends the wait. SWAP_OUT does nothing to a strand that need not leave; else, once its
record can be written, it is no longer resident and holds no lease. STRAND_RESTORE makes a swapped-out strand resident again where a
quadrant of its core has room (R152, R355). -/
def Obligations.StrandsStepAsideLeaveAndReturn : Prop := YieldStepsAside ∧ StrandsLeaveAndReturn

/-! ## Cursors and counters -/

/-- The cursor instructions that walk or append, with their opcodes. -/
def cursorWalks : List ((KOps → Instr) × Nat) :=
  [(.kopen, 0xB8), (.knext, 0xB9), (.kseek, 0xBA), (.ksetp, 0xBB), (.kdesc, 0xBC), (.kcoit, 0xBD), (.ksplit, 0xBE), (.kcrd, 0xBF),
   (.kval, 0xC1), (.kapp, 0xC2), (.kapm, 0xC3)]

/-- What a cursor instruction that runs once, for thread th, leaves of the result of its walk (R230, R234): its cursors, its value (in uniform register D where
it runs for the strand, R230), its predicates (in every thread that was active then); nothing else of the strand's registers changes. -/
def WalkWrites (x y : Strand) (r : Raw) (th : Nat) (out : WalkOut) : Prop :=
  let d := x.dnum r
  let value : Prop := r.info.cd ≠ .k
  (∀ j q n, (cursorDests r)[j]? = some (q, n) → y.cur (curKey q n th) = if j = 0 then out.k1 else out.k2)
  ∧ (value → cursorUni r = true → d ≠ 0 → y.s d = (if r.pair r.info 0 then out.x else out.x % 2 ^ 32) % 2 ^ 64)
  ∧ (value → cursorUni r = false → y.v d th = out.x % 2 ^ 32 ∧ (r.pair r.info 0 = true → y.v (d + 1) th = out.x / 2 ^ 32 % 2 ^ 32))
  ∧ (∀ j p, (cursorPreds r)[j]? = some p → p ≠ 7 → ∀ u ∈ (if cursorUni r then x.active else [th]), bit (y.p p) u = bit out.preds j)
  ∧ (∀ n u, u < 64 → ¬ (value ∧ cursorUni r = false ∧ u = th ∧ (n = d ∨ (r.pair r.info 0 = true ∧ n = d + 1))) → y.v n u = x.v n u)
  ∧ (∀ n, ¬ (value ∧ cursorUni r = true ∧ n = d) → y.s n = x.s n)
  ∧ (∀ k, (∀ c ∈ cursorDests r, curKey c.1 c.2 th ≠ k) → y.cur k = x.cur k) ∧ (∀ p, p ∉ cursorPreds r → y.p p = x.p p)
  ∧ y.fstat = x.fstat ∧ y.amask = x.amask ∧ y.jidx = x.jidx ∧ GoneOn x y r ∧ y.log = []

/-- The cursor instructions COMPLETE (R230 to R248). A walk that needs nothing it must wait for, run for one thread, writes its result (R235 to R241); an
instruction of that kind that every thread gives an append cursor does not walk (R232). A KAPP of one thread within its last block stores the coordinate, the value and
the count through the L1, steps the cursor and answers true (R244). A KAPM of one thread performs its merge at the homes, and D holds its status (R248). A KCLOSE
leaves the cursors invalid (R246). Without dirty bytes in the core's caches a walk changes no byte of memory. -/
def CursorInstructionsComplete : Prop :=
  (∀ p ∈ ([(.kopen, 0xB8), (.knext, 0xB9), (.kseek, 0xBA), (.ksetp, 0xBB), (.kdesc, 0xBC), (.kcoit, 0xBD), (.ksplit, 0xBE), (.kcrd, 0xBF), (.kval, 0xC1)] :
      List ((KOps → Instr) × Nat)), ∀ (s u : State) (o : KOps) (th : Nat) (out : WalkOut), Unburdened s → Ready s (rawK p.2 o) →
    let r := rawK p.2 o
    let src (j : Nat) : Cursor := listAt Cursor.zero (s.me.cursorSources r th) j
    s.me.invalidSource r = false → s.me.cursorThreads r = [th] →
    ((cursorDests r).map (fun c => curKey c.1 c.2 th)).Nodup → ((cursorPreds r).Nodup ∨ ∀ n ∈ cursorPreds r, n = 7) →
    runWalk (walkThread (s.walker s.cur s.seq) r ⟨src 0, src 1, s.me.cursorX r th, s.me.cursorY r th⟩) s = (.ok out, u) →
    ∃ t, exec (p.1 o) s = .next t ∧ WalkWrites s.me t.me r th out
      ∧ (NoTagLost s → (∀ c ∈ (s.core s.me.core).copies, c.dirty = 0) → t.mem = s.mem))
  ∧ (∀ p ∈ ([(.knext, 0xB9), (.kseek, 0xBA), (.ksetp, 0xBB), (.kdesc, 0xBC), (.kcoit, 0xBD), (.ksplit, 0xBE), (.kcrd, 0xBF), (.kval, 0xC1)] :
      List ((KOps → Instr) × Nat)), ∀ (s : State) (o : KOps) (th : Nat), Unburdened s → Ready s (rawK p.2 o) →
    let r := rawK p.2 o
    let src (j : Nat) : Cursor := listAt Cursor.zero (s.me.cursorSources r th) j
    s.me.invalidSource r = false → s.me.cursorThreads r = [th] → (src 0).append = true →
    ((cursorDests r).map (fun c => curKey c.1 c.2 th)).Nodup → ((cursorPreds r).Nodup ∨ ∀ n ∈ cursorPreds r, n = 7) →
    ∃ t, exec (p.1 o) s = .next t ∧ WalkWrites s.me t.me r th (walkAppend r ⟨src 0, src 1, s.me.cursorX r th, s.me.cursorY r th⟩) ∧ t.mem = s.mem)
  ∧ (∀ (s u : State) (o : KOps) (th : Nat) (l : Level), Unburdened s → Ready s (rawK 0xC2 o) →
    let r := rawK 0xC2 o
    let c := listAt Cursor.zero (s.me.cursorSources r th) 0
    let x := s.me.cursorX r th
    let y := s.me.cursorY r th
    let copyAt (t : State) (va : Nat) : Option Copy := t.copyOf s.me.core (fun k => k.isAt 0 (s.asidOf s.me) (va / 128))
    let app := appendWrites l c th x y none
    s.me.invalidSource r = false → s.me.cursorThreads r = [th] → s.kappMisuse s.cur r = none →
    c.append = true → c.kind.toNat = kBlock → ¬ (bit r.mod 1 = true ∧ y = 0) → runWalk (wkOf (s.walker s.cur s.seq) c) s = (.ok l, u) →
    u.flipHold = false → x < l.n → x < 2 ^ (8 * l.cw) → c.pos ≠ c.boundhi → c.pos.toNat % 2 ^ l.blog ≠ 0 → app.2.Pairwise (fun a b => sameBytes a b = false) →
    (∀ a ∈ app.2, a.va % 128 + a.size ≤ 128 ∧ ∃ k, copyAt u a.va = some k ∧ k.data.length = 128
      ∧ permFault k.perms needW (s.isSystem s.me) 0 = none ∧ u.leasedAway s.me.core k.pline (some s.cur) = false
      ∧ u.isProtected (k.pline * 128 + a.va % 128) = false ∧ u.isProtected (k.pline * 128 + a.va % 128 + a.size - 1) = false) →
    ∃ t, exec (.kapp o) s = .next t ∧ WalkWrites s.me t.me r th ⟨app.1, Cursor.zero, 0, 1⟩
      ∧ ∀ a ∈ app.2, ∀ i < a.size, ∃ k, copyAt t a.va = some k ∧ listAt 0 k.data (a.va % 128 + i) = BitVec.ofNat 8 (a.data / 256 ^ i)
          ∧ bit k.dirty (a.va % 128 + i) = true)
  ∧ (∀ (s u w : State) (o : KOps) (th k : Nat) (l : Level), Unburdened s → Ready s (rawK 0xC3 o) →
    let r := rawK 0xC3 o
    let c := listAt Cursor.zero (s.me.cursorSources r th) 0
    let x := s.me.cursorX r th
    s.me.invalidSource r = false → s.me.cursorThreads r = [th] → s.reg 0xA34 = 0 → c.append = true → c.kind.toNat = kHashed →
    runWalk (wkMerge (s.walker s.cur s.seq) c) s = (.ok l, u) → x < l.n → x < 2 ^ (8 * l.cw) →
    u.mergeHome (s.who s.cur) s.seq l x (s.me.cursorY r th % 2 ^ (8 * l.vw)) = (.ok k, w) →
    ∃ t, exec (.kapm o) s = .next t ∧ WalkWrites s.me t.me r th ⟨Cursor.zero, Cursor.zero, k, 0⟩ ∧ t.mem = w.mem)
  ∧ (∀ (s : State) (o : KOps), Unburdened s → Ready s (rawK 0xC4 o) →
    let r := rawK 0xC4 o
    let src (th : Nat) : Cursor := s.me.cur (curKey r.qa r.a.toNat th)
    s.me.invalidSource r = false → s.negBlocks s.cur = false →
    (∀ th ∈ s.me.cursorThreads r, (src th).append = false ∨ (src th).kind.toNat ≠ kBlock) →
    (r.mod % 4 = 0 ∨ ∀ th ∈ s.me.active, (src th).append = false) →
    ∃ t, exec (.kclose o) s = .next t ∧ t.me.log = [] ∧ t.mem = s.mem ∧ GoneOn s.me t.me r ∧ (∀ n th, t.me.v n th = s.me.v n th)
      ∧ (∀ n, t.me.s n = s.me.s n) ∧ t.me.preds = s.me.preds
      ∧ (∀ th ∈ s.me.cursorThreads r, t.me.cur (curKey r.qd r.d.toNat th) = Cursor.zero)
      ∧ ∀ k, (∀ th ∈ s.me.cursorThreads r, curKey r.qd r.d.toNat th ≠ k) → t.me.cur k = s.me.cur k)

/-- Every cursor instruction with an invalid source in an active thread is the illegal instruction with info code 13 (R25). KOPEN, KNEXT, KSEEK,
KSETP, KDESC, KCOIT, KSPLIT, KCRD, KVAL, KAPP and KAPM enter the log and run (R230, R231), but that a KAPP which would take a block from what is no counter
for it traps as it issues (R197, R270); KCLOSE does so once, for an append cursor, the strand's
accesses of memory are done and with a scope its dirty bytes on the core are performed (R246). KPOS gives the position, and a predicate that is false for an append cursor or one that is
done (R241). KMOV copies a cursor, and moves an append cursor, leaving its old register invalid (R242). A walking instruction given an append
cursor does not walk (R232). -/
def CursorInstructionsEnterTheLog : Prop :=
  (∀ p ∈ cursorWalks ++ [(.kpos, 0xC0), (.kclose, 0xC4), (.kmov, 0xC5)], ∀ (s : State) (o : KOps), Ready s (rawK p.2 o) →
    s.me.invalidSource (rawK p.2 o) = true → exec (p.1 o) s = .next (s.precise s.cur (rawK p.2 o) clsIllegal 13 0 none 0))
  ∧ (∀ p ∈ cursorWalks, ∀ (s : State) (o : KOps), Ready s (rawK p.2 o) → s.me.invalidSource (rawK p.2 o) = false →
    (p.2 = 0xC2 → s.kappMisuse s.cur (rawK p.2 o) = none) → exec (p.1 o) s = .next (s.startCursor s.cur (rawK p.2 o)))
  ∧ (∀ (s : State) (o : KOps), Ready s (rawK 0xC2 o) → s.me.invalidSource (rawK 0xC2 o) = false →
    ∀ x, s.kappMisuse s.cur (rawK 0xC2 o) = some x → ∃ thread mask, exec (.kapp o) s = .next (s.precise s.cur (rawK 0xC2 o) x.2.1 0 x.2.2.1 thread mask))
  ∧ (∀ (s : State) (o : KOps), Ready s (rawK 0xC4 o) → s.me.invalidSource (rawK 0xC4 o) = false →
    let r := rawK 0xC4 o
    let appends : Prop := ∃ th ∈ s.me.active, (s.me.cur (curKey r.qa r.a.toNat th)).append = true
    (¬ appends → exec (.kclose o) s = .next (s.startCursor s.cur r))
    ∧ (appends → s.me.accessing = true → exec (.kclose o) s = .next s)
    ∧ (appends → s.me.accessing = false → r.mod % 4 = 0 → exec (.kclose o) s = .next (s.startCursor s.cur r))
    ∧ (∀ u, appends → s.me.accessing = false → r.mod % 4 ≠ 0 → s.performCore s.me.core [s.cur] = (true, u) →
        exec (.kclose o) s = .next (u.startCursor s.cur r))
    ∧ (∀ u, appends → s.me.accessing = false → r.mod % 4 ≠ 0 → s.performCore s.me.core [s.cur] = (false, u) →
        exec (.kclose o) s = .next u))
  ∧ (∀ (s : State) (o : KOps), Ready s (rawK 0xC0 o) → s.me.invalidSource (rawK 0xC0 o) = false →
    let r := rawK 0xC0 o
    let c (th : Nat) : Cursor := s.me.cur (curKey r.qa r.a.toNat th)
    let d := s.me.eff r o.d.toNat
    ∃ t, exec (.kpos o) s = .next t ∧ OnlyMe s t ∧ GoneOn s.me t.me r ∧ t.me.curs = s.me.curs ∧ t.me.log = s.me.log
      ∧ (cursorUni r = false → ∀ th ∈ s.me.active, t.me.v d th = (c th).pos.toNat % 2 ^ 32
          ∧ (r.pair r.info 0 = true → t.me.v (d + 1) th = (c th).pos.toNat / 2 ^ 32)
          ∧ (o.pd.toNat ≠ 7 → bit (t.me.p o.pd.toNat) th = (!(c th).done && !(c th).append)))
      ∧ (cursorUni r = true → (d ≠ 0 → t.me.s d = if r.pair r.info 0 then (c s.me.lowest).pos.toNat else (c s.me.lowest).pos.toNat % 2 ^ 32)
          ∧ ∀ th ∈ s.me.active, o.pd.toNat ≠ 7 → bit (t.me.p o.pd.toNat) th = (!(c s.me.lowest).done && !(c s.me.lowest).append)))
  ∧ (∀ (s : State) (o : KOps), Ready s (rawK 0xC5 o) → s.me.invalidSource (rawK 0xC5 o) = false → o.a.toNat < 8 → o.d.toNat < 8 →
    let r := rawK 0xC5 o
    ∃ t, exec (.kmov o) s = .next t ∧ OnlyMe s t ∧ GoneOn s.me t.me r ∧ (∀ n th, t.me.v n th = s.me.v n th) ∧ (∀ n, t.me.s n = s.me.s n)
      ∧ ∀ th ∈ (if r.qd then [s.me.lowest] else s.me.active),
          let from_ := curKey r.qa o.a.toNat th
          let dest := curKey r.qd o.d.toNat th
          let c := s.me.cur from_
          t.me.cur dest = (if c.append && r.qa && !r.qd then Cursor.zero else c)
          ∧ (c.append = true → from_ ≠ dest → (r.qa && !r.qd) = false → t.me.cur from_ = Cursor.zero)
          ∧ (c.append = false → from_ ≠ dest → t.me.cur from_ = c))
  ∧ (∀ (w : Walker) (r : Raw) (i : WalkIn) (s : State), r.op ≠ 0xB8#8 → i.a.append = true →
      runWalk (walkThread w r i) s = (.ok (walkAppend r i), s))

/-- The cursor instructions (R25, R230 to R248): they are illegal with an invalid source, run through the operand log, and COMPLETE with the results of their walks,
appends, merges and closes. -/
def Obligations.CursorInstructionsRun : Prop := CursorInstructionsEnterTheLog ∧ CursorInstructionsComplete

/-- The counter instructions, with their opcodes. -/
def counterInstrs : List ((MOps → Instr) × Nat) :=
  [(.ctinitQ, 0xB0), (.ctinitR, 0xB0), (.ctinitExt, 0xB0), (.cttakeQ, 0xB1), (.cttakeR, 0xB1), (.ctgive, 0xB2), (.ctread, 0xB3), (.ctpeek, 0xB4),
   (.ctdrop, 0xB5)]

/-- A counter instruction passes the gate of every thread, in ascending order (R263, R270): a thread whose address is not aligned, whose block the
form may not act on, or that lies outside package HBM faults precisely, the lowest naming itself; with all gates passed the instruction enters
the log, holding back everything younger, and its threads run. -/
def CountersPassTheGate : Prop :=
  ∀ p ∈ counterInstrs, ∀ (s u : State) (o : MOps) (gs : List (Nat × Nat × CtrGate)), Ready s (rawM p.2 o) → s.negBlocks s.cur = false →
    let r := rawM p.2 o
    s.ctrGates s.cur r ((s.me.memThreads r).map (fun th => (th, s.me.ea r th))) = (gs, u) →
    ((∀ g ∈ gs, ∃ pa, g.2.2 = .ok pa) → ∃ e, exec (p.1 o) s = .next ((u.logged s.cur r e.accs (ctrKeys r (s.me.dnum r)) true).2.ctrEntry s.cur
        (u.logged s.cur r e.accs (ctrKeys r (s.me.dnum r)) true).1 e) ∧ e.raw = r ∧ e.state = 1 ∧ e.pc = (u.strand s.cur).pc.toNat
        ∧ e.accs = gs.map (fun g => gated (newAcc g.1 g.2.1 64 (s.me.ctrUnit r g.1 0) false) (match g.2.2 with | .ok pa => pa | _ => 0)))
    ∧ ((∃ g ∈ gs, g.2.2 = .wait) → exec (p.1 o) s = .next u)
    ∧ ((∀ g ∈ gs, g.2.2 ≠ .wait) → (∃ g ∈ gs, ∃ c, g.2.2 = .precise c) → ∃ g c m, g ∈ gs ∧ g.2.2 = .precise c
        ∧ exec (p.1 o) s = .next (u.threadFault s.cur r (g.1, c, g.2.1, m)))

/-- What a core does of a counter operation by itself (R256 to R258, R265 to R269, R272). All but CTPEEK wait while the core's
allowance is frozen or on its way back, or an earlier operation of the core on the counter is not complete. A take of 0 takes nothing;
a quantity that the allowance covers comes out of it, with status 0, and more than 2^48 - 1 has status 3; a range take gives the start
of the piece that the core holds, and no more than it holds; without an allowance, or with too little, the request goes to the home. A
give goes into the allowance, and what exceeds CAP to the home; one of more than 2^48 - 1 has status 7. CTDROP sends the allowance
back, and without one has status 7. CTPEEK gives what the core holds. CTINIT and CTREAD go to the home. -/
def CountersServeFromTheAllowance : Prop :=
  ∀ (s : State) (sid seq : Nat) (r : Raw) (a : Acc),
    let core := (s.strand sid).core
    let pa := a.data2
    let n := a.data
    let still : Bool := s.isStill core pa || s.ctrEarlier core pa seq
    let does (x y : Nat) (w : Allow) : Prop := ∃ t, s.ctrLocal sid seq r a = (.done x y, t) ∧ t.allowOf core pa = some w
    let asks (k : Nat) (w : Allow) : Prop := ∃ t, s.ctrLocal sid seq r a = (.sent k, t) ∧ t.allowOf core pa = some w
    (r.op = 0xB4#8 → s.ctrLocal sid seq r a = (.done (s.peek core pa) 0, s))
    ∧ (r.op ≠ 0xB4#8 → still = true → s.ctrLocal sid seq r a = (.wait, s))
    ∧ (r.op = 0xB1#8 → r.f ≠ 1#3 → still = false →
      (n = 0 → s.ctrLocal sid seq r a = (.done 0 0, s)) ∧ (ctrMax < n → s.ctrLocal sid seq r a = (.done 3 0, s))
      ∧ (∀ u, 0 < n → n ≤ ctrMax → s.allowOf core pa = none →
          (s.allowRoom core (s.poolOf sid) = (true, u) → s.ctrLocal sid seq r a = (.sent n, u))
          ∧ (s.allowRoom core (s.poolOf sid) = (false, u) → s.ctrLocal sid seq r a = (.wait, u)))
      ∧ (∀ w, 0 < n → n ≤ ctrMax → s.allowOf core pa = some w →
          (n ≤ w.lo → does 0 0 { w with lo := w.lo - n }) ∧ (w.lo < n → asks n { w with frozen := true })))
    ∧ (r.op = 0xB1#8 → r.f = 1#3 → still = false →
        (n = 0 → s.ctrLocal sid seq r a = (.done (2 ^ 64 - 1) 0, s))
        ∧ (∀ w, 0 < n → s.allowOf core pa = some w →
            let k := min (min n ctrMax) (w.hi - w.lo)
            (w.lo < w.hi → does w.lo k { w with lo := w.lo + k }) ∧ (w.hi ≤ w.lo → asks (min n ctrMax) { w with frozen := true })))
    ∧ (r.op = 0xB2#8 → still = false →
        (ctrMax < n → s.ctrLocal sid seq r a = (.done 7 0, s))
        ∧ (∀ w, n ≤ ctrMax → s.allowOf core pa = some w →
            let cap := blkCap (s.blk pa)
            (w.lo + n ≤ cap → does 0 0 { w with lo := w.lo + n }) ∧ (cap < w.lo + n → asks (w.lo + n - cap) { w with lo := cap })))
    ∧ (r.op = 0xB5#8 → still = false →
        (s.allowOf core pa = none → s.ctrLocal sid seq r a = (.done 7 0, s))
        ∧ (∀ w, s.allowOf core pa = some w → ∃ t, s.ctrLocal sid seq r a = (.done 0 0, t)
            ∧ t.allowOf core pa = some { w with returning := true } ∧ w.back core ∈ t.pending))
    ∧ (r.op = 0xB0#8 ∨ r.op = 0xB3#8 → still = false → s.ctrLocal sid seq r a = (.sent 0, s))

/-- The first units of D's run (R262) in thread th, and no other register, have changed to these values; the whole run is full; memory aside, the instruction is over. -/
def CtrGives (x y : Strand) (r : Raw) (th : Nat) (vals : List Nat) : Prop :=
  let d := x.dnum r
  y.log = [] ∧ y.preds = x.preds ∧ y.fstat = x.fstat ∧ GoneOn x y r ∧ (∀ k ∈ ctrKeys r d, k ≠ keyS 0 → y.isEmpty k = false)
  ∧ (r.u = 1#1 → (∀ i < vals.length, d + i ≠ 0 → y.s (d + i) = listAt 0 vals i % 2 ^ 64) ∧ SameRegs x y [] (natsFrom d vals.length))
  ∧ (r.u ≠ 1#1 → (∀ i < vals.length, y.v (d + 2 * i) th = listAt 0 vals i % 2 ^ 32 ∧ y.v (d + 2 * i + 1) th = listAt 0 vals i / 2 ^ 32 % 2 ^ 32)
      ∧ SameRegs x y (natsFrom d (2 * vals.length)) [] ∧ ∀ n t, t < 64 → t ≠ th → y.v n t = x.v n t)

/-- One thread's counter instruction has passed the gate, and nothing holds its operation back at its core: no earlier one of the core on the counter, no frozen or
returning allowance (R258, R263, R272), no negative (R461). -/
def CounterIsFree (s : State) (r : Raw) (th pa : Nat) : Prop :=
  Unburdened s ∧ NoTagLost s ∧ s.reg 0xA34 = 0 ∧ s.me.memThreads r = [th] ∧ (∃ u, s.ctrGate s.cur r (s.me.ea r th) = (.ok pa, u))
  ∧ s.isStill s.me.core pa = false ∧ s.ctrEarlier s.me.core pa s.seq = false

/-- Nothing at the home of a counter holds its request back (R255): no other request, no recall, no holder, and its line is free. -/
def CounterHomeIsFree (s : State) (pa : Nat) : Prop :=
  pa % 64 = 0 ∧ s.homes.poison = [] ∧ s.l1Of s.me.core (pa / 128) = none ∧ s.holding (pa / 128) = none
  ∧ s.writeBlocked (pa / 128) (some s.cur) (some s.me.core) true false = false ∧ s.holdersBut pa none = []
  ∧ s.ctrQueue pa = [] ∧ ∀ h, kvGet none s.homes.ctrs pa = some h → h.recalling = none

/-- The counter instructions COMPLETE. From the core's allowance, as they issue: a quantity take that it covers (R256, R265), a range take with a piece left (R257, R265),
a give that CAP leaves room for (R266), CTPEEK (R268), CTDROP (R269). At the home: CTREAD of a counter that no core holds a part of (R261, R267), CTINIT of a block that
is no counter yet and its extension (R264). -/
def CounterInstructionsComplete : Prop :=
  (∀ (s : State) (o : MOps) (th pa : Nat) (w : Allow), Ready s (rawM 0xB1 o) → CounterIsFree s (rawM 0xB1 o) th pa → s.allowOf s.me.core pa = some w →
    let r := rawM 0xB1 o
    let n := s.me.ctrUnit r th 0
    (o.f.toNat = 0 → 0 < n → n ≤ ctrMax → n ≤ w.lo → ∃ t, exec (.cttakeQ o) s = .next t ∧ CtrGives s.me t.me r th [0]
      ∧ t.allowOf s.me.core pa = some { w with lo := w.lo - n } ∧ t.mem = s.mem)
    ∧ (o.f.toNat = 1 → 0 < n → w.lo < w.hi → let k := min (min n ctrMax) (w.hi - w.lo)
      ∃ t, exec (.cttakeR o) s = .next t ∧ CtrGives s.me t.me r th [w.lo, k] ∧ t.allowOf s.me.core pa = some { w with lo := w.lo + k } ∧ t.mem = s.mem))
  ∧ (∀ (s : State) (o : MOps) (th pa : Nat) (w : Allow), Ready s (rawM 0xB2 o) → CounterIsFree s (rawM 0xB2 o) th pa → s.allowOf s.me.core pa = some w →
    let n := s.me.ctrUnit (rawM 0xB2 o) th 0
    n ≤ ctrMax → w.lo + n ≤ blkCap (s.blk pa) →
    ∃ t, exec (.ctgive o) s = .next t ∧ CtrGives s.me t.me (rawM 0xB2 o) th [0] ∧ t.allowOf s.me.core pa = some { w with lo := w.lo + n } ∧ t.mem = s.mem)
  ∧ (∀ (s : State) (o : MOps) (th pa : Nat), Ready s (rawM 0xB4 o) → CounterIsFree s (rawM 0xB4 o) th pa →
    ∃ t, exec (.ctpeek o) s = .next t ∧ CtrGives s.me t.me (rawM 0xB4 o) th [s.peek s.me.core pa] ∧ t.mem = s.mem ∧ t.allowOf s.me.core pa = s.allowOf s.me.core pa)
  ∧ (∀ (s : State) (o : MOps) (th pa : Nat), Ready s (rawM 0xB5 o) → CounterIsFree s (rawM 0xB5 o) th pa →
    (s.allowOf s.me.core pa = none → ∃ t, exec (.ctdrop o) s = .next t ∧ CtrGives s.me t.me (rawM 0xB5 o) th [7] ∧ t.mem = s.mem)
    ∧ (∀ w, s.allowOf s.me.core pa = some w → ∃ t, exec (.ctdrop o) s = .next t ∧ CtrGives s.me t.me (rawM 0xB5 o) th [0] ∧ t.mem = s.mem
        ∧ t.allowOf s.me.core pa = some { w with returning := true } ∧ w.back s.me.core ∈ t.pending))
  ∧ (∀ (s : State) (o : MOps) (th pa : Nat), Ready s (rawM 0xB3 o) → CounterIsFree s (rawM 0xB3 o) th pa → CounterHomeIsFree s pa →
    let x := s.blk pa
    (kvGet none s.homes.ctrs pa).isSome = true → (blkKind x = 1 ∨ (blkKind x = 2 ∧ blkPcnt x = 0)) →
    ∃ t u, exec (.ctread o) s = .next t ∧ exec (.exactRead s.cur 0 th) t = .next u
      ∧ CtrGives s.me u.me (rawM 0xB3 o) th [if blkKind x = 1 then blkRn x else blkEnd x - blkRn x] ∧ SameMemBut s u pa 64)
  ∧ (∀ p ∈ ([(.ctinitQ, false), (.ctinitR, true)] : List ((MOps → Instr) × Bool)), ∀ (s : State) (o : MOps) (th pa : Nat),
    let r := rawM 0xB0 o
    let unit (i : Nat) : Nat := s.me.ctrUnit r th i % 2 ^ 64
    Ready s r → CounterIsFree s r th pa → CounterHomeIsFree s pa → kvGet none s.homes.ctrs pa = none →
    o.f.toNat % 4 = b2n p.2 → initOk p.2 unit = true → (p.2 = true → unit 3 = 0) →
    ∃ t u, exec (p.1 o) s = .next t ∧ exec (.homeCtinit s.cur 0 th) t = .next u ∧ CtrGives s.me u.me r th [0] ∧ SameMemBut s u pa 64
      ∧ u.blk pa = initBlock p.2 (decide (4 ≤ o.f.toNat)) unit 0 % 2 ^ 512 ∧ (kvGet none u.homes.ctrs pa).isSome = true)
  ∧ (∀ (s : State) (o : MOps) (th pa : Nat),
    let r := rawM 0xB0 o
    let n := s.me.ctrUnit r th 0 % 2 ^ 64
    let x := s.blk pa
    Ready s r → CounterIsFree s r th pa → CounterHomeIsFree s pa → (kvGet none s.homes.ctrs pa).isSome = true → o.f.toNat = 2 →
    blkKind x = 2 → blkEnd x ≤ n → n ≤ ctrMax →
    ∃ t u, exec (.ctinitExt o) s = .next t ∧ exec (.homeCtinit s.cur 0 th) t = .next u ∧ CtrGives s.me u.me r th [0] ∧ SameMemBut s u pa 64
      ∧ blkEnd (u.blk pa) = n ∧ blkRn (u.blk pa) = blkRn x)

/-- A counter instruction passes the gate of every thread, in ascending order (R263, R270): a thread that fails it faults precisely, the
lowest naming itself; with all gates passed the instruction enters the log and its threads run. All but CTPEEK wait while the core's allowance
is frozen or on its way back, or an earlier operation of the core on the counter is not complete (R258, R272). A take of 0 takes nothing; a
quantity that the allowance covers comes out of it, with status 0, and more than 2^48 - 1 has status 3; a range take gives the start of the
piece that the core holds, and no more than it holds; with too little the request goes to the home; a give goes into the allowance, and what
exceeds CAP to the home; CTPEEK gives what the core holds; CTDROP sends it back, and without any has status 7 (R256, R257, R265 to R269). Each of
them COMPLETES where nothing holds it back, with these results in D; so do CTREAD and CTINIT at the home (R261, R264, R267). -/
def Obligations.CountersServeWhatTheyHold : Prop := CountersPassTheGate ∧ CountersServeFromTheAllowance ∧ CounterInstructionsComplete

/-- The home events of counters (R255 to R261). HOME_CTINIT, HOME_QUANTITY_TAKE, HOME_RANGE_TAKE, GIVE_FLUSH and EXACT_READ let the
request that a thread has on its way arrive at the home, each for its own instruction, and do nothing for another or for none. COUNTER_RECALL
freezes the core's allowance, and does nothing where no request runs. COUNTER_RETURN does nothing without an allowance on its way back, or while
a request of the core is before it (R272); in its turn what came back is added, unless it is of an earlier initialisation (R259), and the
allowance is gone. -/
def Obligations.CounterHomesServeRequests : Prop :=
  (∀ (s : State) (sid slot th : Nat), s.entry sid slot = none →
    ∀ i ∈ ([.homeCtinit sid slot th, .homeQuantityTake sid slot th, .homeRangeTake sid slot th, .giveFlush sid slot th, .exactRead sid slot th] : List Instr),
      exec i s = .next s)
  ∧ (∀ (s : State) (sid slot th : Nat) (e : LogEnt) (a : Acc), s.entry sid slot = some e →
      e.accs.find? (fun a => a.thread == th && a.status == 5) = some a →
      let if_ (b : Bool) : Res := .next (if b then s.ctrArrive sid slot e a else s)
      exec (.homeCtinit sid slot th) s = if_ (e.raw.op == 0xB0#8)
      ∧ exec (.homeQuantityTake sid slot th) s = if_ (e.raw.op == 0xB1#8 && e.raw.f != 1#3)
      ∧ exec (.homeRangeTake sid slot th) s = if_ (e.raw.op == 0xB1#8 && e.raw.f == 1#3)
      ∧ exec (.giveFlush sid slot th) s = if_ (e.raw.op == 0xB2#8)
      ∧ exec (.exactRead sid slot th) s = if_ (e.raw.op == 0xB3#8))
  ∧ (∀ (s : State) (core pa : Nat), s.ctrRecalling pa = none → exec (.counterRecall core pa) s = .next s)
  ∧ (∀ (s : State) (core pa sid slot th : Nat) (e : LogEnt) (a : Acc), s.ctrRecalling pa = some (sid, slot, th) → s.entry sid slot = some e →
      e.accs.find? (fun a => a.thread == th && a.status == 5) = some a →
      let frozen := s.freeze core pa true
      exec (.counterRecall core pa) s = .next (if frozen.recalled e.raw (frozen.strand sid).core pa then frozen.ctrArrive sid slot e a else frozen))
  ∧ (∀ (s : State) (core pa : Nat) (w : Allow), s.allowOf core pa = some w → (s.freeze core pa true).isFrozen core pa = true)
  ∧ (∀ (s u : State) (core pa : Nat),
      (∀ init piece, s.allowOf core pa = none → exec (.counterReturn core pa init piece) s = .next s)
      ∧ (∀ w, s.allowOf core pa = some w →
          (∀ init piece, w.returning = false ∨ w.init ≠ init ∨ w.range ≠ piece ∨ s.ctrSent core pa = true →
              exec (.counterReturn core pa init piece) s = .next s)
          ∧ (w.returning = true → s.ctrSent core pa = false → s.ctrTurn pa (.back core) = (false, u) →
              exec (w.back core) s = .next u)
          ∧ (w.returning = true → s.ctrSent core pa = false → s.ctrTurn pa (.back core) = (true, u) →
              u.writeBlocked (pa / 128) none (some core) true false = false →
              let v := if w.init = u.ctrInit pa then u.applyReturn pa w.lo w.hi w.range else u
              exec (w.back core) s = .next (((v.setAllow core pa none).endRequest pa [core]).ctrLeave pa (.back core)))))

/-! ## The matrix array and the engines -/

/-- The matrix instructions, with their opcodes and the checks of each. -/
def matrixInstrs : List ((YOps → Instr) × Nat × (Raw → State → Strand → MPlan)) :=
  [(.mfill, 0xD0, State.planFill), (.mldw, 0xD1, State.planLoad), (.mswap, 0xD2, fun _ _ _ => .enter [] 0 0 0), (.mmul, 0xD3, State.planMul),
   (.mzero, 0xD4, fun r => State.planRows r 512), (.mrd, 0xD5, fun r => State.planRows r 16), (.mwr, 0xD6, fun r => State.planRows r 16),
   (.mepi, 0xD7, State.planEpi), (.mepiRoute, 0xD7, fun r s st => s.planRecords r (st.s r.a.toNat % 2 ^ 32) (r.ymod % 8 + 1) st),
   (.mtopkAcc, 0xD8, fun r s st => if s.rowsFault st r ∨ st.s r.a.toNat % 128 ≠ 0 ∨ 4096 ≤ st.s r.a.toNat then .fault clsProt 0
      else .enter [] (st.mRow r) (st.mCount r) 0),
   (.mtopkClr, 0xD8, fun r => State.planRows r 512), (.mtopkOut, 0xD8, fun r s st => s.planRecords r (st.s r.a.toNat) (r.ymod % 8 + 1) st),
   (.mchk, 0xD9, State.planCheck), (.mchkClr, 0xD9, State.planCheck), (.mchkRst, 0xD9, fun r => State.planRows r 512)]

/-- A matrix instruction (R132, R279, R280, R282, R285) waits with 16 entries in its core's queue, and as a product of a hot array whose 256
cycles are not over (R453); with a place there, it raises the illegal-convergence trap with a thread inactive, and its own fault where its
checks fail; it waits for the strand's earlier accesses to its tiles (R187); and where its leave cannot be taken its strand tries again
1,024 cycles later, or sooner where its take still waits at the power counter (R256). Otherwise its entry stands last in the queue with the rows and tiles of its checks, the tiles belong to it, its
destination is empty, and the strand has gone on; no byte of memory has changed. -/
def Obligations.MatrixInstructionsQueue : Prop :=
  ∀ p ∈ matrixInstrs, ∀ (s : State) (o : YOps), Ready s (rawY p.2.1 o) →
    let r := rawY p.2.1 o
    let plan := p.2.2 r s s.me
    let place : Prop := (s.core s.me.core).mq.length < 16
      ∧ (s.pkg.overTemp = true → p.2.1 = 0xD3 → (s.core s.me.core).mmulAt ≤ s.cycle)
    (¬ place → exec (p.1 o) s = .next s)
    ∧ (place → s.me.amask ≠ BitVec.allOnes 64 → exec (p.1 o) s = .next (s.fault s.cur r clsConverge 0))
    ∧ (place → s.me.amask = BitVec.allOnes 64 →
        (plan = .hold → exec (p.1 o) s = .next s)
        ∧ (∀ c a, plan = .fault c a → exec (p.1 o) s = .next (s.fault s.cur r c a))
        ∧ (∀ tiles row0 rows leave, plan = .enter tiles row0 rows leave →
            (s.tilesBusy s.cur tiles = true → exec (p.1 o) s = .next s)
            ∧ (∀ u, s.tilesBusy s.cur tiles = false →
                s.takeLeave s.cur leave (s.asidOf s.me) (s.regionOf s.me).pool = (false, u) →
                exec (p.1 o) s = .next u ∧ ((u.strand s.cur).stallUntil = u.cycle + 1024 ∨ (u.strand s.cur).stallUntil = u.cycle + 64))
            ∧ (∀ u, s.tilesBusy s.cur tiles = false →
                s.takeLeave s.cur leave (s.asidOf s.me) (s.regionOf s.me).pool = (true, u) →
                let st := u.strand s.cur
                ∃ t e, exec (p.1 o) s = .next t ∧ (t.core st.core).mq = (u.core st.core).mq ++ [e] ∧ e.raw = r ∧ e.stage = 0
                  ∧ e.sid = s.cur ∧ e.cid = st.cid ∧ e.row0 = row0 ∧ e.rows = rows ∧ e.tiles = tiles ∧ e.leave = leave ∧ e.pc = st.pc.toNat
                  ∧ (∀ x ∈ tiles, kvFind (t.cohort st.cid).owners x = some (e.ident + 1))
                  ∧ (∀ k ∈ st.mDest r, k ≠ keyS 0 → t.me.isEmpty k = true) ∧ GoneOn st t.me r ∧ SameRegs st t.me [] []
                  ∧ t.mem = u.mem)))

/-- What a matrix instruction has left in its strand's cohort and core, from the state s before it to the state x after it, with rows of the accumulators
from row0 (R283, R286 to R290, R297, R299, R302, R307, R308); y and e are its entry and the state in which it starts. -/
def MatrixEffect (s y x : State) (e : MEnt) (r : Raw) (row0 rows status : Nat) : Prop :=
  let op := r.op.toNat
  let cid := s.me.cid
  let a := s.me.s r.a.toNat
  let w := (s.core s.me.core).weight
  let w' := (x.core s.me.core).weight
  let d := r.d.toNat
  let acc (i col : Nat) : Nat := s.accRead cid (row0 + i) col
  let acc' (i col : Nat) : Nat := x.accAt cid (row0 + i) col
  (op = 0xD0 → r.f = 2#3 → s.spadStruck cid a (128 * s.me.mCount r) = false → status = 0
    ∧ ∀ col < 128, ∀ i < s.me.mCount r, kvGet 0#8 w'.bslice (col * 16384 + s.me.bOffset r + i) = s.spadByte cid (a + col * s.me.mCount r + i))
  ∧ (op = 0xD1 → w'.shadow.valid = decide (status = 0) ∧ w'.shadow.af = r.af ∧ w'.asid = some (s.asidOf s.me))
  ∧ (op = 0xD2 → let swap : Bool := w.shadow.valid && decide (w.asid = some (s.asidOf s.me))
      status = (if swap then 0 else 8) ∧ w'.active = (if swap then w.shadow else w.active) ∧ w'.shadow = (if swap then w.active else w.shadow))
  ∧ (op = 0xD3 → let m := w.active
      let n := rows * mR m.af m.s24 + (if m.af = 13 then rows else 0)
      let elems (i : Nat) : List Elem := mapped m.map (rowElems m r.af (s.spadBytes cid a n) rows i)
      let col (j : Nat) : List Elem := mapped m.map ((nats m.depth).map (m.weight j))
      status = (if s.spadStruck cid a n then 9 else 0)
      ∧ (status = 0 → ∀ i < rows, ∀ j < 128, acc' i j
          = sumGroups ((col j).length / 8) (acc i j) (((elems i).zip (col j)).map (fun z => prodOf (m.af == 13) z.1 z.2)) % 2 ^ 40))
  ∧ (op = 0xD4 → status = 0 ∧ ∀ i < rows, ∀ j < 128, acc' i j = 0)
  ∧ (op = 0xD5 → ∀ i < rows, ∀ h < 2, ∀ th < 64,
      let z := fmtFa40.value (acc i (th + 64 * h))
      (r.af ≠ 14 → x.me.v (d + 2 * i + h) th = (roundEx fmtF32 (s.me.rmOf r) (if bit r.ymod 3 then 1 else 0) z).bits % 2 ^ 32)
      ∧ (r.af = 14 → let b := if z = .nan then fmtFa40.nan else acc i (th + 64 * h)
          x.me.v (d + 4 * i + 2 * h) th = b % 2 ^ 32 ∧ x.me.v (d + 4 * i + 2 * h + 1) th = b / 2 ^ 32))
  ∧ (op = 0xD6 → ∀ i < rows, ∀ j < 128, acc' i j = rowElem r.af (s.me.mVals r rows) i j % 2 ^ 40)
  ∧ (op = 0xD7 → r.af ≠ 3 → let par := a / 2 ^ 32
      let n := outStride r.af
      status = (if s.spadStruck cid par 1040 then 9 else 0)
      ∧ (status = 0 → ∀ i < rows, x.spadBytes cid (a % 2 ^ 32 + i * n) n
          = leBytes n (packElems (outBits r.af) ((y.epiRow e (s.spadBytes cid par 1040) (row0 + i)).map Rounded.bits))))
  ∧ (op = 0xD7 → r.af = 3 → status = 0 ∧ let k := r.ymod % 8 + 1
      ∀ j < rows * k, x.spadNum cid (a % 2 ^ 32 + 8 * j) 8 = (y.routeRecord e (j / k) (j % k)).1 % 2 ^ 64)
  ∧ (op = 0xD8 → status = 0
      ∧ (r.f = 0#3 → a < 4096 → a % 128 = 0 → ∀ i < rows, x.topkRow cid (row0 + i) = feedTop a ((nats 128).map (acc i)) (s.topkRow cid (row0 + i)))
      ∧ (r.f = 1#3 → ∀ i < rows, x.topkRow cid (row0 + i) = [])
      ∧ (r.f = 2#3 → let k := r.ymod % 8 + 1
          ∀ j < rows * k, x.spadNum cid (a + 8 * j) 8 = s.topkAt cid (row0 + j / k) (j % k)))
  ∧ (op = 0xD9 →
      let tol := a / 2 ^ 32
      let rowRes := (nats rows).map (fun i => residue ((nats 128).map (acc i)) (s.rowSum cid (row0 + i)))
      let colRes := (nats 128).map (fun j => residue ((nats rows).map (fun i => acc i j)) ((w.claimCol (s.asidOf s.me)).colSum j))
      (r.f ≠ 2#3 → status = (if rowRes.any (flagged tol) || colRes.any (flagged tol) then 6 else 0)
        ∧ x.spadBytes cid (a % 2 ^ 32) (0x300 + 4 * rows) = resultBlock row0 rowRes colRes tol)
      ∧ (r.f = 2#3 → status = 0)
      ∧ (r.f = 1#3 ∨ r.f = 2#3 → (∀ i < rows, x.rowSum cid (row0 + i) = 0) ∧ ∀ j < 128, w'.colSum j = 0))

/-- The matrix instructions COMPLETE (R280 to R290, R297 to R308). With an empty queue, all 64 threads active, its checks passed and its leave taken, an
instruction enters the queue, starts and completes: its entry is gone, its tiles belong to no engine, its effect has taken place, and its status stands in S(D),
or its rows in the run of MRD; no other register of the strand has changed. An MRD of a struck element raises its class instead (R291); an instruction on the top-k
buffer does so at once for the cohort that owns it (R303); a fill from the weight store outside refresh windows (R427), and one from memory once its source is read. -/
def MatrixInstructionsComplete : Prop :=
  ∀ p ∈ matrixInstrs, ∀ (s u : State) (o : YOps) (tiles : List Nat) (row0 rows leave : Nat),
    let r := rawY p.2.1 o
    let op := p.2.1
    let core := s.me.core
    let cid := s.me.cid
    let w := (s.core core).weight
    let d := r.d.toNat
    let run := if op = 0xD5 then natsFrom d ((if r.af = 14 then 4 else 2) * rows) else []
    Unburdened s → Ready s r → s.me.amask = BitVec.allOnes 64 → s.cur ∈ (s.cohort cid).strands → (s.core core).mq = [] → bit w.minj.toNat 63 = false →
    (s.pkg.overTemp = true → op = 0xD3 → (s.core core).mmulAt ≤ s.cycle) →
    p.2.2 r s s.me = .enter tiles row0 rows leave → s.takeLeave s.cur leave (s.asidOf s.me) (s.regionOf s.me).pool = (true, u) →
    (op = 0xD0 → r.f = 1#3 → ∀ b, s.bankRefreshes b = false) → (op = 0xD5 → s.accStruck cid row0 rows = []) →
    (op = 0xD8 ∨ op = 0xD7 ∧ r.af = 3 → w.topkOwner = some cid) →
    ∃ t e, exec (p.1 o) s = .next t ∧ (t.core core).mq = [e]
      ∧ ((op = 0xD0 → r.f = 0#3 → ∀ y, (t.startFill core e).mEntry core e.ident = some y → y.stage = 1) →
        ∃ v x status, exec (.matrixEntryStart core e.ident) t = .next v ∧ exec (.matrixCompletion core e.ident) v = .next x
          ∧ (x.core core).mq = [] ∧ x.me.log = [] ∧ (∀ tile, kvFind (x.cohort cid).owners tile ≠ some (e.ident + 1))
          ∧ MatrixEffect s t x e r row0 rows status ∧ GoneOn s.me x.me r ∧ (∀ n ∈ run, x.me.isEmpty (keyV n) = false)
          ∧ (op ≠ 0xD5 → op ≠ 0xD6 → x.me.isEmpty (keyS d) = false ∧ (d ≠ 0 → x.me.s d = status))
          ∧ SameRegs s.me x.me run (if op = 0xD5 ∨ op = 0xD6 then [] else [d]))

/-- The events of the matrix queue (R279, R280, R282). MATRIX_ENTRY_START runs an entry that may start and leaves one that conflicts with an
earlier one; after MZERO's start its rows are zero and every other row is as it was (R290). MATRIX_COMPLETION completes an entry whose effect
has taken place. POWER_LEAVE_RETRY ends a strand's wait for leave. An entry or a strand that is not there changes nothing. By them
every matrix instruction that has entered the queue COMPLETES, with the result of its rule and its status in S(D). -/
def Obligations.MatrixEventsRunTheQueue : Prop :=
  MatrixInstructionsComplete
  ∧ (∀ (s : State) (core ident : Nat), s.mEntry core ident = none →
    exec (.matrixEntryStart core ident) s = .next s ∧ exec (.matrixCompletion core ident) s = .next s)
  ∧ (∀ (s : State) (core ident : Nat) (e : MEnt), s.mEntry core ident = some e →
      (s.mayStart core e = false → exec (.matrixEntryStart core ident) s = .next s)
      ∧ (s.mayStart core e = true → ∃ t, exec (.matrixEntryStart core ident) s = .next t
          ∧ (t = s.startMatrix core e ∨ t = (s.startMatrix core e).push (.matrixCompletion core ident)))
      ∧ (s.mayStart core e = true → e.raw.op = 0xD4#8 → ∃ t, exec (.matrixEntryStart core ident) s = .next t
          ∧ (∀ row col, e.row0 ≤ row → row < e.row0 + e.rows → col < 128 → t.accAt e.cid row col = 0)
          ∧ (∀ row col, (row < e.row0 ∨ e.row0 + e.rows ≤ row) → col < 128 → t.accAt e.cid row col = s.accAt e.cid row col) ∧ t.mem = s.mem)
      ∧ (e.stage = 1 → exec (.matrixCompletion core ident) s = .next (s.completeMatrix core e))
      ∧ (e.stage ≠ 1 → exec (.matrixCompletion core ident) s = .next s))
  ∧ (∀ (s : State) (core sid : Nat),
      (((s.strand sid).core ≠ core ∨ (s.strand sid).stallUntil ≤ s.cycle) → exec (.powerLeaveRetry core sid) s = .next s)
      ∧ ((s.strand sid).core = core → s.cycle < (s.strand sid).stallUntil →
          exec (.powerLeaveRetry core sid) s = .next (s.setStrand sid { s.strand sid with stallUntil := s.cycle })))

/-- MLDT (R28, R329): with its range aligned, inside the allocation and owned by no engine, and no struck word in it, its registers are
empty until LOAD_DATA_ARRIVAL; then thread t of register D + i holds halfwords t of rows 2i and 2i + 1 of the scratchpad, the first in the
low half, for 8 (F + 1) rows; nothing else changes. No result that is on its way already has the number that these rows will have. -/
def MldtTransposesRows : Prop :=
  ∀ (s : State) (o : MOps), Ready s (rawM 0xDA o) →
    let r := rawM 0xDA o
    let off := (s.me.s o.a.toNat : Int) + r.dispM
    let n := 8 * (o.f.toNat + 1)
    let d := s.me.eff r o.d.toNat
    (∀ c, s.spadCheck s.me.cid off (128 * n) 128 = some c → exec (.mldt o) s = .next (s.fault s.cur r c (off % 2 ^ 56).toNat))
    ∧ (s.spadCheck s.me.cid off (128 * n) 128 = none → s.spadStruck s.me.cid off.toNat (128 * n) = false → (∀ f ∈ s.me.fills, f.seq ≠ s.seq) →
        ∃ t u, exec (.mldt o) s = .next t ∧ GoneOn s.me t.me r ∧ SameRegs s.me t.me [] []
          ∧ (∀ i < n / 2, t.me.isEmpty (keyV (d + i)) = true)
          ∧ exec (.loadDataArrival s.cur (8 + s.seq)) t = .next u ∧ u.mem = s.mem ∧ u.cohorts = s.cohorts ∧ u.cores = s.cores
          ∧ u.me.preds = s.me.preds ∧ u.me.fstat = s.me.fstat ∧ GoneOn s.me u.me r ∧ SameRegs s.me u.me (natsFrom d (n / 2)) []
          ∧ (∀ i < n / 2, u.me.isEmpty (keyV (d + i)) = false)
          ∧ ∀ i < n / 2, ∀ th ∈ s.me.active, u.me.v (d + i) th =
              s.spadNum s.me.cid (off.toNat + 128 * (2 * i) + 2 * th) 2 + 2 ^ 16 * s.spadNum s.me.cid (off.toNat + 128 * (2 * i + 1) + 2 * th) 2)

/-- STL writes each storing thread's bytes at its offset, a higher thread's over a lower one's, and no other byte of its cohort's
scratchpad (R158, R160); ATOML gives each thread the old value at its offset and writes the new one, in one step (R164, R165); with
threads that fail a check of R156 nothing but the precise fault happens. MLDT (R329): thread t of register D + i holds halfwords t of
rows 2i and 2i + 1 of the scratchpad, the first in the low half, for 8 (F + 1) rows. -/
def Obligations.ScratchpadAccesses : Prop := ScratchpadStoresAndAtomics ∧ MldtTransposesRows

/-- The copy instructions, with their opcodes and the checks of each. -/
def copyInstrs : List ((XOps → Instr) × Nat × (Raw → State → Strand → CPlan)) :=
  [(.xcopy, 0xE0, fun r s st => s.planCopy st r), (.xstore, 0xE1, fun r s st => s.planCopy st r), (.xgather, 0xE2, fun r s st => s.planGather st r),
   (.xscat, 0xE3, fun r s st => s.planGather st r), (.xmcast, 0xE4, fun r s st => s.planCast st r)]

/-- The expert instructions, with their opcodes. -/
def expertInstrs : List ((XOps → Instr) × Nat) := [(.xdisp, 0xE5), (.xdispB, 0xE5), (.xcomb, 0xE6), (.xcombB, 0xE6)]

/-- What an engine instruction comes to with a place in its queue and what its checks gave (R172, R187, R282, R313, R316): their fault; it waits while
the strand has earlier accesses to the tiles in its log; a barrier that expects no strand, or could not count the payload, is a protection fault; a leave
that cannot be taken is tried again 1,024 cycles later, one whose take must wait at its home 64 cycles later (log 50); and with its leave taken its command stands last in the queue, its tiles belong to it, its barrier
counts its payload, and the strand has gone on. -/
def EnginePlanIsTaken : Prop :=
  ∀ (s : State) (sid : Nat) (r : Raw),
    let st := s.strand sid
    (∀ c a, s.enterPlan sid r (.fault c a) = s.fault sid r c a)
    ∧ (∀ q : CEntry, r.op ≠ 0xE4#8 → q.members = [] →
        (s.tilesBusy sid q.own = true → s.enterPlan sid r (.enter q) = s)
        ∧ (∀ off, s.tilesBusy sid q.own = false → Raw.barAt r = some off → s.barRefuses st.cid off q.payload = true →
            s.enterPlan sid r (.enter q) = s.fault sid r clsProt 0)
        ∧ (s.tilesBusy sid q.own = false → (∀ off, Raw.barAt r = some off → s.barRefuses st.cid off q.payload = false) →
            (∀ u, s.takeLeave sid q.leave (s.asidOf st) (s.regionOf st).pool = (false, u) →
              s.enterPlan sid r (.enter q) = u
              ∧ ((u.strand sid).stallUntil = u.cycle + 1024 ∨ (u.strand sid).stallUntil = u.cycle + 64))
            ∧ (q.leave = 0 → s.reg 0xA34 = 0 → q.abands = [] →
              ∃ e, let t := s.enterPlan sid r (.enter q)
                (t.core st.core).cq = (s.core st.core).cq ++ [e] ∧ e.raw = r ∧ e.sid = sid ∧ e.stage = 0 ∧ e.tiles = q.tiles ∧ e.left = q.payload
                ∧ e.seq = s.seq ∧ (∀ x ∈ q.own, kvFind (t.cohort st.cid).owners x = some (e.ident + 1)) ∧ GoneOn st (t.strand sid) r
                ∧ t.mem = s.mem
                ∧ (∀ off, Raw.barAt r = some off → q.payload ≠ 0 →
                    bits (t.spadNum st.cid off 16) 103 64 = bits (s.spadNum st.cid off 16) 103 64 + q.payload))))

/-- Each engine instruction (R313, R342): with 32 commands in its core's queue it waits before any check; else it takes what its checks give, an expert
instruction waiting where they do. An XDISP whose command enters the queue makes its layer known (R334). Where the checks of any of the nine give an entry that
holds no tile of members and takes no leave, its own tiles are free of the strand's accesses and its barrier counts, it COMPLETES: its command is in the queue and
its strand has gone on. -/
def EngineInstructionsQueue : Prop :=
  (∀ p ∈ copyInstrs, ∀ (s : State) (o : XOps), Ready s (rawX p.2.1 o) →
    exec (p.1 o) s = .next (if s.copyFull s.cur then s else s.enterPlan s.cur (rawX p.2.1 o) (p.2.2 (rawX p.2.1 o) s s.me)))
  ∧ (∀ p ∈ expertInstrs, ∀ (s u : State) (o : XOps), Ready s (rawX p.2 o) →
    (s.copyFull s.cur = true → exec (p.1 o) s = .next s)
    ∧ (s.copyFull s.cur = false → s.planExpert s.cur (rawX p.2 o) = (none, u) → exec (p.1 o) s = .next u)
    ∧ (∀ q pa x, s.copyFull s.cur = false → s.planExpert s.cur (rawX p.2 o) = (some (q, pa, x), u) →
        let t := u.enterPlan s.cur (rawX p.2 o) q
        let entered : Prop := p.2 = 0xE5 ∧ bit (rawX p.2 o).ymod 0 = false ∧ (u.core s.me.core).cq.length < (t.core s.me.core).cq.length
        (entered → exec (p.1 o) s = .next (t.noteLayer s.cur pa x (s.me.s o.d.toNat % 2 ^ 56)))
        ∧ (¬ entered → exec (p.1 o) s = .next t)))
  ∧ (∀ p ∈ copyInstrs, ∀ (s : State) (o : XOps) (q : CEntry), Ready s (rawX p.2.1 o) → s.copyFull s.cur = false →
    p.2.2 (rawX p.2.1 o) s s.me = .enter q → s.reg 0xA34 = 0 → q.leave = 0 → q.abands = [] → s.tilesBusy s.cur (q.own ++ q.theirs) = false → s.tilesBusy s.cur q.own = false →
    (∀ off, Raw.barAt (rawX p.2.1 o) = some off → ∀ cid ∈ s.me.cid :: q.members.map Prod.fst, s.barRefuses cid off q.payload = false) →
    ∃ t e, exec (p.1 o) s = .next t ∧ (t.core s.me.core).cq = (s.core s.me.core).cq ++ [e] ∧ e.raw = rawX p.2.1 o ∧ e.sid = s.cur ∧ e.stage = 0
      ∧ e.left = q.payload ∧ (∀ x ∈ q.own, kvFind (t.cohort s.me.cid).owners x = some (e.ident + 1)) ∧ GoneOn s.me t.me (rawX p.2.1 o) ∧ t.mem = s.mem)
  ∧ (∀ p ∈ expertInstrs, ∀ (s u : State) (o : XOps) (q : CEntry) (pa x : Nat), Ready s (rawX p.2 o) → s.copyFull s.cur = false →
    s.planExpert s.cur (rawX p.2 o) = (some (.enter q, pa, x), u) → u.reg 0xA34 = 0 → u.tilesBusy s.cur q.own = false →
    (∀ off, Raw.barAt (rawX p.2 o) = some off → u.barRefuses (u.strand s.cur).cid off q.payload = false) →
    let st := u.strand s.cur
    ∃ t e, exec (p.1 o) s = .next t ∧ (t.core st.core).cq = (u.core st.core).cq ++ [e] ∧ e.raw = rawX p.2 o ∧ e.sid = s.cur ∧ e.stage = 0
      ∧ e.left = q.payload ∧ (∀ x ∈ q.own, kvFind (t.cohort st.cid).owners x = some (e.ident + 1)) ∧ GoneOn st (t.strand s.cur) (rawX p.2 o)
      ∧ t.mem = u.mem ∧ (p.2 = 0xE5 → bit (rawX p.2 o).ymod 0 = false → (u.region st.rid).state = 2 → ∃ l, t.layerOf pa = some l))
  ∧ EnginePlanIsTaken

/-- The events of the engines (R313, R315, R316, R334, R336 to R341, R348). COPY_COMMAND_START runs a command once the strand's earlier ones have started, and leaves
one that must wait; COPY_TILE_RETURN gives a covered tile that its command is done with back to the threads, and leaves any other; DISPATCH_RECORD lets the instants
that have come reach the engine and takes the first place of its queue one stage further, and leaves one that waits; DISPATCH_INSTANT lets the instants reach the
engine; BATCH_CLOSE_WINDOW queues the close of a batch whose window has run out; PRODUCT_SPAWN_RETRY tries again when its time has come. -/
def EngineEventsRunTheCommands : Prop :=
  (∀ (s : State) (core ident tile : Nat), s.command core ident = none →
    exec (.copyCommandStart core ident) s = .next s ∧ exec (.copyTileReturn core ident tile) s = .next s)
  ∧ (∀ (s : State) (core ident : Nat) (e : CCmd), s.command core ident = some e →
      let fuel := e.fuel + e.left + 8
      let run := if e.raw.op.toNat ≤ 0xE4 then s.startCopy core fuel e else s.startExpert core fuel e
      (2 ≤ e.stage ∨ (e.stage = 0 ∧ ∃ x ∈ (s.core core).cq, x.sid = e.sid ∧ x.seq < e.seq ∧ x.stage = 0) →
        exec (.copyCommandStart core ident) s = .next s)
      ∧ (e.stage = 1 → exec (.copyCommandStart core ident) s = .next run)
      ∧ (e.stage = 0 → (∀ x ∈ (s.core core).cq, x.sid = e.sid → x.seq < e.seq → x.stage ≠ 0) →
          exec (.copyCommandStart core ident) s = .next (run.pokeCopy core)))
  ∧ (∀ (s : State) (core ident tile : Nat) (e : CCmd), s.command core ident = some e →
      (e.doneWith tile = false ∨ kvFind e.tiles tile = none → exec (.copyTileReturn core ident tile) s = .next s)
      ∧ (∀ due, e.doneWith tile = true → kvFind e.tiles tile = some due → e.bar = none → e.members = [] →
          (e.stage ≠ 3 ∨ kvDel e.tiles tile ≠ []) →
          ∃ t, exec (.copyTileReturn core ident tile) s = .next t ∧ t.mem = s.mem
            ∧ (∀ x ∈ (t.cohort e.cid).owners, x ≠ (tile, ident + 1))
            ∧ t.command core ident = some { e with tiles := kvDel e.tiles tile, left := e.left - due }))
  ∧ (∀ (s : State) (die engine : Nat),
      let u := s.arriveInstants die engine
      let key := die * 2 + engine % 2
      (kvGet [] u.experts.queues key = [] → exec (.dispatchRecord die engine) s = .next u ∧ exec (.dispatchInstant die engine) s = .next u)
      ∧ (kvGet [] u.experts.queues key ≠ [] → exec (.dispatchInstant die engine) s = .next (u.push (.dispatchRecord die (engine % 2))))
      ∧ (∀ (d : DRec) (rest : List DRec), kvGet [] u.experts.queues key = d :: rest →
          let e := d.ident.bind (u.command d.core)
          (u.layerOf d.lcb = none → exec (.dispatchRecord die engine) s = .next ((u.engineForget die engine).setQueue die engine rest))
          ∧ (∀ l, u.layerOf d.lcb = some l →
              (d.ident ≠ none → e = none → exec (.dispatchRecord die engine) s
                = .next (((u.engineForget die engine).setQueue die engine rest).push (.dispatchRecord die (engine % 2))))
              ∧ (∀ c, e = some c → c.stage ≠ 1 → exec (.dispatchRecord die engine) s = .next u)
              ∧ ((d.ident = none ∨ ∃ c, e = some c ∧ c.stage = 1) →
                  let j := u.workJob l engine d e
                  (∀ left v, u.runWork j engine d = (.ok left, v) →
                    exec (.dispatchRecord die engine) s = .next (v.workDone die engine j e d rest left))
                  ∧ (∀ x v, u.runWork j engine d = (.error x, v) → exec (.dispatchRecord die engine) s
                      = .next (match e with | some c => v.workFailed d.core c x | none => v))))))
  ∧ (∀ (s : State) (die engine : Nat), s.freshInstant die engine = false →
      s.arriveInstants die engine = s)
  ∧ (∀ (s : State) (lcb expert : Nat),
      (s.layerOf lcb = none → exec (.batchCloseWindow lcb expert) s = .next s)
      ∧ (∀ l, s.layerOf lcb = some l →
          (s.windowOut l expert = false → exec (.batchCloseWindow lcb expert) s = .next s)
          ∧ (s.windowOut l expert = true → ∃ t, exec (.batchCloseWindow lcb expert) s = .next t
              ∧ (∃ d ∈ kvGet [] t.experts.queues (l.die * 2 + expert % 2), d.lcb = l.pa ∧ d.work = .window expert)
              ∧ t.mem = s.mem ∧ t.strands = s.strands)))
  ∧ (∀ (s : State) (lcb expert : Nat) (q : Product), s.experts.products.find? (fun q => q.lcb == lcb && q.expert == expert) = some q →
      (s.cycle < q.retryAt → exec (.productSpawnRetry lcb expert) s = .next s)
      ∧ (q.retryAt ≤ s.cycle → exec (.productSpawnRetry lcb expert) s
          = .next (({ s with experts := { s.experts with products := s.experts.products.erase q } } : State).spawnProduct q)))

/-- A copy or expert instruction takes what its checks give (R313, R316, R342): their fault; with 32 commands in its core's queue it waits; a
barrier that expects no strand, or could not count the payload, is a protection fault; else its command stands last in the queue, its
tiles belong to it, its barrier counts its payload, and the strand has gone on. COPY_COMMAND_START runs a command once the strand's
earlier ones have started; COPY_TILE_RETURN gives a covered tile back; DISPATCH_RECORD handles the first record of an engine's queue;
DISPATCH_INSTANT, BATCH_CLOSE_WINDOW and PRODUCT_SPAWN_RETRY do their layer's work, and nothing where there is none (R336 to R348). -/
def Obligations.EnginesRunTheirCommands : Prop := EngineInstructionsQueue ∧ EngineEventsRunTheCommands

/-! ## Regions, translation, copies and logical time -/

/-- COHORT_PLACEMENT places the first tile that fits and looks again (R360); AGEING_STEP moves a region whose wait in its queue has run out
one queue up and starts its wait again, and does nothing before (R362); PREEMPT_DRAIN_COMPLETE and SHUTTER_EXPIRY end a drain (R361, R364),
the latter in state 8 where something of the region still runs; and a region that is ending reaches its final state once the dirty bytes of its
context are performed, the allowances of its cores are back at their homes, its ended strands hold no guard and the words of its status can be
written (R361, R363, R366). -/
def RegionsArePlacedAgedAndDrained : Prop :=
  (∀ (s : State) (die : Nat),
    (s.nextPlacement die = none → exec (.cohortPlacement die) s = .next s)
    ∧ (∀ rid core, s.nextPlacement die = some (rid, core) →
        exec (.cohortPlacement die) s = .next ((s.placeTile rid core).push (.cohortPlacement die))))
  ∧ (∀ (s : State) (rid : Nat),
    let r := s.region rid
    (∀ q, r.queue = some q → q < 6 → r.rcb.age ≠ 0 → r.ending = none → r.waitSince + 1000 * r.rcb.age ≤ s.ns →
      ∃ t, exec (.ageingStep rid) s = .next t ∧ (t.region rid).queue = some (q + 1) ∧ (t.region rid).aged = true
        ∧ (t.region rid).waitSince = s.ns ∧ (t.region rid).state = r.state ∧ (∀ k, k ≠ rid → t.region k = s.region k)
        ∧ t.mem = s.mem ∧ t.strands = s.strands)
    ∧ (r.queue = none ∨ r.queue = some 6 ∨ r.rcb.age = 0 ∨ s.ns < r.waitSince + 1000 * r.rcb.age → exec (.ageingStep rid) s = .next s)
    ∧ (s.isDrained rid = false → exec (.preemptDrainComplete rid) s = .next s)
    ∧ (s.isDrained rid = true → exec (.preemptDrainComplete rid) s = .next (s.drainDone rid))
    ∧ (∀ d, r.shutAt = some d →
        (s.time < d ∨ r.state ≠ 3 → exec (.shutterExpiry rid) s = .next s)
        ∧ (d ≤ s.time → r.state = 3 → s.isDrained rid = true →
            exec (.shutterExpiry rid) s = .next ((s.setRegion rid { r with shutAt := none }).drainDone rid))
        ∧ (d ≤ s.time → r.state = 3 → s.isDrained rid = false → (∀ x, r.ending = some x → x = (4, noClass, 0, 0)) →
            exec (.shutterExpiry rid) s = .next (s.terminate rid 8 noClass 0 0))
        ∧ (∀ x, r.ending = some x → x ≠ (4, noClass, 0, 0) → exec (.shutterExpiry rid) s = .next s))
    ∧ (r.shutAt = none → exec (.shutterExpiry rid) s = .next s)
    ∧ (∀ f cls fpc faddr u, r.ending = some (f, cls, fpc, faddr) →
        (s.finalReady rid f = (true, u) → s.settle rid = u.writeFinal rid f cls fpc faddr)
        ∧ (s.finalReady rid f = (false, u) → s.settle rid = u)
        ∧ ((s.finalReady rid f).1 = true → (∃ v, s.performAsid r.asid = (true, v)) ∧ (f ≠ 5 → f ≠ 9 → s.allowsOut rid = false)
            ∧ ∀ p ∈ s.allStrands, p.2.rid = rid → p.2.life = .ended → p.2.guards = [])))
  ∧ (∀ (u : State) (rid f cls fpc faddr : Nat), ((u.writeFinal rid f cls fpc faddr).region rid).state = f
      ∧ ((u.writeFinal rid f cls fpc faddr).region rid).ending = none)

/-- The commands of a context's page in the launch window (R357, R358, R361, R363): one written while another is being applied is
discarded; a CMD above 4, or a field [59:56] that is not 0, has code 7. LAUNCH has code 6 for an RCB off a 512-byte boundary; once the RCB is
read, 7 for a context that is not valid or a STATE that allows no launch, 2 where priority 7 is asked for by an ordinary page, 4 with 1,024 regions
live, and else 0 with the region in its queue. The other commands have code 7 where no live region has that RCB; KILL and FAULT terminate it in
state 7 and 6; PREEMPT is for one that is queued or runs, RESUME for one that runs or drains. CTXKILL ends with no translation and no pin of the
context left (R370). -/
def LaunchWindowCommandsAnswer : Prop :=
  (∀ p ∈ ([(.windowLaunch, 0), (.windowPreempt, 1), (.windowKill, 2), (.windowResume, 3), (.windowFault, 4)] :
      List ((Nat → Nat → Bool → Instr) × Nat)), ∀ (s : State) (asid rcb : Nat) (priv : Bool),
    let page := windowPage asid priv
    let word := (rcb + p.2 * 2 ^ 60) % 2 ^ 64
    let cmd := bits word 63 60
    let at_ := bits word 59 0
    (s.windowBusy page = true → exec (p.1 asid rcb priv) s = .next s)
    ∧ (s.windowBusy page = false → 4 < cmd ∨ 2 ^ 56 ≤ at_ → exec (p.1 asid rcb priv) s = .next (s.windowCode page 7))
    ∧ (s.windowBusy page = false → cmd = 0 → at_ < 2 ^ 56 →
        (at_ % 512 ≠ 0 → exec (p.1 asid rcb priv) s = .next (s.windowCode page 6))
        ∧ (∀ l u, at_ % 512 = 0 → s.readRcb ⟨0, none, page % 65536, true⟩ at_ none none = (.ok l, u) →
            let refused : Prop := u.ctxValid (page % 65536) = false ∨ (1 ≤ l.state ∧ l.state ≤ 3) ∨ 10 ≤ l.state
            (refused → exec (p.1 asid rcb priv) s = .next (u.windowCode page 7))
            ∧ (¬ refused → l.rcb.prio = 7 → priv = false → exec (p.1 asid rcb priv) s = .next (u.windowCode page 2))
            ∧ (¬ refused → (l.rcb.prio = 7 → priv = true) → 1024 ≤ u.liveRegions →
                exec (p.1 asid rcb priv) s = .next (u.windowCode page 4))
            ∧ (¬ refused → (l.rcb.prio = 7 → priv = true) → u.liveRegions < 1024 →
                exec (p.1 asid rcb priv) s = .next ((u.enqueue (page % 65536) at_ l none).2.windowCode page 0))))
    ∧ (s.windowBusy page = false → 1 ≤ cmd → cmd ≤ 4 → at_ < 2 ^ 56 →
        (s.regionAt (page % 65536) at_ = none → exec (p.1 asid rcb priv) s = .next (s.windowCode page 7))
        ∧ (∀ rid, s.regionAt (page % 65536) at_ = some rid →
            (cmd = 1 → (s.region rid).state = 1 ∨ (s.region rid).state = 2 →
                exec (p.1 asid rcb priv) s = .next ((s.preempt rid).windowCode page 0))
            ∧ (cmd = 1 → (s.region rid).state = 3 → exec (p.1 asid rcb priv) s = .next (s.windowCode page 7))
            ∧ (cmd = 2 → exec (p.1 asid rcb priv) s = .next ((s.terminate rid 7 noClass 0 0).windowCode page 0))
            ∧ (cmd = 3 → (s.region rid).state = 1 → exec (p.1 asid rcb priv) s = .next (s.windowCode page 7))
            ∧ (∀ u, cmd = 3 → (s.region rid).state = 2 ∨ (s.region rid).state = 3 → s.resumeRegion rid = (some 0, u) →
                exec (p.1 asid rcb priv) s = .next (u.windowCode page 0))
            ∧ (cmd = 4 → exec (p.1 asid rcb priv) s = .next ((s.terminate rid 6 noClass 0 0).windowCode page 0)))))
  ∧ (∀ (s : State) (asid : Nat),
    (s.pkg.ctxKill ≠ none → exec (.ctxkillWrite asid) s = .next s)
    ∧ (s.pkg.ctxKill = none → ∃ t, exec (.ctxkillWrite asid) s = .next t
        ∧ (t.pkg.ctxKill = some (asid % 65536) → .ctxkill (asid % 65536) ∈ t.parked)
        ∧ (t.pkg.ctxKill = none →
            (∀ die < 2, ∀ e ∈ kvGet [] t.xlate.dieTlb die, e.asid ≠ asid % 65536)
            ∧ (∀ k < 24, ∀ e ∈ kvGet [] t.xlate.cluster k, e.asid ≠ asid % 65536)
            ∧ (∀ k x, t.tag k = some x → x.pin ≠ some (asid % 65536)))))

/-- The events of regions: placement, ageing, drains and their shutter, final states (R360 to R366); the commands of the launch window
with their codes (R357, R358); and the destruction of a context (R370). -/
def Obligations.RegionsFollowTheirCommands : Prop := RegionsArePlacedAgedAndDrained ∧ LaunchWindowCommandsAnswer

/-- PAGE_WALK enters the leaf that a walk finds in the die's TLB, and does nothing where the host translates or an entry serves the page (R376,
R378); HOST_TRANSLATION_ANSWER answers a request that waits, with a well-formed leaf or with none, and does nothing without one (R377); LLC_FILL
changes no byte of memory (R398); LLC_PROBE and LLC_COUNTER_READ bring the value of the strand's own selection to the register that waits for it, the counter of a
die one slice after another, as strong loads do: they wait out an epoch flip and move the core's acquired time (R405, R406, R415; log 51); COPY_RENEWAL and HOST_SHARED_FILL bring a line into a core's cache, of HBM and of host memory (R410, R418). An instruction's word
in a line that the instruction cache holds is read from there (R45). -/
def Obligations.TranslationsAndCopiesArrive : Prop :=
  (∀ (s : State) (die asid vpage : Nat),
    let va := vpage * 65536
    let i : Instr := .pageWalk die asid vpage
    (s.hostMode 0 = true ∨ 2 ^ 56 ≤ va ∨ 2 ≤ die ∨ (∃ e ∈ kvGet [] s.xlate.dieTlb die, e.serves asid va = true) → exec i s = .next s)
    ∧ (s.hostMode 0 = false → va < 2 ^ 56 → die < 2 → (∀ e ∈ kvGet [] s.xlate.dieTlb die, e.serves asid va = false) →
        (∀ pte size u, s.walk die asid va = (.leaf pte size, u) → exec i s = .next (u.enterLeaf die none asid va pte size))
        ∧ (∀ c u, s.walk die asid va = (.fault c, u) → exec i s = .next u) ∧ (∀ u, s.walk die asid va = (.wait, u) → exec i s = .next u))
    ∧ (∀ leaf : Option (DWord × Nat),
        let asked (q : XAsk) : Bool := q.die == die && q.asid == asid && q.page == va
        let good : Prop := ∃ p, leaf = some p ∧ p.2 ∈ [2 ^ 30, 2 ^ 21, 2 ^ 16] ∧ leafOk p.1.toNat p.2 = true
        ((∀ q ∈ s.xlate.requests, asked q = false) → exec (.hostTranslationAnswer die asid vpage leaf) s = .next s)
        ∧ ((∃ q ∈ s.xlate.requests, asked q = true) → ∃ t, exec (.hostTranslationAnswer die asid vpage leaf) s = .next t
          ∧ t.xlate.requests = s.xlate.requests.filter (fun q => !asked q) ∧ t.mem = s.mem ∧ t.strands = s.strands
          ∧ (good → t.xlate.nones = s.xlate.nones
              ∧ ∃ p, leaf = some p ∧ (kvGet [] t.xlate.dieTlb die).head? = some ⟨asid, va / p.2 * p.2, p.2, p.1.toNat⟩)
          ∧ (¬ good → t.xlate.nones = s.xlate.nones.filter (fun n => decide (s.cycle / 64 ≤ n.2 + 1))
                ++ (s.xlate.requests.filter asked).map (fun q => (q, s.cycle / 64)) ∧ t.xlate.dieTlb = s.xlate.dieTlb))))
  ∧ (∀ (s : State) (line : Nat), (isHbm (line * 128) = false → exec (.llcFill line) s = .next s)
      ∧ (NoTagLost s → ∃ t, exec (.llcFill line) s = .next t ∧ t.mem = s.mem ∧ t.strands = s.strands ∧ t.cores = s.cores ∧ t.regions = s.regions))
  ∧ (∀ (s : State) (sid dst : Nat),
      let st := s.strand sid
      let line := st.llcprba.toNat / 128
      let gives (u : State) (x : Nat) : State := (u.setStrand sid { st.setS dst x with waiting := .nothing }).noteTime st.core u.topTime
      (∀ q, st.waiting = .llc dst q →
        (s.flipHold = false → exec (.llcProbe sid dst) s = .next (gives (s.noteWts line st.core) (s.llcProbeOf st.llcprba.toNat)))
        ∧ (s.flipHold = true → exec (.llcProbe sid dst) s = .next (s.push (.llcProbe sid dst)))
        ∧ ∀ csr, llcCsr csr = true → csr ≠ 0x962 →
          let p := llcSlices csr st.llcslsel.toNat
          let one := s.llcSlice (csr % 16) (p.1 + q.slices) q
          (s.flipHold = true → exec (.llcCounterRead sid csr dst) s = .next (s.push (.llcCounterRead sid csr dst)))
          ∧ (s.flipHold = false → p.2 ≤ q.slices → exec (.llcCounterRead sid csr dst) s = .next (gives s (q.value (csr % 16))))
          ∧ (s.flipHold = false → q.slices + 1 = p.2 → exec (.llcCounterRead sid csr dst) s = .next (gives s (one.value (csr % 16))))
          ∧ (s.flipHold = false → q.slices + 1 < p.2 → exec (.llcCounterRead sid csr dst) s
              = .next ((s.setStrand sid { st with waiting := .llc dst one }).push (.llcCounterRead sid csr dst))))
      ∧ ((∀ q, st.waiting ≠ .llc dst q) → exec (.llcProbe sid dst) s = .next s ∧ ∀ csr, exec (.llcCounterRead sid csr dst) s = .next s))
  ∧ (∀ (s : State) (core cache asid vline : Nat),
      let w : Who := ⟨core, none, asid, true⟩
      (cache = 6 ∨ 8 ≤ cache ∨ 192 ≤ core → exec (.copyRenewal core cache asid vline) s = .next s ∧ exec (.hostSharedFill core cache asid vline) s = .next s)
      ∧ (∀ pa perms u, cache < 8 → cache ≠ 6 → core < 192 → s.access w (vline * 128) needR 0 = (.hit pa perms, u) →
          let filled := (u.ensure w cache (vline * 128) (2 ^ 128 - 1) needR 0).2
          exec (.copyRenewal core cache asid vline) s = .next (if isHbm pa then filled else u)
          ∧ exec (.hostSharedFill core cache asid vline) s = .next (if isHostMem pa then filled else u)))
  ∧ FetchReadsTheInstructionCache

/-- LT_TICK raises a core's logical time by 1 every 16 cycles, and the epoch flips first where it would reach 2^31 (R408). EPOCH_FLIP waits for every
lease to end, and from then on until the flip is done every access to a home waits; with no dirty byte in any core the next epoch then begins, with every stamp and every logical time 0 and no timed copy of an awake core
answering a read again (R415). SAFELIGHT_ENTRY gates an idle core, noting the flips so far, and SAFELIGHT_WAKE wakes it: after two flips or more its caches
are empty (R416). HOLDING_END_MESSAGE performs the first message of a holding as one write, and cancels one of an older version (R417). No cycle passes
while an event's time has come: a tick, the write-back of a byte that has been dirty for 8,192 cycles (R412), the end of a lease or of a timer comes first;
nor while a strand has been ready for 256 cycles, which issues first (R134). -/
def Obligations.LogicalTimeMovesOn : Prop :=
  (∀ (s : State) (core : Nat),
    let c := s.core core
    (s.cycle < c.tickAt + 16 → exec (.ltTick core) s = .next s)
    ∧ (c.tickAt + 16 ≤ s.cycle → 2 ^ 31 ≤ c.lt + 1 → exec (.ltTick core) s = .next (s.push .epochFlip))
    ∧ (c.tickAt + 16 ≤ s.cycle → c.lt + 1 < 2 ^ 31 → exec (.ltTick core) s = .next (s.setCore core { c with lt := c.lt + 1, tickAt := c.tickAt + 16 })))
  ∧ (∀ s : State,
    ((∃ h ∈ s.homes.holdings, h.2.isSome = true) → ∃ t, exec .epochFlip s = .next t ∧ t.pkg.flipping = true ∧ t.pkg.epoch = s.pkg.epoch
      ∧ t.mem = s.mem ∧ t.cores = s.cores)
    ∧ (s.pkg.flipping = true → (∀ h ∈ s.homes.holdings, h.2 = none) → s.flipHold = true
      ∧ ∀ line sid core atomic host, s.homeWaits line sid atomic = true ∧ s.writeBlocked line sid core atomic host = true)
    ∧ ((∀ h ∈ s.homes.holdings, h.2 = none) → s.homes.dev = [] → (∀ p ∈ s.cores, ∀ c ∈ p.2.copies, c.dirty = 0) → ∃ t, exec .epochFlip s = .next t
        ∧ t.pkg.epoch = (s.pkg.epoch + 1) % 4 ∧ t.pkg.flips = s.pkg.flips + 1 ∧ t.pkg.flipping = false ∧ t.mem = s.mem
        ∧ (∀ line, t.wr line = (0, 0)) ∧ (∀ core, (t.core core).lt = 0)
        ∧ ∀ core, (t.core core).snap = none → ∀ c ∈ (t.core core).copies, c.hostMem = false → c.epoch = noEpoch))
  ∧ (∀ (s : State) (core : Nat),
    (s.coreIdle core = true → (s.core core).snap = none → core < 192 →
      exec (.safelightEntry core) s = .next (s.setCore core { s.core core with snap := some s.pkg.flips }))
    ∧ (s.coreIdle core = false ∨ (s.core core).snap ≠ none → exec (.safelightEntry core) s = .next s)
    ∧ ((s.core core).snap = none → exec (.safelightWake core) s = .next s)
    ∧ (∀ n, (s.core core).snap = some n → ∃ t, exec (.safelightWake core) s = .next t ∧ (t.core core).snap = none ∧ t.mem = s.mem
        ∧ (2 ≤ (s.pkg.flips - n) % 2 ^ 32 → (t.core core).copies = [] ∧ (t.core core).icache = [])
        ∧ ((s.pkg.flips - n) % 2 ^ 32 < 2 → (t.core core).icache = (s.core core).icache
            ∧ ∀ c ∈ (t.core core).copies, c.hostMem = true ∨ c.epoch = s.pkg.epoch ∨ c.epoch = noEpoch)))
  ∧ (∀ (s : State) (core line ver : Nat) (bytes : List (Nat × Byte)),
    ((∀ h, s.holding line = some h → h.core ≠ core ∨ h.ver ≠ ver) → exec (.holdingEndMessage core line ver bytes) s = .next s)
    ∧ (∀ h, s.holding line = some h → h.core = core → h.ver = ver → isHbm (line * 128) = true → s.inFilter line = false → s.homes.dev = [] →
        wouldFlip (s.nextWts line (some core)) = false → NoTagLost s → s.reg 0xA34 = 0 → (bytes.map Prod.fst).Nodup →
        (∀ w ∈ bytes, w.1 / 128 = line ∧ s.isProtected w.1 = false) →
        ∃ t, exec (.holdingEndMessage core line ver bytes) s = .next t ∧ t.holding line = none
          ∧ (∀ w ∈ bytes, t.byteAt w.1 = w.2) ∧ (∀ a, (∀ w ∈ bytes, w.1 ≠ a) → t.byteAt a = s.byteAt a)))
  ∧ (∀ (s : State) (n : Nat) (rest : List Move), s.pkg.halted = false → s.agenda = .elapse (n + 1) :: rest →
    let now : State := { s with agenda := rest }
    let again (u : State) : State := { u with agenda := .elapse (n + 1) :: rest }
    (∀ i, now.due = some i → step s = onNext (exec i (again now)) State.attend)
    ∧ (now.due = none → ∀ sid, now.noteReady.mustIssue = some sid → step s = onNext ((again now.noteReady).issueTurn sid) State.attend)
    ∧ (now.due = none → now.noteReady.mustIssue = none →
        step s = .next ({ now.noteReady.nextCycle with agenda := .elapse (n + 1 - now.noteReady.pace) :: rest } : State).attend))

/-! ## The host, the package and the fabric -/

/-- HOST_SNOOP takes a host line from every core, once no lease of it stands and no write of it is on its way (R418). HOST_MEM_READ changes no byte
where nothing is poisoned. HOST_MEM_WRITE, where none of its lines must wait, changes exactly its bytes but for those of initialised counter
blocks (R252), and waits whole where one must (R434).
HOST_GO_RECEIPT performs the oldest device write to host memory (R434); BISNP_REPLY gives up a line that is being back-invalidated, with its bytes, once no
epoch flip must come first (R415), and is nothing for another (R418). MGMT_WINDOW_ACCESS writes or reads a privileged register under that register's own rules, and answers a read with its value, 0 for a number that
is not listed (R433). -/
def Obligations.HostAccessesReachTheirHomes : Prop :=
  (∀ (s : State) (line : Nat),
    (isHostMem (line * 128) = false ∨ s.snoopWaits line = true → exec (.hostSnoop line) s = .next s)
    ∧ (isHostMem (line * 128) = true → s.snoopWaits line = false → ∃ t, exec (.hostSnoop line) s = .next t
        ∧ (∀ core, ∀ c ∈ (t.core core).copies, c.pline ≠ line)
        ∧ ((∀ core c, s.l1Of core line = some c → c.dirty = 0) → t.mem = s.mem)))
  ∧ (∀ (s : State) (addr len : Nat), s.homes.poison = [] → s.homes.hbmBad = [] → NoTagLost s →
      ∃ t, exec (.hostMemRead addr len) s = .next t ∧ t.mem = s.mem ∧ t.strands = s.strands ∧ t.cores = s.cores ∧ t.pkg = s.pkg)
  ∧ (∀ (s : State) (addr : Nat) (bytes : List Byte), addr + bytes.length ≤ 2 ^ 39 →
      (NoTagLost s → s.reg 0xA34 = 0 → (∀ l ∈ linesOf addr bytes.length, s.writeBlocked l none none false true = false) →
        ∃ t, exec (.hostMemWrite addr bytes) s = .next t
          ∧ (∀ i < bytes.length, t.byteAt (addr + i) = if s.countsAt (addr + i) then s.byteAt (addr + i) else listAt 0 bytes i)
          ∧ (∀ a, a < addr ∨ addr + bytes.length ≤ a → t.byteAt a = s.byteAt a))
      ∧ (bytes ≠ [] → (∀ i < bytes.length, s.countsAt (addr + i) = false) → (∃ l ∈ linesOf addr bytes.length, s.writeBlocked l none none false true = true) →
          ∃ t, exec (.hostMemWrite addr bytes) s = .next t ∧ t.mem = s.mem ∧ .hostWrite addr bytes ∈ t.parked))
  ∧ (∀ s : State,
      (s.homes.goQueue = [] → exec .hostGoReceipt s = .next s)
      ∧ (∀ core ws rest, s.homes.goQueue = (core, ws) :: rest → ws ≠ [] →
          let u := (({ s with homes := { s.homes with goQueue := rest } } : State).homeWrite ws (some core)).flushDev
          exec .hostGoReceipt s = .next (if rest = [] then u else u.push .hostGoReceipt)))
  ∧ (∀ (s : State) (line : Nat) (bytes : List (Nat × Byte)),
      (line ∉ s.homes.snooped → exec (.bisnpReply line bytes) s = .next s)
      ∧ (line ∈ s.homes.snooped → s.homes.dev = [] → wouldFlip (s.nextWts line none) = false ∨ s.pkg.flipping = true →
          ∃ t, exec (.bisnpReply line bytes) s = .next t ∧ line ∉ t.homes.snooped ∧ t.inFilter line = false
          ∧ ((∀ w ∈ bytes, w.1 / 128 ≠ line) → t.mem = s.mem))
      ∧ (line ∈ s.homes.snooped → (∃ w ∈ bytes, w.1 / 128 = line ∧ s.countsAt w.1 = false) → wouldFlip (s.nextWts line none) = true →
          s.pkg.flipping = false →
          exec (.bisnpReply line bytes) s = .next ((s.push .epochFlip).park (.reply line bytes))))
  ∧ (∀ (s : State) (die csr : Nat),
      (∀ x : DWord, exec (.mgmtWindowAccess die csr (some x)) s = .next (s.privWrite (.host die) csr x.toNat))
      ∧ (privListed csr = true → let p := s.privTake (.host die) csr
          exec (.mgmtWindowAccess die csr none) s = .next { p.2 with pkg := { p.2.pkg with answer := p.1 } })
      ∧ (privListed csr = false → exec (.mgmtWindowAccess die csr none) s = .next { s with pkg := { s.pkg with answer := 0 } }))

/-- Register writes by the host and by strands keep the rules of their fields: MODESEL takes bits [4:0] (R454), LEASELEN 256 for a value outside 16 to
4,096 (R414), VSET the nearest of 360 to 520, BUDGET 1,600 for a value outside 1 to 1,900 (R452), DTSET once and before the first launch (R445), ATNONCE's last
word starts a report (R458), MINJ is armed only for a row and a bit that there are (R309). What the Uzoip of a die writes is logged first, sets bits of MODESEL
and clears none, and waits behind what it has waiting (R454, R456); one that has not started does nothing (R457); its access outside its area and its grants is discarded and logged, one inside them is made, and a store by a grant is logged; none
reaches the block of an initialised counter (R252, R455). ATTESTATION_REPORT completes a report. -/
def Obligations.RegisterWritesKeepTheirFields : Prop :=
  (∀ (s : State) (who : Writer) (x : DWord), (∀ die, who ≠ .uzoip die) →
    let n := x.toNat
    (∀ csr, exec (.registerWrite who csr x) s = .next (s.privWrite who csr n))
    ∧ exec (.modeselWrite who x) s = .next (s.setReg 0xA10 (n % 32))
    ∧ exec (.leaselenWrite who x) s = .next (s.setReg 0x969 (if 16 ≤ n % 65536 ∧ n % 65536 ≤ 4096 then n % 65536 else 256))
    ∧ exec (.vsetWrite who x) s = .next (s.setReg 0xA02 (max 360 (min 520 (n % 1024))))
    ∧ exec (.pwrctlWrite who x) s = .next (s.setReg 0xA00 (if 1 ≤ n % 2048 ∧ n % 2048 ≤ 1900 then n % 2048 else 1600))
    ∧ (s.pkg.dtsetUsed = true ∨ s.pkg.launched = true → exec (.dtsetWrite who x) s = .next s)
    ∧ (s.pkg.dtsetUsed = false → s.pkg.launched = false → ∃ t, exec (.dtsetWrite who x) s = .next t ∧ t.time = 47 * n ∧ t.ns = n
        ∧ t.pkg.dtsetUsed = true ∧ t.mem = s.mem ∧ t.strands = s.strands)
    ∧ (∃ t, exec (.minjWrite who x) s = .next t ∧ t.mem = s.mem ∧ t.strands = s.strands
        ∧ (t.core (s.coreOf who)).weight.minj.toNat % 2 ^ 22 = n % 2 ^ 22
        ∧ (bit (t.core (s.coreOf who)).weight.minj.toNat 63 = true ↔ bit n 63 = true ∧ n % 64 < 40
            ∧ ∃ sid, who = .strand sid ∧ bits n 21 13 < (s.cohort (s.strand sid).cid).rows)))
  ∧ (∀ (s : State) (word : Nat) (x : DWord), ∃ t, exec (.atnonceWrite word x) s = .next t ∧ t.reg (0xA20 + word % 8) = x.toNat
      ∧ (∀ n, n ≠ 0xA20 + word % 8 → t.reg n = s.reg n) ∧ t.pkg.atBusy = (decide (word % 8 = 7) || s.pkg.atBusy))
  ∧ (∀ (s : State) (die csr pa : Nat) (x : DWord),
      let d := die % 2
      let waits : Prop := s.fwFull = true ∨ ∃ w ∈ s.pkg.uzoipWait, w.1 = d
      let later (a : FwAct) : State := { s with pkg := { s.pkg with uzoipWait := s.pkg.uzoipWait ++ [(d, a)] } }
      (s.pkg.uzoipOff = true → exec (.registerWrite (.uzoip die) csr x) s = .next s
        ∧ ∀ a, exec (.uzoipDiscardedAccess die a) s = .next s)
      ∧ (s.pkg.uzoipOff = false → ¬ waits →
        exec (.registerWrite (.uzoip die) csr x) s = .next ((s.fwEntry 1 csr x.toNat).privWrite (.uzoip d) csr x.toNat)
        ∧ (let t := s.fwEntry 1 0xA10 x.toNat; exec (.modeselWrite (.uzoip die) x) s = .next (t.setReg 0xA10 (t.reg 0xA10 ||| x.toNat % 32))))
      ∧ (s.pkg.uzoipOff = false → waits → exec (.registerWrite (.uzoip die) csr x) s = .next (later (.csr csr x.toNat)))
      ∧ (s.pkg.uzoipOff = false → inFwArea pa = false →
          (s.fwGranted pa true = false → ¬ waits → exec (.uzoipDiscardedAccess die ⟨pa, some x⟩) s = .next (s.fwEntry 0xFF pa x.toNat))
          ∧ (s.fwGranted pa true = false → waits → exec (.uzoipDiscardedAccess die ⟨pa, some x⟩) s = .next (later (.discarded pa x.toNat)))
          ∧ (s.fwGranted pa true = true → ¬ waits → exec (.uzoipDiscardedAccess die ⟨pa, some x⟩) s = .next ((s.fwEntry 3 pa x.toNat).fwStore pa x.toNat))
          ∧ (s.fwGranted pa true = true → waits → exec (.uzoipDiscardedAccess die ⟨pa, some x⟩) s = .next (later (.store pa x.toNat)))
          ∧ (s.fwGranted pa false = true → exec (.uzoipDiscardedAccess die ⟨pa, none⟩) s = .next s)
          ∧ (s.fwGranted pa false = false → ¬ waits → exec (.uzoipDiscardedAccess die ⟨pa, none⟩) s = .next (s.fwEntry 0xFF pa 0)))
      ∧ (s.pkg.uzoipOff = false → inFwArea pa = true → exec (.uzoipDiscardedAccess die ⟨pa, some x⟩) s = .next (s.fwStore pa x.toNat)
          ∧ exec (.uzoipDiscardedAccess die ⟨pa, none⟩) s = .next s)
      ∧ (pa % 64 ≤ 56 → s.countsAt pa = false → s.fwStore pa x.toNat = s.devWrite pa (leBytes 8 x.toNat))
      ∧ (pa % 64 ≤ 56 → s.countsAt pa = true → s.fwStore pa x.toNat = s)
      ∧ (NoTagLost s → s.devWaits (pa / 128) = false → pa % 64 ≤ 56 → ∀ i < 8, (s.devWrite pa (leBytes 8 x.toNat)).byteAt (pa + i) = listAt 0 (leBytes 8 x.toNat) i))
  ∧ (∀ s : State,
      (s.pkg.atBusy = false → exec .attestationReport s = .next s)
      ∧ (s.pkg.atBusy = true → ∃ t, exec .attestationReport s = .next t ∧ t.pkg.atBusy = false ∧ t.mem = s.mem
          ∧ ∀ i < s.reportBody.length, kvGet 0#8 t.pkg.report i = listAt 0 s.reportBody i))

/-- HBMERR_READ clears CE and UE of its stack (R423); HBM_PATROL_SCRUB with nothing found changes nothing, and the sixteenth corrected
error of a row within one hour remaps it (R421); POWER_TOPUP takes
place once in each 100,000 ns (R451); CURRENT_CAP and THERMAL_THROTTLE note where the package stands (R452, R453); a window of the weight store's refresh
that opens changes nothing (R427); LIFETIME_RECORD writes the older copy once an hour, which is then the latest (R459); LOSS_OF_POWER and THERMAL_TRIP take the
package out of use, the first without what had not been written (R453, R459); CONTACT_SHEET stops placement of a debug region that runs, and CONTACT_SHEET_WRITE
writes the sheet of a region that has drained, once its cores' allowances are back at their homes (R361), CSHHEAD naming it, or none where it is
longer than the area (R460). -/
def Obligations.PackageKeepsItsRecords : Prop :=
  (∀ (s : State) (k : Nat), (8 ≤ k → exec (.hbmerrRead k) s = .next s)
    ∧ (k < 8 → ∃ t, exec (.hbmerrRead k) s = .next t ∧ t.mem = s.mem
        ∧ (kvGet 0#64 t.pkg.hbmErr k).toNat = setBits (kvGet 0#64 s.pkg.hbmErr k).toNat 51 28 0
        ∧ ∀ j, j ≠ k → kvGet 0#64 t.pkg.hbmErr j = kvGet 0#64 s.pkg.hbmErr j)
    ∧ exec (.hbmPatrolScrub k []) s = .next s
    ∧ (∀ half, stackOf (half * 64) = k → isHbm (half * 64) = true →
        let hour := (kvGet [] s.pkg.rowErr (rowOf k half)).filter (fun t => decide (s.ns < t + 3600000000000))
        exec (.hbmPatrolScrub k [(half, false)]) s = .next (s.corrected k half)
        ∧ exec (.hbmPatrolScrub k [(half, true)]) s = .next (s.hbmUpset half)
        ∧ (hour.length < 15 → (s.corrected k half).pkg.softRows = s.pkg.softRows
            ∧ kvGet [] (s.corrected k half).pkg.rowErr (rowOf k half) = s.ns :: hour)
        ∧ (15 ≤ hour.length → rowOf k half ∈ (s.corrected k half).pkg.softRows
            ∧ kvGet [] (s.corrected k half).pkg.rowErr (rowOf k half) = [])))
  ∧ (∀ (s : State) (t0 t1 : Nat), (s.ns / 100000 ≤ s.pkg.topupAt → exec (.powerTopup t0 t1) s = .next s)
      ∧ (s.pkg.topupAt < s.ns / 100000 → ∃ t, exec (.powerTopup t0 t1) s = .next t ∧ t.pkg.topupAt = s.ns / 100000 ∧ t.time = s.time))
  ∧ (∀ (s : State) (hot : Bool) (bank : Nat),
      exec (.currentCap hot) s = .next { s with pkg := { s.pkg with overCurrent := hot } }
      ∧ exec (.thermalThrottle hot) s = .next { s with pkg := { s.pkg with overTemp := hot } }
      ∧ exec (.wsRefreshWindow bank true) s = .next s)
  ∧ (∀ s : State,
      (s.hours ≤ s.pkg.lifeHour → exec .lifetimeRecord s = .next s)
      ∧ (s.pkg.lifeHour < s.hours → ∃ t, exec .lifetimeRecord s = .next t ∧ t.pkg.lifeLatest.seq = s.pkg.lifeLatest.seq + 1
          ∧ t.pkg.lifeLatest.words = t.pkg.lifeNow ∧ t.pkg.lifeHour = s.hours ∧ t.mem = s.mem)
      ∧ (∃ t, exec .lossOfPower s = .next t ∧ t.pkg.halted = true ∧ t.pkg.lifeNow = s.pkg.lifeLatest.words ∧ t.pkg.lifeLatest = s.pkg.lifeLatest)
      ∧ (∃ t, exec .thermalTrip s = .next t ∧ t.pkg.halted = true ∧ t.pkg.lifeLatest = s.pkg.lifeLatest)
      ∧ (s.sheetTime ≤ s.pkg.lastSheet → exec .contactSheet s = .next s)
      ∧ (s.pkg.lastSheet < s.sheetTime → ∃ t, exec .contactSheet s = .next t ∧ t.pkg.lastSheet = s.sheetTime
          ∧ ∀ rid, (rid, s.region rid) ∈ s.allRegions → s.reg 0xA37 ≠ 0 → (s.region rid).rcb.dbg = true → (s.region rid).state = 2 →
              (s.region rid).ending = none → s.liveCohorts rid ≠ [] → (t.region rid).sheeting = true))
  ∧ (∀ (s : State) (rid : Nat),
      let u := s.returnRegionAllows rid
      let ready : Prop := s.sheetReady rid = true ∧ u.allowsOut rid = false ∧ u.rcbWaits rid = false
      let v := u.setRegion rid { u.region rid with drainAt := some ((u.region rid).drainAt.getD u.ns) }
      let at_ := if s.reg 0xA37 < s.pkg.sheetNext + 64 then 0 else s.pkg.sheetNext
      let place := s.reg 0xA31 % 2 ^ 52 / 4096 * 4096 + at_
      (s.sheetReady rid = false → exec (.contactSheetWrite rid) s = .next s)
      ∧ (s.sheetReady rid = true → u.allowsOut rid = true ∨ u.rcbWaits rid = true → exec (.contactSheetWrite rid) s = .next u)
      ∧ (ready → s.reg 0xA37 < 64 → ∃ t, exec (.contactSheetWrite rid) s = .next t
          ∧ t.reg 0xA38 = s.reg 0xA38 ∧ (t.region rid).sheets = (s.region rid).sheets ∧ (t.region rid).sheeting = false)
      ∧ (ready → 64 ≤ s.reg 0xA37 → s.reg 0xA32 = 0 → v.devFree place 64 = (true, v) →
          (∀ body w, v.sheetBody rid [(add56 (v.region rid).rcbVa 0x100, 48)] [] = (some body, w) → ∃ t, exec (.contactSheetWrite rid) s = .next t
            ∧ t.reg 0xA38 = at_ % 2 ^ 64 ∧ (t.region rid).sheets = (s.region rid).sheets + 1 ∧ (t.region rid).sheeting = false)
          ∧ (∀ w, v.sheetBody rid [(add56 (v.region rid).rcbVa 0x100, 48)] [] = (none, w) → exec (.contactSheetWrite rid) s = .next w)))

/-- The link (R437): a flit by a port that there is, with a CRC that is right, in sequence or itself an ACK or a NAK, is passed upward unless it was sent more than
250,000 ns ago, and then its ACK is not acted on either; one whose CRC is wrong or that stands out of order is answered with a NAK. Each kind of flit does its own work then: reads, writes and completions of
peers (R438), contributions (R440), ACK and NAK, which replays what is not acknowledged, and PTP messages (R445). CRC_FAILED_FLIT sends a NAK to the peer that the port has last heard, and PORT_RETRAIN, after
sixteen of them, counts the retrain and sends the unacknowledged flits again. MODEL: the layouts of payloads are log 25's. -/
def Obligations.FlitsPassTheLink : Prop :=
  (∀ (s : State) (f : Flit),
    (12 ≤ f.port → s.receive f = (false, s))
    ∧ (f.port < 12 → flitCrcOk f = false → s.receive f = (false, s.sendNak f.port f.src))
    ∧ (f.port < 12 → flitCrcOk f = true → f.kind ≠ 0x30 → f.kind ≠ 0x31 → f.seq ≠ (s.port f.port).rxSeq →
        s.receive f = (false, (s.setPort f.port { s.port f.port with heard := f.src }).sendNak f.port f.src))
    ∧ (f.port < 12 → flitCrcOk f = true → f.kind ≠ 0x30 → f.kind ≠ 0x31 → f.seq = (s.port f.port).rxSeq →
        ∃ t, s.receive f = (!s.tooOld f, t) ∧ (t.port f.port).rxSeq = ((s.port f.port).rxSeq + 1) % 4096 ∧ (t.port f.port).naks = []
          ∧ (s.tooOld f = true → (t.port f.port).replay = (s.port f.port).replay)
          ∧ (s.tooOld f = false → s.fabric.outbox = [] → (t.port f.port).replay = afterAck (s.port f.port).replay f.ack)
          ∧ (t.port f.port).heard = f.src ∧ t.mem = s.mem ∧ t.strands = s.strands)
    ∧ (f.port < 12 → flitCrcOk f = true → f.kind = 0x30 ∨ f.kind = 0x31 →
        let u := s.setPort f.port { s.port f.port with heard := f.src }
        s.receive f = (!s.tooOld f, if s.tooOld f then u else u.acked f.port f.ack)))
  ∧ (∀ p ∈ ([(.flitRead, 1, fun f s => s.peerRead f), (.flitWrite, 2, fun f s => s.peerWrite f), (.flitCompletion, 3, fun f s => s.peerDone f),
        (.flitContribution, 0x10, fun f s => s.peerContributes f), (.flitAck, 0x30, fun _ s => s), (.flitNak, 0x31, fun f s => s.replay f.port),
        (.flitPtp, 0x20, fun f s => s.ptpTake f)] : List ((Flit → Instr) × Nat × (Flit → State → State))), ∀ (s : State) (f : Flit),
      exec (p.1 f) s = .next (if (s.receive f).1 = true ∧ f.kind = p.2.1 then p.2.2 f (s.receive f).2 else (s.receive f).2))
  ∧ (∀ (s : State) (i : Nat), (12 ≤ i → exec (.crcFailedFlit i) s = .next s)
      ∧ (i < 12 → ∃ t, exec (.crcFailedFlit i) s = .next t ∧ t.mem = s.mem ∧ 1 ≤ (t.port i).naks.length ∧ (t.port i).rxSeq = (s.port i).rxSeq
          ∧ (t.fabric.sent.getLast?).map (fun f => (f.port, f.kind, f.ack, f.dest))
            = some (i, 0x31, ((s.port i).rxSeq + 4095) % 4096, (s.port i).heard))
      ∧ ((s.port i).naks.length < 16 → exec (.portRetrain i) s = .next s)
      ∧ (16 ≤ (s.port i).naks.length → ∃ t, exec (.portRetrain i) s = .next t ∧ (t.port i).naks = []
          ∧ t.fabric.sent = s.fabric.sent ++ (s.port i).replay ∧ t.mem = s.mem))

/-- What flits do (R438, R440 to R445). A peer's read of HBM that nothing holds back is answered with the bytes at the home and changes none of them, and its write changes exactly
its bytes and is answered; its atomic is performed in one step and answered with the old value; one outside HBM is answered as failed. A completion reaches
the thread, the engine command or the matrix fill that asked. Integer sums over the rank tree are the sum of all
contributions. A delivery of an earlier generation is discarded. MEMBER_FAILURE and REBUILD_SPACING_END rebuild no group before its spacing of 64 µs has passed; PTP messages are
sent by master ports. MODEL: the layouts of payloads are log 25's, those of PTP messages log 27's. -/
def Obligations.PeersAndGroups : Prop :=
  (∀ (s : State) (f : Flit), s.portBusy f.src = false →
    let pa := flitWord f 0
    let n := flitWord f 1
    let answer (failed : Nat) (bs : List Byte) : List Byte := leBytes 8 (flitWord f 2) ++ leBytes 8 failed ++ bs
    let sent (t : State) : Option (Nat × Nat × List Byte) := t.fabric.sent.getLast?.map (fun g => (g.kind, g.dest, g.payload))
    (flitInHbm f = false → (s.peerRead f).mem = s.mem ∧ sent (s.peerRead f) = some (3, f.src, answer 1 [])
      ∧ (n < 2 ^ 32 → (s.peerWrite f).mem = s.mem ∧ sent (s.peerWrite f) = some (3, f.src, answer 1 [])))
    ∧ (flitInHbm f = true → NoTagLost s → s.homes.poison = [] → s.homes.hbmBad = [] → (∀ l ∈ linesOf pa n, s.homeWaits l none false = false) →
        (s.peerRead f).mem = s.mem ∧ sent (s.peerRead f) = some (3, f.src, answer 0 (s.bytesAt pa n)))
    ∧ (flitInHbm f = true → NoTagLost s → s.reg 0xA34 = 0 → f.payload.length = 24 + n → (∀ i < n, s.isProtected (pa + i) = false) →
        (∀ l ∈ linesOf pa n, s.writeBlocked l none none false false = false) →
        sent (s.peerWrite f) = some (3, f.src, answer 0 []) ∧ (∀ i < n, (s.peerWrite f).byteAt (pa + i) = listAt 0 f.payload (24 + i))
        ∧ ∀ a, a < pa ∨ pa + n ≤ a → (s.peerWrite f).byteAt a = s.byteAt a)
    ∧ (∀ w fn ty, w = 4 ∨ w = 8 → fn < 8 → ty < 16 → n = atomWord w fn ty → pa % w = 0 → isHbm pa = true → s.isProtected pa = false →
        s.writeBlocked (pa / 128) none none true false = false → NoTagLost s → s.homes.poison = [] → s.homes.hbmBad = [] → s.reg 0xA34 = 0 →
        let old := s.numAt pa w
        let new := atomNew fn ty old (flitWord f 3 % 2 ^ (8 * w)) (flitWord f 4 % 2 ^ (8 * w))
        sent (s.peerWrite f) = some (3, f.src, answer 0 (leBytes w old)) ∧ (∀ i < w, (s.peerWrite f).byteAt (pa + i) = listAt 0 (leBytes w new) i)
        ∧ ∀ a, a < pa ∨ pa + w ≤ a → (s.peerWrite f).byteAt a = s.byteAt a))
  ∧ (∀ (op : Nat) (l : List Nat), op = 2 ∨ op = 3 → l ≠ [] → l.length ≤ 64 →
      let m := if op = 2 then 2 ^ 32 else 2 ^ 64
      (∀ x ∈ l, x < m) → rankTree op 7 l = l.sum % m)
  ∧ (∀ (s : State) (f : Flit), s.currentGen f = false → s.deliver f = s ∧ s.peerContributes f = s)
  ∧ (∀ (s : State) (f : Flit), (12 ≤ f.port ∧ s.combined f = true → exec (.flitDelivery f) s = .next (s.deliver f))
      ∧ (f.port < 12 ∨ s.combined f = false → exec (.flitDelivery f) s
          = .next (if (s.receive f).1 = true ∧ f.kind = 0x11 then (s.receive f).2.deliver f else (s.receive f).2)))
  ∧ (∀ (s : State) (f : Flit),
      (s.fabric.peers.find? (fun q => q.ident == flitWord f 0) = none → s.peerDone f = s)
      ∧ (∀ q, s.fabric.peers.find? (fun q => q.ident == flitWord f 0) = some q →
          let u : State := { s with fabric := { s.fabric with peers := s.fabric.peers.filter (fun p => p.ident != q.ident) } }
          let failed := flitWord f 1 != 0
          let bs := (f.payload.drop 16).take q.size
          (q.slot < 8 ∨ 256 ≤ q.slot → s.peerDone f = u.peerAnswer q failed (ofLe (bs.take 8)))
          ∧ (8 ≤ q.slot → q.slot < 200 → s.peerDone f = u.peerServes (q.slot - 8) q.sid failed bs)
          ∧ (200 ≤ q.slot → q.slot < 256 →
              s.peerDone f = (u.peerTold q.sid failed bs).push (.dispatchRecord (q.sid / 2) (q.sid % 2)))))
  ∧ (∀ (s : State) (peer : Nat), (s.groups = [] → exec (.memberFailure peer) s = .next s)
      ∧ (∀ g r, s.groups = [g] → bit (s.grp g) 0 = true →
          (grpRanks (s.grp g)).filter (fun q => q != grpRank (s.grp g) && grpMember (s.grp g) q == peer % 65536) = [r] →
          exec (.memberFailure peer) s = .next (s.rebuildOrWait g r)))
  ∧ (∀ (s : State) (g rank : Nat),
      let x := s.grp g
      kvGet 0 s.fabric.rebuildAt g ≤ s.ns → bit x 0 = true → rank ∈ grpRanks x → s.deliverable [s.grpAt g / 128] x = true →
      s.grpAt g + 256 ≤ 2 ^ 39 → s.grpAt g % 256 = 0 → isHbm (grpCsig x / 8 * 8) = false → NoTagLost s → s.reg 0xA34 = 0 →
      grpGen ((s.rebuildOrWait g rank).grp g) = (grpGen x + 1) % 65536 ∧ grpFailed ((s.rebuildOrWait g rank).grp g) rank = true
        ∧ 4 ∈ (s.rebuildOrWait g rank).pkg.vectors ∧ kvGet 0 (s.rebuildOrWait g rank).fabric.rebuildAt g = s.ns + 64000)
  ∧ (∀ (s : State) (g rank : Nat), s.ns < kvGet 0 s.fabric.rebuildAt g → (s.rebuildOrWait g rank).mem = s.mem
      ∧ (g, rank) ∈ (s.rebuildOrWait g rank).fabric.rebuilds ∧ exec (.rebuildSpacingEnd g) s = .next s)
  ∧ (∀ (s : State) (g : Nat) (q : Nat × Nat), s.fabric.rebuilds.find? (fun r => r.1 == g) = some q → kvGet 0 s.fabric.rebuildAt g ≤ s.ns →
      exec (.rebuildSpacingEnd g) s
        = .next (({ s with fabric := { s.fabric with rebuilds := s.fabric.rebuilds.filter (fun r => r != q) } } : State).rebuildOrWait g q.2))
  ∧ (∀ (s : State) (i : Nat), (12 ≤ i → ∀ k, exec (.ptpMessageTimer i k) s = .next s)
      ∧ (i < 12 → (s.port i).ptp ≠ 1 → exec (.ptpMessageTimer i 0) s = .next s ∧ exec (.ptpMessageTimer i 2) s = .next s)
      ∧ (i < 12 → (s.port i).ptp = 1 → exec (.ptpMessageTimer i 0) s = .next (s.ptpSend i 0 (ptpTime s.ns)))
      ∧ (i < 12 → ∃ t, exec (.ptpMessageTimer i 1) s = .next t ∧ (t.port i).ptpAsked = some s.ns ∧ t.mem = s.mem))
end

