-- ==== Sys2Proof/Laws/Bits.lean ====
section
/-! SUPPORT. The laws of the sparse map (a read after a write, and that a write keeps the canonical form) and of plain
loops. -/

namespace Sys2Proof.Laws

open Sys2Proof.Machine

variable {β : Type}

/-! ## The sparse map -/

theorem kvGet_above [DecidableEq β] (dflt : β) (m : KV β) (k j : Nat) (h : kvAbove k m = true) (hj : j ≤ k) :
    kvGet dflt m j = dflt := by
  induction m with
  | nil => rfl
  | cons p t ih =>
    obtain ⟨a, v⟩ := p
    simp only [kvAbove, Bool.and_eq_true, decide_eq_true_eq] at h
    simp only [kvGet]
    rw [if_neg (by omega)]
    exact ih h.2

theorem kvAbove_le (k j : Nat) (m : KV β) (h : kvAbove k m = true) (hj : j ≤ k) : kvAbove j m = true := by
  induction m with
  | nil => rfl
  | cons p t ih =>
    obtain ⟨a, v⟩ := p
    simp only [kvAbove, Bool.and_eq_true, decide_eq_true_eq] at h ⊢
    exact ⟨by omega, ih h.2⟩

theorem kvAbove_kvDel (m : KV β) (j k : Nat) (h : kvAbove j m = true) : kvAbove j (kvDel m k) = true := by
  induction m with
  | nil => rfl
  | cons p t ih =>
    obtain ⟨a, w⟩ := p
    simp only [kvAbove, Bool.and_eq_true, decide_eq_true_eq] at h
    by_cases ha : a = k <;> simp_all [kvDel, kvAbove]

theorem kvWf_kvDel [DecidableEq β] (dflt : β) (m : KV β) (k : Nat) (h : kvWf dflt m = true) :
    kvWf dflt (kvDel m k) = true := by
  induction m with
  | nil => rfl
  | cons p t ih =>
    obtain ⟨a, w⟩ := p
    simp only [kvWf, Bool.and_eq_true, decide_eq_true_eq] at h
    by_cases ha : a = k
    · simpa [kvDel, ha] using ih h.2
    · have e : kvDel ((a, w) :: t) k = (a, w) :: kvDel t k := by simp [kvDel, ha]
      rw [e]
      simp only [kvWf, Bool.and_eq_true, decide_eq_true_eq]
      exact ⟨⟨h.1.1, kvAbove_kvDel t a k h.1.2⟩, ih h.2⟩

theorem kvGet_kvDel_self (dflt : β) (m : KV β) (k : Nat) : kvGet dflt (kvDel m k) k = dflt := by
  induction m with
  | nil => rfl
  | cons p t ih =>
    obtain ⟨a, w⟩ := p
    by_cases ha : a = k
    · simpa [kvDel, ha] using ih
    · have e : kvDel ((a, w) :: t) k = (a, w) :: kvDel t k := by simp [kvDel, ha]
      rw [e]
      simp [kvGet, ha, ih]

theorem kvGet_kvDel_ne (dflt : β) (m : KV β) (k j : Nat) (hj : j ≠ k) : kvGet dflt (kvDel m k) j = kvGet dflt m j := by
  induction m with
  | nil => rfl
  | cons p t ih =>
    obtain ⟨a, w⟩ := p
    by_cases ha : a = k
    · have e : kvDel ((a, w) :: t) k = kvDel t k := by simp [kvDel, ha]
      rw [e, ih]
      simp [kvGet, ha, Ne.symm hj]
    · have e : kvDel ((a, w) :: t) k = (a, w) :: kvDel t k := by simp [kvDel, ha]
      rw [e]
      simp only [kvGet, ih]

theorem kvAbove_kvSet [DecidableEq β] (dflt : β) (m : KV β) (j k : Nat) (v : β) (h : kvAbove j m = true) (hk : j < k) :
    kvAbove j (kvSet dflt m k v) = true := by
  induction m with
  | nil =>
    simp only [kvSet]
    split <;> simp [kvAbove, hk]
  | cons p t ih =>
    obtain ⟨a, w⟩ := p
    simp only [kvAbove, Bool.and_eq_true, decide_eq_true_eq] at h
    have hd := kvAbove_kvDel t j k h.2
    simp only [kvSet]
    split_ifs <;> simp_all [kvAbove]

/-- A write keeps the canonical form. -/
theorem kvWf_kvSet [DecidableEq β] (dflt : β) (m : KV β) (k : Nat) (v : β) (h : kvWf dflt m = true) :
    kvWf dflt (kvSet dflt m k v) = true := by
  induction m with
  | nil =>
    simp only [kvSet]
    split <;> simp_all [kvWf, kvAbove]
  | cons p t ih =>
    obtain ⟨a, w⟩ := p
    simp only [kvWf, Bool.and_eq_true, decide_eq_true_eq] at h
    obtain ⟨⟨hw, ha⟩, ht⟩ := h
    simp only [kvSet]
    split_ifs with h1 h2 h3 h3
    · simp only [kvWf, Bool.and_eq_true, decide_eq_true_eq]
      exact ⟨⟨hw, kvAbove_kvSet dflt t a k v ha h1⟩, ih ht⟩
    · exact kvWf_kvDel dflt t k ht
    · subst h2
      simp only [kvWf, Bool.and_eq_true, decide_eq_true_eq]
      exact ⟨⟨h3, ha⟩, ht⟩
    · simp only [kvWf, Bool.and_eq_true, decide_eq_true_eq]
      exact ⟨⟨hw, kvAbove_kvDel t a k ha⟩, kvWf_kvDel dflt t k ht⟩
    · simp only [kvWf, kvAbove, Bool.and_eq_true, decide_eq_true_eq]
      exact ⟨⟨h3, by omega, kvAbove_le a k t ha (by omega)⟩, ⟨hw, ha⟩, ht⟩

/-- A read of the key just written gives the value written. -/
@[simp] theorem kvGet_kvSet_self [DecidableEq β] (dflt : β) (m : KV β) (k : Nat) (v : β) :
    kvGet dflt (kvSet dflt m k v) k = v := by
  induction m with
  | nil =>
    simp only [kvSet]
    split <;> simp_all [kvGet]
  | cons p t ih =>
    obtain ⟨a, w⟩ := p
    simp only [kvSet]
    split_ifs with h1 h2 h3 h3
    · simp only [kvGet]
      rw [if_neg (by omega)]
      exact ih
    · rw [h3]
      exact kvGet_kvDel_self dflt t k
    · simp [kvGet]
    · rw [h3]
      simp only [kvGet]
      rw [if_neg h2]
      exact kvGet_kvDel_self dflt t k
    · simp [kvGet]

/-- A write leaves every other key alone. -/
theorem kvGet_kvSet_ne [DecidableEq β] (dflt : β) (m : KV β) (k j : Nat) (v : β) (hj : j ≠ k) :
    kvGet dflt (kvSet dflt m k v) j = kvGet dflt m j := by
  induction m with
  | nil =>
    simp only [kvSet]
    split <;> simp [kvGet, Ne.symm hj]
  | cons p t ih =>
    obtain ⟨a, w⟩ := p
    have hd := kvGet_kvDel_ne dflt t k j hj
    simp only [kvSet]
    split_ifs with h1 h2 h3 h3
    · simp only [kvGet, ih]
    · subst h2
      simp [kvGet, Ne.symm hj, hd]
    · subst h2
      simp [kvGet, Ne.symm hj]
    · simp [kvGet, hd]
    · simp [kvGet, Ne.symm hj]

/-- A read after a write of one key. -/
theorem kvGet_kvSet [DecidableEq β] (dflt : β) (m : KV β) (k j : Nat) (v : β) :
    kvGet dflt (kvSet dflt m k v) j = if j = k then v else kvGet dflt m j := by
  by_cases h : j = k
  · subst h
    simp
  · rw [if_neg h, kvGet_kvSet_ne _ _ _ _ _ h]

theorem kvFind_kvPut_self (m : KV β) (k : Nat) (v : β) : kvFind (kvPut m k v) k = some v := by
  induction m with
  | nil => simp [kvPut, kvFind]
  | cons p t ih =>
    obtain ⟨a, w⟩ := p
    simp only [kvPut]
    split_ifs with h1 h2
    · simp only [kvFind]
      rw [if_neg (by omega)]
      exact ih
    · simp [kvFind]
    · simp [kvFind]

theorem kvFind_kvPut_ne (m : KV β) (k j : Nat) (v : β) (hj : j ≠ k) : kvFind (kvPut m k v) j = kvFind m j := by
  induction m with
  | nil => simp [kvPut, kvFind, Ne.symm hj]
  | cons p t ih =>
    obtain ⟨a, w⟩ := p
    simp only [kvPut]
    split_ifs with h1 h2
    · simp only [kvFind, ih]
    · subst h2
      simp [kvFind, Ne.symm hj]
    · simp [kvFind, Ne.symm hj]

/-! ## Bits -/

theorem bit_testBit (x i : Nat) : bit x i = x.testBit i := by
  unfold bit
  rw [Nat.testBit_eq_decide_div_mod_eq, Nat.shiftRight_eq_div_pow]
  rfl

/-- A bit after one bit was set. -/
theorem bit_setBits_one (x i j : Nat) (b : Bool) : bit (setBits x i i (b2n b)) j = if j = i then b else bit x j := by
  simp only [bit_testBit, setBits, Nat.testBit_or, Nat.testBit_shiftLeft, Nat.testBit_shiftRight, Nat.testBit_mod_two_pow]
  have e : i + 1 - i = 1 := by omega
  rw [e]
  rcases Nat.lt_trichotomy j i with h | h | h
  · have h1 : ¬ j ≥ i + 1 := by omega
    have h2 : ¬ j ≥ i := by omega
    have h3 : j ≠ i := by omega
    simp [h1, h2, h3, h]
  · subst h
    have h1 : ¬ j ≥ j + 1 := by omega
    cases b <;> simp [h1, b2n]
  · have h1 : j ≥ i + 1 := by omega
    have h2 : ¬ j < i := by omega
    have h3 : j ≠ i := by omega
    have h4 : (j - i) ≠ 0 := by omega
    have h5 : ¬ (j - i < 1) := by omega
    have h6 : i + 1 + (j - (i + 1)) = j := by omega
    simp [h1, h2, h3, h4, h6]

theorem bit_mod (x n i : Nat) (h : i < n) : bit (x % 2 ^ n) i = bit x i := by
  simp [bit_testBit, Nat.testBit_mod_two_pow, h]

/-! ## Loops -/

@[simp] theorem forEach_nil {α σ : Type} (s : σ) (f : σ → α → σ) : forEach [] s f = s := rfl

@[simp] theorem forEach_cons {α σ : Type} (a : α) (t : List α) (s : σ) (f : σ → α → σ) :
    forEach (a :: t) s f = forEach t (f s a) f := rfl

/-- What every round keeps, a loop keeps. -/
theorem forEach_keeps {α σ : Type} (P : σ → Prop) (l : List α) (s : σ) (f : σ → α → σ) (h0 : P s)
    (h : ∀ x a, P x → P (f x a)) : P (forEach l s f) := by
  induction l generalizing s with
  | nil => exact h0
  | cons a t ih => exact ih (f s a) (h s a h0)

/-- A projection that no round changes, a loop does not change. -/
theorem forEach_same {α σ τ : Type} (g : σ → τ) (l : List α) (s : σ) (f : σ → α → σ) (h : ∀ x a, g (f x a) = g x) :
    g (forEach l s f) = g s := by
  induction l generalizing s with
  | nil => rfl
  | cons a t ih => exact (ih (f s a)).trans (h s a)

theorem natsFrom_length (a n : Nat) : (natsFrom a n).length = n := by
  induction n generalizing a with
  | zero => rfl
  | succ n ih => simp [natsFrom, ih]

theorem mem_natsFrom (a n x : Nat) : x ∈ natsFrom a n ↔ a ≤ x ∧ x < a + n := by
  induction n generalizing a with
  | zero => simp [natsFrom]
  | succ n ih =>
    simp only [natsFrom, List.mem_cons, ih]
    omega

/-- The naturals below n, and nothing else. -/
theorem mem_nats (n x : Nat) : x ∈ nats n ↔ x < n := by
  simp [nats, mem_natsFrom]

/-- The threads of a mask are those whose bit is set. -/
theorem mem_threadsOf (m t : Nat) : t ∈ threadsOf m ↔ t < 64 ∧ bit m t = true := by
  simp [threadsOf, mem_nats]

theorem leBytes_length (n x : Nat) : (leBytes n x).length = n := by
  induction n generalizing x with
  | zero => rfl
  | succ n ih => simp [leBytes, ih]

/-- Little-endian bytes read back as the number they came from, modulo their width. -/
theorem ofLe_leBytes (n x : Nat) : ofLe (leBytes n x) = x % 256 ^ n := by
  induction n generalizing x with
  | zero => simp [leBytes, ofLe, Nat.mod_one]
  | succ n ih =>
    simp only [leBytes, ofLe, ih, BitVec.toNat_ofNat]
    have h : (256 : Nat) ^ (n + 1) = 256 * 256 ^ n := by rw [Nat.pow_succ, Nat.mul_comm]
    rw [h, Nat.mod_mul]

end Sys2Proof.Laws
end

