-- ==== Sys2Proof/Laws/State.lean ====
section
/-! SUPPORT. What each named update of the state and of a strand leaves as it was, one lemma for each field, and what it
writes: the reads of sparse maps after their writes. -/

namespace Sys2Proof.Laws

open Sys2Proof.Machine

/-! ## Updates of the state -/

@[simp] theorem setStrand_mem (s : State) (n : Nat) (x : Strand) : (s.setStrand n x).mem = s.mem := rfl
@[simp] theorem setStrand_cohorts (s : State) (n : Nat) (x : Strand) : (s.setStrand n x).cohorts = s.cohorts := rfl
@[simp] theorem setStrand_cores (s : State) (n : Nat) (x : Strand) : (s.setStrand n x).cores = s.cores := rfl
@[simp] theorem setStrand_regions (s : State) (n : Nat) (x : Strand) : (s.setStrand n x).regions = s.regions := rfl
@[simp] theorem setStrand_homes (s : State) (n : Nat) (x : Strand) : (s.setStrand n x).homes = s.homes := rfl
@[simp] theorem setStrand_xlate (s : State) (n : Nat) (x : Strand) : (s.setStrand n x).xlate = s.xlate := rfl
@[simp] theorem setStrand_experts (s : State) (n : Nat) (x : Strand) : (s.setStrand n x).experts = s.experts := rfl
@[simp] theorem setStrand_fabric (s : State) (n : Nat) (x : Strand) : (s.setStrand n x).fabric = s.fabric := rfl
@[simp] theorem setStrand_pkg (s : State) (n : Nat) (x : Strand) : (s.setStrand n x).pkg = s.pkg := rfl
@[simp] theorem setStrand_time (s : State) (n : Nat) (x : Strand) : (s.setStrand n x).time = s.time := rfl
@[simp] theorem setStrand_cycle (s : State) (n : Nat) (x : Strand) : (s.setStrand n x).cycle = s.cycle := rfl
@[simp] theorem setStrand_seq (s : State) (n : Nat) (x : Strand) : (s.setStrand n x).seq = s.seq := rfl
@[simp] theorem setStrand_ids (s : State) (n : Nat) (x : Strand) : (s.setStrand n x).ids = s.ids := rfl
@[simp] theorem setStrand_cur (s : State) (n : Nat) (x : Strand) : (s.setStrand n x).cur = s.cur := rfl
@[simp] theorem setStrand_free (s : State) (n : Nat) (x : Strand) : (s.setStrand n x).free = s.free := rfl
@[simp] theorem setStrand_agenda (s : State) (n : Nat) (x : Strand) : (s.setStrand n x).agenda = s.agenda := rfl
@[simp] theorem setStrand_retried (s : State) (n : Nat) (x : Strand) : (s.setStrand n x).retried = s.retried := rfl
@[simp] theorem setStrand_served (s : State) (n : Nat) (x : Strand) : (s.setStrand n x).served = s.served := rfl
@[simp] theorem setStrand_turned (s : State) (n : Nat) (x : Strand) : (s.setStrand n x).turned = s.turned := rfl
@[simp] theorem setStrand_pending (s : State) (n : Nat) (x : Strand) : (s.setStrand n x).pending = s.pending := rfl
@[simp] theorem setStrand_parked (s : State) (n : Nat) (x : Strand) : (s.setStrand n x).parked = s.parked := rfl

@[simp] theorem modStrand_mem (s : State) (n : Nat) (f : Strand → Strand) : (s.modStrand n f).mem = s.mem := rfl
@[simp] theorem modStrand_cohorts (s : State) (n : Nat) (f : Strand → Strand) : (s.modStrand n f).cohorts = s.cohorts := rfl
@[simp] theorem modStrand_cores (s : State) (n : Nat) (f : Strand → Strand) : (s.modStrand n f).cores = s.cores := rfl
@[simp] theorem modStrand_regions (s : State) (n : Nat) (f : Strand → Strand) : (s.modStrand n f).regions = s.regions := rfl
@[simp] theorem modStrand_homes (s : State) (n : Nat) (f : Strand → Strand) : (s.modStrand n f).homes = s.homes := rfl
@[simp] theorem modStrand_xlate (s : State) (n : Nat) (f : Strand → Strand) : (s.modStrand n f).xlate = s.xlate := rfl
@[simp] theorem modStrand_experts (s : State) (n : Nat) (f : Strand → Strand) : (s.modStrand n f).experts = s.experts := rfl
@[simp] theorem modStrand_fabric (s : State) (n : Nat) (f : Strand → Strand) : (s.modStrand n f).fabric = s.fabric := rfl
@[simp] theorem modStrand_pkg (s : State) (n : Nat) (f : Strand → Strand) : (s.modStrand n f).pkg = s.pkg := rfl
@[simp] theorem modStrand_time (s : State) (n : Nat) (f : Strand → Strand) : (s.modStrand n f).time = s.time := rfl
@[simp] theorem modStrand_cycle (s : State) (n : Nat) (f : Strand → Strand) : (s.modStrand n f).cycle = s.cycle := rfl
@[simp] theorem modStrand_seq (s : State) (n : Nat) (f : Strand → Strand) : (s.modStrand n f).seq = s.seq := rfl
@[simp] theorem modStrand_ids (s : State) (n : Nat) (f : Strand → Strand) : (s.modStrand n f).ids = s.ids := rfl
@[simp] theorem modStrand_cur (s : State) (n : Nat) (f : Strand → Strand) : (s.modStrand n f).cur = s.cur := rfl
@[simp] theorem modStrand_free (s : State) (n : Nat) (f : Strand → Strand) : (s.modStrand n f).free = s.free := rfl
@[simp] theorem modStrand_agenda (s : State) (n : Nat) (f : Strand → Strand) : (s.modStrand n f).agenda = s.agenda := rfl
@[simp] theorem modStrand_retried (s : State) (n : Nat) (f : Strand → Strand) : (s.modStrand n f).retried = s.retried := rfl
@[simp] theorem modStrand_served (s : State) (n : Nat) (f : Strand → Strand) : (s.modStrand n f).served = s.served := rfl
@[simp] theorem modStrand_turned (s : State) (n : Nat) (f : Strand → Strand) : (s.modStrand n f).turned = s.turned := rfl
@[simp] theorem modStrand_pending (s : State) (n : Nat) (f : Strand → Strand) : (s.modStrand n f).pending = s.pending := rfl
@[simp] theorem modStrand_parked (s : State) (n : Nat) (f : Strand → Strand) : (s.modStrand n f).parked = s.parked := rfl

@[simp] theorem setCohort_mem (s : State) (n : Nat) (x : Cohort) : (s.setCohort n x).mem = s.mem := rfl
@[simp] theorem setCohort_strands (s : State) (n : Nat) (x : Cohort) : (s.setCohort n x).strands = s.strands := rfl
@[simp] theorem setCohort_cores (s : State) (n : Nat) (x : Cohort) : (s.setCohort n x).cores = s.cores := rfl
@[simp] theorem setCohort_regions (s : State) (n : Nat) (x : Cohort) : (s.setCohort n x).regions = s.regions := rfl
@[simp] theorem setCohort_homes (s : State) (n : Nat) (x : Cohort) : (s.setCohort n x).homes = s.homes := rfl
@[simp] theorem setCohort_xlate (s : State) (n : Nat) (x : Cohort) : (s.setCohort n x).xlate = s.xlate := rfl
@[simp] theorem setCohort_experts (s : State) (n : Nat) (x : Cohort) : (s.setCohort n x).experts = s.experts := rfl
@[simp] theorem setCohort_fabric (s : State) (n : Nat) (x : Cohort) : (s.setCohort n x).fabric = s.fabric := rfl
@[simp] theorem setCohort_pkg (s : State) (n : Nat) (x : Cohort) : (s.setCohort n x).pkg = s.pkg := rfl
@[simp] theorem setCohort_time (s : State) (n : Nat) (x : Cohort) : (s.setCohort n x).time = s.time := rfl
@[simp] theorem setCohort_cycle (s : State) (n : Nat) (x : Cohort) : (s.setCohort n x).cycle = s.cycle := rfl
@[simp] theorem setCohort_seq (s : State) (n : Nat) (x : Cohort) : (s.setCohort n x).seq = s.seq := rfl
@[simp] theorem setCohort_ids (s : State) (n : Nat) (x : Cohort) : (s.setCohort n x).ids = s.ids := rfl
@[simp] theorem setCohort_cur (s : State) (n : Nat) (x : Cohort) : (s.setCohort n x).cur = s.cur := rfl
@[simp] theorem setCohort_free (s : State) (n : Nat) (x : Cohort) : (s.setCohort n x).free = s.free := rfl
@[simp] theorem setCohort_agenda (s : State) (n : Nat) (x : Cohort) : (s.setCohort n x).agenda = s.agenda := rfl
@[simp] theorem setCohort_retried (s : State) (n : Nat) (x : Cohort) : (s.setCohort n x).retried = s.retried := rfl
@[simp] theorem setCohort_served (s : State) (n : Nat) (x : Cohort) : (s.setCohort n x).served = s.served := rfl
@[simp] theorem setCohort_turned (s : State) (n : Nat) (x : Cohort) : (s.setCohort n x).turned = s.turned := rfl
@[simp] theorem setCohort_pending (s : State) (n : Nat) (x : Cohort) : (s.setCohort n x).pending = s.pending := rfl
@[simp] theorem setCohort_parked (s : State) (n : Nat) (x : Cohort) : (s.setCohort n x).parked = s.parked := rfl

@[simp] theorem setRegion_mem (s : State) (n : Nat) (x : Region) : (s.setRegion n x).mem = s.mem := rfl
@[simp] theorem setRegion_strands (s : State) (n : Nat) (x : Region) : (s.setRegion n x).strands = s.strands := rfl
@[simp] theorem setRegion_cohorts (s : State) (n : Nat) (x : Region) : (s.setRegion n x).cohorts = s.cohorts := rfl
@[simp] theorem setRegion_cores (s : State) (n : Nat) (x : Region) : (s.setRegion n x).cores = s.cores := rfl
@[simp] theorem setRegion_homes (s : State) (n : Nat) (x : Region) : (s.setRegion n x).homes = s.homes := rfl
@[simp] theorem setRegion_xlate (s : State) (n : Nat) (x : Region) : (s.setRegion n x).xlate = s.xlate := rfl
@[simp] theorem setRegion_experts (s : State) (n : Nat) (x : Region) : (s.setRegion n x).experts = s.experts := rfl
@[simp] theorem setRegion_fabric (s : State) (n : Nat) (x : Region) : (s.setRegion n x).fabric = s.fabric := rfl
@[simp] theorem setRegion_pkg (s : State) (n : Nat) (x : Region) : (s.setRegion n x).pkg = s.pkg := rfl
@[simp] theorem setRegion_time (s : State) (n : Nat) (x : Region) : (s.setRegion n x).time = s.time := rfl
@[simp] theorem setRegion_cycle (s : State) (n : Nat) (x : Region) : (s.setRegion n x).cycle = s.cycle := rfl
@[simp] theorem setRegion_seq (s : State) (n : Nat) (x : Region) : (s.setRegion n x).seq = s.seq := rfl
@[simp] theorem setRegion_ids (s : State) (n : Nat) (x : Region) : (s.setRegion n x).ids = s.ids := rfl
@[simp] theorem setRegion_cur (s : State) (n : Nat) (x : Region) : (s.setRegion n x).cur = s.cur := rfl
@[simp] theorem setRegion_free (s : State) (n : Nat) (x : Region) : (s.setRegion n x).free = s.free := rfl
@[simp] theorem setRegion_agenda (s : State) (n : Nat) (x : Region) : (s.setRegion n x).agenda = s.agenda := rfl
@[simp] theorem setRegion_retried (s : State) (n : Nat) (x : Region) : (s.setRegion n x).retried = s.retried := rfl
@[simp] theorem setRegion_served (s : State) (n : Nat) (x : Region) : (s.setRegion n x).served = s.served := rfl
@[simp] theorem setRegion_turned (s : State) (n : Nat) (x : Region) : (s.setRegion n x).turned = s.turned := rfl
@[simp] theorem setRegion_pending (s : State) (n : Nat) (x : Region) : (s.setRegion n x).pending = s.pending := rfl
@[simp] theorem setRegion_parked (s : State) (n : Nat) (x : Region) : (s.setRegion n x).parked = s.parked := rfl

@[simp] theorem setCore_mem (s : State) (n : Nat) (x : Core) : (s.setCore n x).mem = s.mem := rfl
@[simp] theorem setCore_strands (s : State) (n : Nat) (x : Core) : (s.setCore n x).strands = s.strands := rfl
@[simp] theorem setCore_cohorts (s : State) (n : Nat) (x : Core) : (s.setCore n x).cohorts = s.cohorts := rfl
@[simp] theorem setCore_regions (s : State) (n : Nat) (x : Core) : (s.setCore n x).regions = s.regions := rfl
@[simp] theorem setCore_homes (s : State) (n : Nat) (x : Core) : (s.setCore n x).homes = s.homes := rfl
@[simp] theorem setCore_xlate (s : State) (n : Nat) (x : Core) : (s.setCore n x).xlate = s.xlate := rfl
@[simp] theorem setCore_experts (s : State) (n : Nat) (x : Core) : (s.setCore n x).experts = s.experts := rfl
@[simp] theorem setCore_fabric (s : State) (n : Nat) (x : Core) : (s.setCore n x).fabric = s.fabric := rfl
@[simp] theorem setCore_pkg (s : State) (n : Nat) (x : Core) : (s.setCore n x).pkg = s.pkg := rfl
@[simp] theorem setCore_time (s : State) (n : Nat) (x : Core) : (s.setCore n x).time = s.time := rfl
@[simp] theorem setCore_cycle (s : State) (n : Nat) (x : Core) : (s.setCore n x).cycle = s.cycle := rfl
@[simp] theorem setCore_seq (s : State) (n : Nat) (x : Core) : (s.setCore n x).seq = s.seq := rfl
@[simp] theorem setCore_ids (s : State) (n : Nat) (x : Core) : (s.setCore n x).ids = s.ids := rfl
@[simp] theorem setCore_cur (s : State) (n : Nat) (x : Core) : (s.setCore n x).cur = s.cur := rfl
@[simp] theorem setCore_free (s : State) (n : Nat) (x : Core) : (s.setCore n x).free = s.free := rfl
@[simp] theorem setCore_agenda (s : State) (n : Nat) (x : Core) : (s.setCore n x).agenda = s.agenda := rfl
@[simp] theorem setCore_retried (s : State) (n : Nat) (x : Core) : (s.setCore n x).retried = s.retried := rfl
@[simp] theorem setCore_served (s : State) (n : Nat) (x : Core) : (s.setCore n x).served = s.served := rfl
@[simp] theorem setCore_turned (s : State) (n : Nat) (x : Core) : (s.setCore n x).turned = s.turned := rfl
@[simp] theorem setCore_pending (s : State) (n : Nat) (x : Core) : (s.setCore n x).pending = s.pending := rfl
@[simp] theorem setCore_parked (s : State) (n : Nat) (x : Core) : (s.setCore n x).parked = s.parked := rfl

@[simp] theorem modCore_mem (s : State) (n : Nat) (f : Core → Core) : (s.modCore n f).mem = s.mem := rfl
@[simp] theorem modCore_strands (s : State) (n : Nat) (f : Core → Core) : (s.modCore n f).strands = s.strands := rfl
@[simp] theorem modCore_cohorts (s : State) (n : Nat) (f : Core → Core) : (s.modCore n f).cohorts = s.cohorts := rfl
@[simp] theorem modCore_regions (s : State) (n : Nat) (f : Core → Core) : (s.modCore n f).regions = s.regions := rfl
@[simp] theorem modCore_homes (s : State) (n : Nat) (f : Core → Core) : (s.modCore n f).homes = s.homes := rfl
@[simp] theorem modCore_xlate (s : State) (n : Nat) (f : Core → Core) : (s.modCore n f).xlate = s.xlate := rfl
@[simp] theorem modCore_experts (s : State) (n : Nat) (f : Core → Core) : (s.modCore n f).experts = s.experts := rfl
@[simp] theorem modCore_fabric (s : State) (n : Nat) (f : Core → Core) : (s.modCore n f).fabric = s.fabric := rfl
@[simp] theorem modCore_pkg (s : State) (n : Nat) (f : Core → Core) : (s.modCore n f).pkg = s.pkg := rfl
@[simp] theorem modCore_time (s : State) (n : Nat) (f : Core → Core) : (s.modCore n f).time = s.time := rfl
@[simp] theorem modCore_cycle (s : State) (n : Nat) (f : Core → Core) : (s.modCore n f).cycle = s.cycle := rfl
@[simp] theorem modCore_seq (s : State) (n : Nat) (f : Core → Core) : (s.modCore n f).seq = s.seq := rfl
@[simp] theorem modCore_ids (s : State) (n : Nat) (f : Core → Core) : (s.modCore n f).ids = s.ids := rfl
@[simp] theorem modCore_cur (s : State) (n : Nat) (f : Core → Core) : (s.modCore n f).cur = s.cur := rfl
@[simp] theorem modCore_free (s : State) (n : Nat) (f : Core → Core) : (s.modCore n f).free = s.free := rfl
@[simp] theorem modCore_agenda (s : State) (n : Nat) (f : Core → Core) : (s.modCore n f).agenda = s.agenda := rfl
@[simp] theorem modCore_retried (s : State) (n : Nat) (f : Core → Core) : (s.modCore n f).retried = s.retried := rfl
@[simp] theorem modCore_served (s : State) (n : Nat) (f : Core → Core) : (s.modCore n f).served = s.served := rfl
@[simp] theorem modCore_turned (s : State) (n : Nat) (f : Core → Core) : (s.modCore n f).turned = s.turned := rfl
@[simp] theorem modCore_pending (s : State) (n : Nat) (f : Core → Core) : (s.modCore n f).pending = s.pending := rfl
@[simp] theorem modCore_parked (s : State) (n : Nat) (f : Core → Core) : (s.modCore n f).parked = s.parked := rfl

@[simp] theorem vector_mem (s : State) (n : Nat) : (s.vector n).mem = s.mem := rfl
@[simp] theorem vector_strands (s : State) (n : Nat) : (s.vector n).strands = s.strands := rfl
@[simp] theorem vector_cohorts (s : State) (n : Nat) : (s.vector n).cohorts = s.cohorts := rfl
@[simp] theorem vector_cores (s : State) (n : Nat) : (s.vector n).cores = s.cores := rfl
@[simp] theorem vector_regions (s : State) (n : Nat) : (s.vector n).regions = s.regions := rfl
@[simp] theorem vector_homes (s : State) (n : Nat) : (s.vector n).homes = s.homes := rfl
@[simp] theorem vector_xlate (s : State) (n : Nat) : (s.vector n).xlate = s.xlate := rfl
@[simp] theorem vector_experts (s : State) (n : Nat) : (s.vector n).experts = s.experts := rfl
@[simp] theorem vector_fabric (s : State) (n : Nat) : (s.vector n).fabric = s.fabric := rfl
@[simp] theorem vector_time (s : State) (n : Nat) : (s.vector n).time = s.time := rfl
@[simp] theorem vector_cycle (s : State) (n : Nat) : (s.vector n).cycle = s.cycle := rfl
@[simp] theorem vector_seq (s : State) (n : Nat) : (s.vector n).seq = s.seq := rfl
@[simp] theorem vector_ids (s : State) (n : Nat) : (s.vector n).ids = s.ids := rfl
@[simp] theorem vector_cur (s : State) (n : Nat) : (s.vector n).cur = s.cur := rfl
@[simp] theorem vector_free (s : State) (n : Nat) : (s.vector n).free = s.free := rfl
@[simp] theorem vector_agenda (s : State) (n : Nat) : (s.vector n).agenda = s.agenda := rfl
@[simp] theorem vector_retried (s : State) (n : Nat) : (s.vector n).retried = s.retried := rfl
@[simp] theorem vector_served (s : State) (n : Nat) : (s.vector n).served = s.served := rfl
@[simp] theorem vector_turned (s : State) (n : Nat) : (s.vector n).turned = s.turned := rfl
@[simp] theorem vector_pending (s : State) (n : Nat) : (s.vector n).pending = s.pending := rfl
@[simp] theorem vector_parked (s : State) (n : Nat) : (s.vector n).parked = s.parked := rfl

@[simp] theorem setReg_mem (s : State) (n x : Nat) : (s.setReg n x).mem = s.mem := rfl
@[simp] theorem setReg_strands (s : State) (n x : Nat) : (s.setReg n x).strands = s.strands := rfl
@[simp] theorem setReg_cohorts (s : State) (n x : Nat) : (s.setReg n x).cohorts = s.cohorts := rfl
@[simp] theorem setReg_cores (s : State) (n x : Nat) : (s.setReg n x).cores = s.cores := rfl
@[simp] theorem setReg_regions (s : State) (n x : Nat) : (s.setReg n x).regions = s.regions := rfl
@[simp] theorem setReg_homes (s : State) (n x : Nat) : (s.setReg n x).homes = s.homes := rfl
@[simp] theorem setReg_xlate (s : State) (n x : Nat) : (s.setReg n x).xlate = s.xlate := rfl
@[simp] theorem setReg_experts (s : State) (n x : Nat) : (s.setReg n x).experts = s.experts := rfl
@[simp] theorem setReg_fabric (s : State) (n x : Nat) : (s.setReg n x).fabric = s.fabric := rfl
@[simp] theorem setReg_time (s : State) (n x : Nat) : (s.setReg n x).time = s.time := rfl
@[simp] theorem setReg_cycle (s : State) (n x : Nat) : (s.setReg n x).cycle = s.cycle := rfl
@[simp] theorem setReg_seq (s : State) (n x : Nat) : (s.setReg n x).seq = s.seq := rfl
@[simp] theorem setReg_ids (s : State) (n x : Nat) : (s.setReg n x).ids = s.ids := rfl
@[simp] theorem setReg_cur (s : State) (n x : Nat) : (s.setReg n x).cur = s.cur := rfl
@[simp] theorem setReg_free (s : State) (n x : Nat) : (s.setReg n x).free = s.free := rfl
@[simp] theorem setReg_agenda (s : State) (n x : Nat) : (s.setReg n x).agenda = s.agenda := rfl
@[simp] theorem setReg_retried (s : State) (n x : Nat) : (s.setReg n x).retried = s.retried := rfl
@[simp] theorem setReg_served (s : State) (n x : Nat) : (s.setReg n x).served = s.served := rfl
@[simp] theorem setReg_turned (s : State) (n x : Nat) : (s.setReg n x).turned = s.turned := rfl
@[simp] theorem setReg_pending (s : State) (n x : Nat) : (s.setReg n x).pending = s.pending := rfl
@[simp] theorem setReg_parked (s : State) (n x : Nat) : (s.setReg n x).parked = s.parked := rfl

@[simp] theorem lifeAdd_mem (s : State) (n x : Nat) : (s.lifeAdd n x).mem = s.mem := rfl
@[simp] theorem lifeAdd_strands (s : State) (n x : Nat) : (s.lifeAdd n x).strands = s.strands := rfl
@[simp] theorem lifeAdd_cohorts (s : State) (n x : Nat) : (s.lifeAdd n x).cohorts = s.cohorts := rfl
@[simp] theorem lifeAdd_cores (s : State) (n x : Nat) : (s.lifeAdd n x).cores = s.cores := rfl
@[simp] theorem lifeAdd_regions (s : State) (n x : Nat) : (s.lifeAdd n x).regions = s.regions := rfl
@[simp] theorem lifeAdd_homes (s : State) (n x : Nat) : (s.lifeAdd n x).homes = s.homes := rfl
@[simp] theorem lifeAdd_xlate (s : State) (n x : Nat) : (s.lifeAdd n x).xlate = s.xlate := rfl
@[simp] theorem lifeAdd_experts (s : State) (n x : Nat) : (s.lifeAdd n x).experts = s.experts := rfl
@[simp] theorem lifeAdd_fabric (s : State) (n x : Nat) : (s.lifeAdd n x).fabric = s.fabric := rfl
@[simp] theorem lifeAdd_time (s : State) (n x : Nat) : (s.lifeAdd n x).time = s.time := rfl
@[simp] theorem lifeAdd_cycle (s : State) (n x : Nat) : (s.lifeAdd n x).cycle = s.cycle := rfl
@[simp] theorem lifeAdd_seq (s : State) (n x : Nat) : (s.lifeAdd n x).seq = s.seq := rfl
@[simp] theorem lifeAdd_ids (s : State) (n x : Nat) : (s.lifeAdd n x).ids = s.ids := rfl
@[simp] theorem lifeAdd_cur (s : State) (n x : Nat) : (s.lifeAdd n x).cur = s.cur := rfl
@[simp] theorem lifeAdd_free (s : State) (n x : Nat) : (s.lifeAdd n x).free = s.free := rfl
@[simp] theorem lifeAdd_agenda (s : State) (n x : Nat) : (s.lifeAdd n x).agenda = s.agenda := rfl
@[simp] theorem lifeAdd_retried (s : State) (n x : Nat) : (s.lifeAdd n x).retried = s.retried := rfl
@[simp] theorem lifeAdd_served (s : State) (n x : Nat) : (s.lifeAdd n x).served = s.served := rfl
@[simp] theorem lifeAdd_turned (s : State) (n x : Nat) : (s.lifeAdd n x).turned = s.turned := rfl
@[simp] theorem lifeAdd_pending (s : State) (n x : Nat) : (s.lifeAdd n x).pending = s.pending := rfl
@[simp] theorem lifeAdd_parked (s : State) (n x : Nat) : (s.lifeAdd n x).parked = s.parked := rfl

@[simp] theorem nextSeq_mem (s : State) : (s.nextSeq.2).mem = s.mem := rfl
@[simp] theorem nextSeq_strands (s : State) : (s.nextSeq.2).strands = s.strands := rfl
@[simp] theorem nextSeq_cohorts (s : State) : (s.nextSeq.2).cohorts = s.cohorts := rfl
@[simp] theorem nextSeq_cores (s : State) : (s.nextSeq.2).cores = s.cores := rfl
@[simp] theorem nextSeq_regions (s : State) : (s.nextSeq.2).regions = s.regions := rfl
@[simp] theorem nextSeq_homes (s : State) : (s.nextSeq.2).homes = s.homes := rfl
@[simp] theorem nextSeq_xlate (s : State) : (s.nextSeq.2).xlate = s.xlate := rfl
@[simp] theorem nextSeq_experts (s : State) : (s.nextSeq.2).experts = s.experts := rfl
@[simp] theorem nextSeq_fabric (s : State) : (s.nextSeq.2).fabric = s.fabric := rfl
@[simp] theorem nextSeq_pkg (s : State) : (s.nextSeq.2).pkg = s.pkg := rfl
@[simp] theorem nextSeq_time (s : State) : (s.nextSeq.2).time = s.time := rfl
@[simp] theorem nextSeq_cycle (s : State) : (s.nextSeq.2).cycle = s.cycle := rfl
@[simp] theorem nextSeq_ids (s : State) : (s.nextSeq.2).ids = s.ids := rfl
@[simp] theorem nextSeq_cur (s : State) : (s.nextSeq.2).cur = s.cur := rfl
@[simp] theorem nextSeq_free (s : State) : (s.nextSeq.2).free = s.free := rfl
@[simp] theorem nextSeq_agenda (s : State) : (s.nextSeq.2).agenda = s.agenda := rfl
@[simp] theorem nextSeq_retried (s : State) : (s.nextSeq.2).retried = s.retried := rfl
@[simp] theorem nextSeq_served (s : State) : (s.nextSeq.2).served = s.served := rfl
@[simp] theorem nextSeq_turned (s : State) : (s.nextSeq.2).turned = s.turned := rfl
@[simp] theorem nextSeq_pending (s : State) : (s.nextSeq.2).pending = s.pending := rfl
@[simp] theorem nextSeq_parked (s : State) : (s.nextSeq.2).parked = s.parked := rfl

@[simp] theorem nextId_mem (s : State) : (s.nextId.2).mem = s.mem := rfl
@[simp] theorem nextId_strands (s : State) : (s.nextId.2).strands = s.strands := rfl
@[simp] theorem nextId_cohorts (s : State) : (s.nextId.2).cohorts = s.cohorts := rfl
@[simp] theorem nextId_cores (s : State) : (s.nextId.2).cores = s.cores := rfl
@[simp] theorem nextId_regions (s : State) : (s.nextId.2).regions = s.regions := rfl
@[simp] theorem nextId_homes (s : State) : (s.nextId.2).homes = s.homes := rfl
@[simp] theorem nextId_xlate (s : State) : (s.nextId.2).xlate = s.xlate := rfl
@[simp] theorem nextId_experts (s : State) : (s.nextId.2).experts = s.experts := rfl
@[simp] theorem nextId_fabric (s : State) : (s.nextId.2).fabric = s.fabric := rfl
@[simp] theorem nextId_pkg (s : State) : (s.nextId.2).pkg = s.pkg := rfl
@[simp] theorem nextId_time (s : State) : (s.nextId.2).time = s.time := rfl
@[simp] theorem nextId_cycle (s : State) : (s.nextId.2).cycle = s.cycle := rfl
@[simp] theorem nextId_seq (s : State) : (s.nextId.2).seq = s.seq := rfl
@[simp] theorem nextId_cur (s : State) : (s.nextId.2).cur = s.cur := rfl
@[simp] theorem nextId_free (s : State) : (s.nextId.2).free = s.free := rfl
@[simp] theorem nextId_agenda (s : State) : (s.nextId.2).agenda = s.agenda := rfl
@[simp] theorem nextId_retried (s : State) : (s.nextId.2).retried = s.retried := rfl
@[simp] theorem nextId_served (s : State) : (s.nextId.2).served = s.served := rfl
@[simp] theorem nextId_turned (s : State) : (s.nextId.2).turned = s.turned := rfl
@[simp] theorem nextId_pending (s : State) : (s.nextId.2).pending = s.pending := rfl
@[simp] theorem nextId_parked (s : State) : (s.nextId.2).parked = s.parked := rfl

@[simp] theorem freeVal_mem (s : State) : (s.freeVal.2).mem = s.mem := rfl
@[simp] theorem freeVal_strands (s : State) : (s.freeVal.2).strands = s.strands := rfl
@[simp] theorem freeVal_cohorts (s : State) : (s.freeVal.2).cohorts = s.cohorts := rfl
@[simp] theorem freeVal_cores (s : State) : (s.freeVal.2).cores = s.cores := rfl
@[simp] theorem freeVal_regions (s : State) : (s.freeVal.2).regions = s.regions := rfl
@[simp] theorem freeVal_homes (s : State) : (s.freeVal.2).homes = s.homes := rfl
@[simp] theorem freeVal_xlate (s : State) : (s.freeVal.2).xlate = s.xlate := rfl
@[simp] theorem freeVal_experts (s : State) : (s.freeVal.2).experts = s.experts := rfl
@[simp] theorem freeVal_fabric (s : State) : (s.freeVal.2).fabric = s.fabric := rfl
@[simp] theorem freeVal_pkg (s : State) : (s.freeVal.2).pkg = s.pkg := rfl
@[simp] theorem freeVal_time (s : State) : (s.freeVal.2).time = s.time := rfl
@[simp] theorem freeVal_cycle (s : State) : (s.freeVal.2).cycle = s.cycle := rfl
@[simp] theorem freeVal_seq (s : State) : (s.freeVal.2).seq = s.seq := rfl
@[simp] theorem freeVal_ids (s : State) : (s.freeVal.2).ids = s.ids := rfl
@[simp] theorem freeVal_cur (s : State) : (s.freeVal.2).cur = s.cur := rfl
@[simp] theorem freeVal_agenda (s : State) : (s.freeVal.2).agenda = s.agenda := rfl
@[simp] theorem freeVal_retried (s : State) : (s.freeVal.2).retried = s.retried := rfl
@[simp] theorem freeVal_served (s : State) : (s.freeVal.2).served = s.served := rfl
@[simp] theorem freeVal_turned (s : State) : (s.freeVal.2).turned = s.turned := rfl
@[simp] theorem freeVal_pending (s : State) : (s.freeVal.2).pending = s.pending := rfl
@[simp] theorem freeVal_parked (s : State) : (s.freeVal.2).parked = s.parked := rfl

@[simp] theorem putEntry_mem (s : State) (n k : Nat) (e : LogEnt) : (s.putEntry n k e).mem = s.mem := rfl
@[simp] theorem putEntry_cohorts (s : State) (n k : Nat) (e : LogEnt) : (s.putEntry n k e).cohorts = s.cohorts := rfl
@[simp] theorem putEntry_cores (s : State) (n k : Nat) (e : LogEnt) : (s.putEntry n k e).cores = s.cores := rfl
@[simp] theorem putEntry_regions (s : State) (n k : Nat) (e : LogEnt) : (s.putEntry n k e).regions = s.regions := rfl
@[simp] theorem putEntry_homes (s : State) (n k : Nat) (e : LogEnt) : (s.putEntry n k e).homes = s.homes := rfl
@[simp] theorem putEntry_xlate (s : State) (n k : Nat) (e : LogEnt) : (s.putEntry n k e).xlate = s.xlate := rfl
@[simp] theorem putEntry_experts (s : State) (n k : Nat) (e : LogEnt) : (s.putEntry n k e).experts = s.experts := rfl
@[simp] theorem putEntry_fabric (s : State) (n k : Nat) (e : LogEnt) : (s.putEntry n k e).fabric = s.fabric := rfl
@[simp] theorem putEntry_pkg (s : State) (n k : Nat) (e : LogEnt) : (s.putEntry n k e).pkg = s.pkg := rfl
@[simp] theorem putEntry_time (s : State) (n k : Nat) (e : LogEnt) : (s.putEntry n k e).time = s.time := rfl
@[simp] theorem putEntry_cycle (s : State) (n k : Nat) (e : LogEnt) : (s.putEntry n k e).cycle = s.cycle := rfl
@[simp] theorem putEntry_seq (s : State) (n k : Nat) (e : LogEnt) : (s.putEntry n k e).seq = s.seq := rfl
@[simp] theorem putEntry_ids (s : State) (n k : Nat) (e : LogEnt) : (s.putEntry n k e).ids = s.ids := rfl
@[simp] theorem putEntry_cur (s : State) (n k : Nat) (e : LogEnt) : (s.putEntry n k e).cur = s.cur := rfl
@[simp] theorem putEntry_free (s : State) (n k : Nat) (e : LogEnt) : (s.putEntry n k e).free = s.free := rfl
@[simp] theorem putEntry_agenda (s : State) (n k : Nat) (e : LogEnt) : (s.putEntry n k e).agenda = s.agenda := rfl
@[simp] theorem putEntry_retried (s : State) (n k : Nat) (e : LogEnt) : (s.putEntry n k e).retried = s.retried := rfl
@[simp] theorem putEntry_served (s : State) (n k : Nat) (e : LogEnt) : (s.putEntry n k e).served = s.served := rfl
@[simp] theorem putEntry_turned (s : State) (n k : Nat) (e : LogEnt) : (s.putEntry n k e).turned = s.turned := rfl
@[simp] theorem putEntry_pending (s : State) (n k : Nat) (e : LogEnt) : (s.putEntry n k e).pending = s.pending := rfl
@[simp] theorem putEntry_parked (s : State) (n k : Nat) (e : LogEnt) : (s.putEntry n k e).parked = s.parked := rfl

@[simp] theorem freeEntry_mem (s : State) (n k : Nat) : (s.freeEntry n k).mem = s.mem := rfl
@[simp] theorem freeEntry_cohorts (s : State) (n k : Nat) : (s.freeEntry n k).cohorts = s.cohorts := rfl
@[simp] theorem freeEntry_cores (s : State) (n k : Nat) : (s.freeEntry n k).cores = s.cores := rfl
@[simp] theorem freeEntry_regions (s : State) (n k : Nat) : (s.freeEntry n k).regions = s.regions := rfl
@[simp] theorem freeEntry_homes (s : State) (n k : Nat) : (s.freeEntry n k).homes = s.homes := rfl
@[simp] theorem freeEntry_xlate (s : State) (n k : Nat) : (s.freeEntry n k).xlate = s.xlate := rfl
@[simp] theorem freeEntry_experts (s : State) (n k : Nat) : (s.freeEntry n k).experts = s.experts := rfl
@[simp] theorem freeEntry_fabric (s : State) (n k : Nat) : (s.freeEntry n k).fabric = s.fabric := rfl
@[simp] theorem freeEntry_pkg (s : State) (n k : Nat) : (s.freeEntry n k).pkg = s.pkg := rfl
@[simp] theorem freeEntry_time (s : State) (n k : Nat) : (s.freeEntry n k).time = s.time := rfl
@[simp] theorem freeEntry_cycle (s : State) (n k : Nat) : (s.freeEntry n k).cycle = s.cycle := rfl
@[simp] theorem freeEntry_seq (s : State) (n k : Nat) : (s.freeEntry n k).seq = s.seq := rfl
@[simp] theorem freeEntry_ids (s : State) (n k : Nat) : (s.freeEntry n k).ids = s.ids := rfl
@[simp] theorem freeEntry_cur (s : State) (n k : Nat) : (s.freeEntry n k).cur = s.cur := rfl
@[simp] theorem freeEntry_free (s : State) (n k : Nat) : (s.freeEntry n k).free = s.free := rfl
@[simp] theorem freeEntry_agenda (s : State) (n k : Nat) : (s.freeEntry n k).agenda = s.agenda := rfl
@[simp] theorem freeEntry_retried (s : State) (n k : Nat) : (s.freeEntry n k).retried = s.retried := rfl
@[simp] theorem freeEntry_served (s : State) (n k : Nat) : (s.freeEntry n k).served = s.served := rfl
@[simp] theorem freeEntry_turned (s : State) (n k : Nat) : (s.freeEntry n k).turned = s.turned := rfl
@[simp] theorem freeEntry_pending (s : State) (n k : Nat) : (s.freeEntry n k).pending = s.pending := rfl
@[simp] theorem freeEntry_parked (s : State) (n k : Nat) : (s.freeEntry n k).parked = s.parked := rfl

@[simp] theorem done_mem (s : State) (n : Nat) (r : Raw) : (s.done n r).mem = s.mem := rfl
@[simp] theorem done_cohorts (s : State) (n : Nat) (r : Raw) : (s.done n r).cohorts = s.cohorts := rfl
@[simp] theorem done_cores (s : State) (n : Nat) (r : Raw) : (s.done n r).cores = s.cores := rfl
@[simp] theorem done_regions (s : State) (n : Nat) (r : Raw) : (s.done n r).regions = s.regions := rfl
@[simp] theorem done_homes (s : State) (n : Nat) (r : Raw) : (s.done n r).homes = s.homes := rfl
@[simp] theorem done_xlate (s : State) (n : Nat) (r : Raw) : (s.done n r).xlate = s.xlate := rfl
@[simp] theorem done_experts (s : State) (n : Nat) (r : Raw) : (s.done n r).experts = s.experts := rfl
@[simp] theorem done_fabric (s : State) (n : Nat) (r : Raw) : (s.done n r).fabric = s.fabric := rfl
@[simp] theorem done_pkg (s : State) (n : Nat) (r : Raw) : (s.done n r).pkg = s.pkg := rfl
@[simp] theorem done_time (s : State) (n : Nat) (r : Raw) : (s.done n r).time = s.time := rfl
@[simp] theorem done_cycle (s : State) (n : Nat) (r : Raw) : (s.done n r).cycle = s.cycle := rfl
@[simp] theorem done_seq (s : State) (n : Nat) (r : Raw) : (s.done n r).seq = s.seq := rfl
@[simp] theorem done_ids (s : State) (n : Nat) (r : Raw) : (s.done n r).ids = s.ids := rfl
@[simp] theorem done_cur (s : State) (n : Nat) (r : Raw) : (s.done n r).cur = s.cur := rfl
@[simp] theorem done_free (s : State) (n : Nat) (r : Raw) : (s.done n r).free = s.free := rfl
@[simp] theorem done_agenda (s : State) (n : Nat) (r : Raw) : (s.done n r).agenda = s.agenda := rfl
@[simp] theorem done_retried (s : State) (n : Nat) (r : Raw) : (s.done n r).retried = s.retried := rfl
@[simp] theorem done_served (s : State) (n : Nat) (r : Raw) : (s.done n r).served = s.served := rfl
@[simp] theorem done_turned (s : State) (n : Nat) (r : Raw) : (s.done n r).turned = s.turned := rfl
@[simp] theorem done_pending (s : State) (n : Nat) (r : Raw) : (s.done n r).pending = s.pending := rfl
@[simp] theorem done_parked (s : State) (n : Nat) (r : Raw) : (s.done n r).parked = s.parked := rfl

@[simp] theorem push_mem (s : State) (i : Instr) : (s.push i).mem = s.mem := by
  unfold State.push
  split <;> rfl
@[simp] theorem push_strands (s : State) (i : Instr) : (s.push i).strands = s.strands := by
  unfold State.push
  split <;> rfl
@[simp] theorem push_cohorts (s : State) (i : Instr) : (s.push i).cohorts = s.cohorts := by
  unfold State.push
  split <;> rfl
@[simp] theorem push_cores (s : State) (i : Instr) : (s.push i).cores = s.cores := by
  unfold State.push
  split <;> rfl
@[simp] theorem push_regions (s : State) (i : Instr) : (s.push i).regions = s.regions := by
  unfold State.push
  split <;> rfl
@[simp] theorem push_homes (s : State) (i : Instr) : (s.push i).homes = s.homes := by
  unfold State.push
  split <;> rfl
@[simp] theorem push_xlate (s : State) (i : Instr) : (s.push i).xlate = s.xlate := by
  unfold State.push
  split <;> rfl
@[simp] theorem push_experts (s : State) (i : Instr) : (s.push i).experts = s.experts := by
  unfold State.push
  split <;> rfl
@[simp] theorem push_fabric (s : State) (i : Instr) : (s.push i).fabric = s.fabric := by
  unfold State.push
  split <;> rfl
@[simp] theorem push_pkg (s : State) (i : Instr) : (s.push i).pkg = s.pkg := by
  unfold State.push
  split <;> rfl
@[simp] theorem push_time (s : State) (i : Instr) : (s.push i).time = s.time := by
  unfold State.push
  split <;> rfl
@[simp] theorem push_cycle (s : State) (i : Instr) : (s.push i).cycle = s.cycle := by
  unfold State.push
  split <;> rfl
@[simp] theorem push_seq (s : State) (i : Instr) : (s.push i).seq = s.seq := by
  unfold State.push
  split <;> rfl
@[simp] theorem push_ids (s : State) (i : Instr) : (s.push i).ids = s.ids := by
  unfold State.push
  split <;> rfl
@[simp] theorem push_cur (s : State) (i : Instr) : (s.push i).cur = s.cur := by
  unfold State.push
  split <;> rfl
@[simp] theorem push_free (s : State) (i : Instr) : (s.push i).free = s.free := by
  unfold State.push
  split <;> rfl
@[simp] theorem push_agenda (s : State) (i : Instr) : (s.push i).agenda = s.agenda := by
  unfold State.push
  split <;> rfl
@[simp] theorem push_retried (s : State) (i : Instr) : (s.push i).retried = s.retried := by
  unfold State.push
  split <;> rfl
@[simp] theorem push_served (s : State) (i : Instr) : (s.push i).served = s.served := by
  unfold State.push
  split <;> rfl
@[simp] theorem push_turned (s : State) (i : Instr) : (s.push i).turned = s.turned := by
  unfold State.push
  split <;> rfl
@[simp] theorem push_parked (s : State) (i : Instr) : (s.push i).parked = s.parked := by
  unfold State.push
  split <;> rfl

@[simp] theorem park_mem (s : State) (l : Later) : (s.park l).mem = s.mem := rfl
@[simp] theorem park_strands (s : State) (l : Later) : (s.park l).strands = s.strands := rfl
@[simp] theorem park_cohorts (s : State) (l : Later) : (s.park l).cohorts = s.cohorts := rfl
@[simp] theorem park_cores (s : State) (l : Later) : (s.park l).cores = s.cores := rfl
@[simp] theorem park_regions (s : State) (l : Later) : (s.park l).regions = s.regions := rfl
@[simp] theorem park_homes (s : State) (l : Later) : (s.park l).homes = s.homes := rfl
@[simp] theorem park_xlate (s : State) (l : Later) : (s.park l).xlate = s.xlate := rfl
@[simp] theorem park_experts (s : State) (l : Later) : (s.park l).experts = s.experts := rfl
@[simp] theorem park_fabric (s : State) (l : Later) : (s.park l).fabric = s.fabric := rfl
@[simp] theorem park_pkg (s : State) (l : Later) : (s.park l).pkg = s.pkg := rfl
@[simp] theorem park_time (s : State) (l : Later) : (s.park l).time = s.time := rfl
@[simp] theorem park_cycle (s : State) (l : Later) : (s.park l).cycle = s.cycle := rfl
@[simp] theorem park_seq (s : State) (l : Later) : (s.park l).seq = s.seq := rfl
@[simp] theorem park_ids (s : State) (l : Later) : (s.park l).ids = s.ids := rfl
@[simp] theorem park_cur (s : State) (l : Later) : (s.park l).cur = s.cur := rfl
@[simp] theorem park_free (s : State) (l : Later) : (s.park l).free = s.free := rfl
@[simp] theorem park_agenda (s : State) (l : Later) : (s.park l).agenda = s.agenda := rfl
@[simp] theorem park_retried (s : State) (l : Later) : (s.park l).retried = s.retried := rfl
@[simp] theorem park_served (s : State) (l : Later) : (s.park l).served = s.served := rfl
@[simp] theorem park_turned (s : State) (l : Later) : (s.park l).turned = s.turned := rfl
@[simp] theorem park_pending (s : State) (l : Later) : (s.park l).pending = s.pending := rfl

/-! ## What was written is read -/

@[simp] theorem setStrand_strand (s : State) (n : Nat) (x : Strand) : (s.setStrand n x).strand n = x := by
  simp [State.strand, State.setStrand]

@[simp] theorem modStrand_strand (s : State) (n : Nat) (f : Strand → Strand) :
    (s.modStrand n f).strand n = f (s.strand n) := by
  simp [State.modStrand]

theorem setStrand_strand_ne (s : State) (n m : Nat) (x : Strand) (h : m ≠ n) : (s.setStrand n x).strand m = s.strand m := by
  simp [State.strand, State.setStrand, kvGet_kvSet_ne _ _ _ _ _ h]

theorem modStrand_strand_ne (s : State) (n m : Nat) (f : Strand → Strand) (h : m ≠ n) :
    (s.modStrand n f).strand m = s.strand m := setStrand_strand_ne s n m _ h

@[simp] theorem setCohort_cohort (s : State) (n : Nat) (x : Cohort) : (s.setCohort n x).cohort n = x := by
  simp [State.cohort, State.setCohort]

theorem setCohort_cohort_ne (s : State) (n m : Nat) (x : Cohort) (h : m ≠ n) : (s.setCohort n x).cohort m = s.cohort m := by
  simp [State.cohort, State.setCohort, kvGet_kvSet_ne _ _ _ _ _ h]

@[simp] theorem setRegion_region (s : State) (n : Nat) (x : Region) : (s.setRegion n x).region n = x := by
  simp [State.region, State.setRegion]

theorem setRegion_region_ne (s : State) (n m : Nat) (x : Region) (h : m ≠ n) : (s.setRegion n x).region m = s.region m := by
  simp [State.region, State.setRegion, kvGet_kvSet_ne _ _ _ _ _ h]

@[simp] theorem setCore_core (s : State) (n : Nat) (x : Core) : (s.setCore n x).core n = x := by
  simp [State.core, State.setCore, kvFind_kvPut_self]

@[simp] theorem modCore_core (s : State) (n : Nat) (f : Core → Core) : (s.modCore n f).core n = f (s.core n) := by
  simp [State.modCore]

/-- An event that a step makes possible is pending afterwards. -/
theorem mem_push (s : State) (i : Instr) : i ∈ (s.push i).pending := by
  unfold State.push
  split <;> simp_all

/-! ## Updates of a strand -/

@[simp] theorem strand_setV_life (x : Strand) (n t v : Nat) : (x.setV n t v).life = x.life := rfl
@[simp] theorem strand_setV_rid (x : Strand) (n t v : Nat) : (x.setV n t v).rid = x.rid := rfl
@[simp] theorem strand_setV_cid (x : Strand) (n t v : Nat) : (x.setV n t v).cid = x.cid := rfl
@[simp] theorem strand_setV_spawned (x : Strand) (n t v : Nat) : (x.setV n t v).spawned = x.spawned := rfl
@[simp] theorem strand_setV_cidx (x : Strand) (n t v : Nat) : (x.setV n t v).cidx = x.cidx := rfl
@[simp] theorem strand_setV_core (x : Strand) (n t v : Nat) : (x.setV n t v).core = x.core := rfl
@[simp] theorem strand_setV_quad (x : Strand) (n t v : Nat) : (x.setV n t v).quad = x.quad := rfl
@[simp] theorem strand_setV_slot (x : Strand) (n t v : Nat) : (x.setV n t v).slot = x.slot := rfl
@[simp] theorem strand_setV_spill (x : Strand) (n t v : Nat) : (x.setV n t v).spill = x.spill := rfl
@[simp] theorem strand_setV_allot (x : Strand) (n t v : Nat) : (x.setV n t v).allot = x.allot := rfl
@[simp] theorem strand_setV_pc (x : Strand) (n t v : Nat) : (x.setV n t v).pc = x.pc := rfl
@[simp] theorem strand_setV_amask (x : Strand) (n t v : Nat) : (x.setV n t v).amask = x.amask := rfl
@[simp] theorem strand_setV_sregs (x : Strand) (n t v : Nat) : (x.setV n t v).sregs = x.sregs := rfl
@[simp] theorem strand_setV_preds (x : Strand) (n t v : Nat) : (x.setV n t v).preds = x.preds := rfl
@[simp] theorem strand_setV_curs (x : Strand) (n t v : Nat) : (x.setV n t v).curs = x.curs := rfl
@[simp] theorem strand_setV_jidx (x : Strand) (n t v : Nat) : (x.setV n t v).jidx = x.jidx := rfl
@[simp] theorem strand_setV_empties (x : Strand) (n t v : Nat) : (x.setV n t v).empties = x.empties := rfl
@[simp] theorem strand_setV_emptyPreds (x : Strand) (n t v : Nat) : (x.setV n t v).emptyPreds = x.emptyPreds := rfl
@[simp] theorem strand_setV_frm (x : Strand) (n t v : Nat) : (x.setV n t v).frm = x.frm := rfl
@[simp] theorem strand_setV_fstat (x : Strand) (n t v : Nat) : (x.setV n t v).fstat = x.fstat := rfl
@[simp] theorem strand_setV_llcslsel (x : Strand) (n t v : Nat) : (x.setV n t v).llcslsel = x.llcslsel := rfl
@[simp] theorem strand_setV_llcprba (x : Strand) (n t v : Nat) : (x.setV n t v).llcprba = x.llcprba := rfl
@[simp] theorem strand_setV_loops (x : Strand) (n t v : Nat) : (x.setV n t v).loops = x.loops := rfl
@[simp] theorem strand_setV_divs (x : Strand) (n t v : Nat) : (x.setV n t v).divs = x.divs := rfl
@[simp] theorem strand_setV_hmode (x : Strand) (n t v : Nat) : (x.setV n t v).hmode = x.hmode := rfl
@[simp] theorem strand_setV_trapDepth (x : Strand) (n t v : Nat) : (x.setV n t v).trapDepth = x.trapDepth := rfl
@[simp] theorem strand_setV_frameLog (x : Strand) (n t v : Nat) : (x.setV n t v).frameLog = x.frameLog := rfl
@[simp] theorem strand_setV_hostHeld (x : Strand) (n t v : Nat) : (x.setV n t v).hostHeld = x.hostHeld := rfl
@[simp] theorem strand_setV_waiting (x : Strand) (n t v : Nat) : (x.setV n t v).waiting = x.waiting := rfl
@[simp] theorem strand_setV_waitSince (x : Strand) (n t v : Nat) : (x.setV n t v).waitSince = x.waitSince := rfl
@[simp] theorem strand_setV_trap (x : Strand) (n t v : Nat) : (x.setV n t v).trap = x.trap := rfl
@[simp] theorem strand_setV_afters (x : Strand) (n t v : Nat) : (x.setV n t v).afters = x.afters := rfl
@[simp] theorem strand_setV_log (x : Strand) (n t v : Nat) : (x.setV n t v).log = x.log := rfl
@[simp] theorem strand_setV_fills (x : Strand) (n t v : Nat) : (x.setV n t v).fills = x.fills := rfl
@[simp] theorem strand_setV_barRec (x : Strand) (n t v : Nat) : (x.setV n t v).barRec = x.barRec := rfl
@[simp] theorem strand_setV_joins (x : Strand) (n t v : Nat) : (x.setV n t v).joins = x.joins := rfl
@[simp] theorem strand_setV_leases (x : Strand) (n t v : Nat) : (x.setV n t v).leases = x.leases := rfl
@[simp] theorem strand_setV_guards (x : Strand) (n t v : Nat) : (x.setV n t v).guards = x.guards := rfl
@[simp] theorem strand_setV_readySince (x : Strand) (n t v : Nat) : (x.setV n t v).readySince = x.readySince := rfl
@[simp] theorem strand_setV_stallUntil (x : Strand) (n t v : Nat) : (x.setV n t v).stallUntil = x.stallUntil := rfl

@[simp] theorem strand_setCur_life (x : Strand) (n : Nat) (c : Cursor) : (x.setCur n c).life = x.life := rfl
@[simp] theorem strand_setCur_rid (x : Strand) (n : Nat) (c : Cursor) : (x.setCur n c).rid = x.rid := rfl
@[simp] theorem strand_setCur_cid (x : Strand) (n : Nat) (c : Cursor) : (x.setCur n c).cid = x.cid := rfl
@[simp] theorem strand_setCur_spawned (x : Strand) (n : Nat) (c : Cursor) : (x.setCur n c).spawned = x.spawned := rfl
@[simp] theorem strand_setCur_cidx (x : Strand) (n : Nat) (c : Cursor) : (x.setCur n c).cidx = x.cidx := rfl
@[simp] theorem strand_setCur_core (x : Strand) (n : Nat) (c : Cursor) : (x.setCur n c).core = x.core := rfl
@[simp] theorem strand_setCur_quad (x : Strand) (n : Nat) (c : Cursor) : (x.setCur n c).quad = x.quad := rfl
@[simp] theorem strand_setCur_slot (x : Strand) (n : Nat) (c : Cursor) : (x.setCur n c).slot = x.slot := rfl
@[simp] theorem strand_setCur_spill (x : Strand) (n : Nat) (c : Cursor) : (x.setCur n c).spill = x.spill := rfl
@[simp] theorem strand_setCur_allot (x : Strand) (n : Nat) (c : Cursor) : (x.setCur n c).allot = x.allot := rfl
@[simp] theorem strand_setCur_pc (x : Strand) (n : Nat) (c : Cursor) : (x.setCur n c).pc = x.pc := rfl
@[simp] theorem strand_setCur_amask (x : Strand) (n : Nat) (c : Cursor) : (x.setCur n c).amask = x.amask := rfl
@[simp] theorem strand_setCur_vregs (x : Strand) (n : Nat) (c : Cursor) : (x.setCur n c).vregs = x.vregs := rfl
@[simp] theorem strand_setCur_sregs (x : Strand) (n : Nat) (c : Cursor) : (x.setCur n c).sregs = x.sregs := rfl
@[simp] theorem strand_setCur_preds (x : Strand) (n : Nat) (c : Cursor) : (x.setCur n c).preds = x.preds := rfl
@[simp] theorem strand_setCur_jidx (x : Strand) (n : Nat) (c : Cursor) : (x.setCur n c).jidx = x.jidx := rfl
@[simp] theorem strand_setCur_empties (x : Strand) (n : Nat) (c : Cursor) : (x.setCur n c).empties = x.empties := rfl
@[simp] theorem strand_setCur_emptyPreds (x : Strand) (n : Nat) (c : Cursor) : (x.setCur n c).emptyPreds = x.emptyPreds := rfl
@[simp] theorem strand_setCur_frm (x : Strand) (n : Nat) (c : Cursor) : (x.setCur n c).frm = x.frm := rfl
@[simp] theorem strand_setCur_fstat (x : Strand) (n : Nat) (c : Cursor) : (x.setCur n c).fstat = x.fstat := rfl
@[simp] theorem strand_setCur_llcslsel (x : Strand) (n : Nat) (c : Cursor) : (x.setCur n c).llcslsel = x.llcslsel := rfl
@[simp] theorem strand_setCur_llcprba (x : Strand) (n : Nat) (c : Cursor) : (x.setCur n c).llcprba = x.llcprba := rfl
@[simp] theorem strand_setCur_loops (x : Strand) (n : Nat) (c : Cursor) : (x.setCur n c).loops = x.loops := rfl
@[simp] theorem strand_setCur_divs (x : Strand) (n : Nat) (c : Cursor) : (x.setCur n c).divs = x.divs := rfl
@[simp] theorem strand_setCur_hmode (x : Strand) (n : Nat) (c : Cursor) : (x.setCur n c).hmode = x.hmode := rfl
@[simp] theorem strand_setCur_trapDepth (x : Strand) (n : Nat) (c : Cursor) : (x.setCur n c).trapDepth = x.trapDepth := rfl
@[simp] theorem strand_setCur_frameLog (x : Strand) (n : Nat) (c : Cursor) : (x.setCur n c).frameLog = x.frameLog := rfl
@[simp] theorem strand_setCur_hostHeld (x : Strand) (n : Nat) (c : Cursor) : (x.setCur n c).hostHeld = x.hostHeld := rfl
@[simp] theorem strand_setCur_waiting (x : Strand) (n : Nat) (c : Cursor) : (x.setCur n c).waiting = x.waiting := rfl
@[simp] theorem strand_setCur_waitSince (x : Strand) (n : Nat) (c : Cursor) : (x.setCur n c).waitSince = x.waitSince := rfl
@[simp] theorem strand_setCur_trap (x : Strand) (n : Nat) (c : Cursor) : (x.setCur n c).trap = x.trap := rfl
@[simp] theorem strand_setCur_afters (x : Strand) (n : Nat) (c : Cursor) : (x.setCur n c).afters = x.afters := rfl
@[simp] theorem strand_setCur_log (x : Strand) (n : Nat) (c : Cursor) : (x.setCur n c).log = x.log := rfl
@[simp] theorem strand_setCur_fills (x : Strand) (n : Nat) (c : Cursor) : (x.setCur n c).fills = x.fills := rfl
@[simp] theorem strand_setCur_barRec (x : Strand) (n : Nat) (c : Cursor) : (x.setCur n c).barRec = x.barRec := rfl
@[simp] theorem strand_setCur_joins (x : Strand) (n : Nat) (c : Cursor) : (x.setCur n c).joins = x.joins := rfl
@[simp] theorem strand_setCur_leases (x : Strand) (n : Nat) (c : Cursor) : (x.setCur n c).leases = x.leases := rfl
@[simp] theorem strand_setCur_guards (x : Strand) (n : Nat) (c : Cursor) : (x.setCur n c).guards = x.guards := rfl
@[simp] theorem strand_setCur_readySince (x : Strand) (n : Nat) (c : Cursor) : (x.setCur n c).readySince = x.readySince := rfl
@[simp] theorem strand_setCur_stallUntil (x : Strand) (n : Nat) (c : Cursor) : (x.setCur n c).stallUntil = x.stallUntil := rfl
@[simp] theorem strand_setCur_bad (x : Strand) (n : Nat) (c : Cursor) : (x.setCur n c).bad = x.bad := rfl

@[simp] theorem strand_markFull_life (x : Strand) (n : Nat) : (x.markFull n).life = x.life := rfl
@[simp] theorem strand_markFull_rid (x : Strand) (n : Nat) : (x.markFull n).rid = x.rid := rfl
@[simp] theorem strand_markFull_cid (x : Strand) (n : Nat) : (x.markFull n).cid = x.cid := rfl
@[simp] theorem strand_markFull_spawned (x : Strand) (n : Nat) : (x.markFull n).spawned = x.spawned := rfl
@[simp] theorem strand_markFull_cidx (x : Strand) (n : Nat) : (x.markFull n).cidx = x.cidx := rfl
@[simp] theorem strand_markFull_core (x : Strand) (n : Nat) : (x.markFull n).core = x.core := rfl
@[simp] theorem strand_markFull_quad (x : Strand) (n : Nat) : (x.markFull n).quad = x.quad := rfl
@[simp] theorem strand_markFull_slot (x : Strand) (n : Nat) : (x.markFull n).slot = x.slot := rfl
@[simp] theorem strand_markFull_spill (x : Strand) (n : Nat) : (x.markFull n).spill = x.spill := rfl
@[simp] theorem strand_markFull_allot (x : Strand) (n : Nat) : (x.markFull n).allot = x.allot := rfl
@[simp] theorem strand_markFull_pc (x : Strand) (n : Nat) : (x.markFull n).pc = x.pc := rfl
@[simp] theorem strand_markFull_amask (x : Strand) (n : Nat) : (x.markFull n).amask = x.amask := rfl
@[simp] theorem strand_markFull_vregs (x : Strand) (n : Nat) : (x.markFull n).vregs = x.vregs := rfl
@[simp] theorem strand_markFull_sregs (x : Strand) (n : Nat) : (x.markFull n).sregs = x.sregs := rfl
@[simp] theorem strand_markFull_preds (x : Strand) (n : Nat) : (x.markFull n).preds = x.preds := rfl
@[simp] theorem strand_markFull_curs (x : Strand) (n : Nat) : (x.markFull n).curs = x.curs := rfl
@[simp] theorem strand_markFull_jidx (x : Strand) (n : Nat) : (x.markFull n).jidx = x.jidx := rfl
@[simp] theorem strand_markFull_emptyPreds (x : Strand) (n : Nat) : (x.markFull n).emptyPreds = x.emptyPreds := rfl
@[simp] theorem strand_markFull_frm (x : Strand) (n : Nat) : (x.markFull n).frm = x.frm := rfl
@[simp] theorem strand_markFull_fstat (x : Strand) (n : Nat) : (x.markFull n).fstat = x.fstat := rfl
@[simp] theorem strand_markFull_llcslsel (x : Strand) (n : Nat) : (x.markFull n).llcslsel = x.llcslsel := rfl
@[simp] theorem strand_markFull_llcprba (x : Strand) (n : Nat) : (x.markFull n).llcprba = x.llcprba := rfl
@[simp] theorem strand_markFull_loops (x : Strand) (n : Nat) : (x.markFull n).loops = x.loops := rfl
@[simp] theorem strand_markFull_divs (x : Strand) (n : Nat) : (x.markFull n).divs = x.divs := rfl
@[simp] theorem strand_markFull_hmode (x : Strand) (n : Nat) : (x.markFull n).hmode = x.hmode := rfl
@[simp] theorem strand_markFull_trapDepth (x : Strand) (n : Nat) : (x.markFull n).trapDepth = x.trapDepth := rfl
@[simp] theorem strand_markFull_frameLog (x : Strand) (n : Nat) : (x.markFull n).frameLog = x.frameLog := rfl
@[simp] theorem strand_markFull_hostHeld (x : Strand) (n : Nat) : (x.markFull n).hostHeld = x.hostHeld := rfl
@[simp] theorem strand_markFull_waiting (x : Strand) (n : Nat) : (x.markFull n).waiting = x.waiting := rfl
@[simp] theorem strand_markFull_waitSince (x : Strand) (n : Nat) : (x.markFull n).waitSince = x.waitSince := rfl
@[simp] theorem strand_markFull_trap (x : Strand) (n : Nat) : (x.markFull n).trap = x.trap := rfl
@[simp] theorem strand_markFull_afters (x : Strand) (n : Nat) : (x.markFull n).afters = x.afters := rfl
@[simp] theorem strand_markFull_log (x : Strand) (n : Nat) : (x.markFull n).log = x.log := rfl
@[simp] theorem strand_markFull_fills (x : Strand) (n : Nat) : (x.markFull n).fills = x.fills := rfl
@[simp] theorem strand_markFull_barRec (x : Strand) (n : Nat) : (x.markFull n).barRec = x.barRec := rfl
@[simp] theorem strand_markFull_joins (x : Strand) (n : Nat) : (x.markFull n).joins = x.joins := rfl
@[simp] theorem strand_markFull_leases (x : Strand) (n : Nat) : (x.markFull n).leases = x.leases := rfl
@[simp] theorem strand_markFull_guards (x : Strand) (n : Nat) : (x.markFull n).guards = x.guards := rfl
@[simp] theorem strand_markFull_readySince (x : Strand) (n : Nat) : (x.markFull n).readySince = x.readySince := rfl
@[simp] theorem strand_markFull_stallUntil (x : Strand) (n : Nat) : (x.markFull n).stallUntil = x.stallUntil := rfl
@[simp] theorem strand_markFull_bad (x : Strand) (n : Nat) : (x.markFull n).bad = x.bad := rfl

@[simp] theorem strand_addFlags_life (x : Strand) (n : Nat) : (x.addFlags n).life = x.life := rfl
@[simp] theorem strand_addFlags_rid (x : Strand) (n : Nat) : (x.addFlags n).rid = x.rid := rfl
@[simp] theorem strand_addFlags_cid (x : Strand) (n : Nat) : (x.addFlags n).cid = x.cid := rfl
@[simp] theorem strand_addFlags_spawned (x : Strand) (n : Nat) : (x.addFlags n).spawned = x.spawned := rfl
@[simp] theorem strand_addFlags_cidx (x : Strand) (n : Nat) : (x.addFlags n).cidx = x.cidx := rfl
@[simp] theorem strand_addFlags_core (x : Strand) (n : Nat) : (x.addFlags n).core = x.core := rfl
@[simp] theorem strand_addFlags_quad (x : Strand) (n : Nat) : (x.addFlags n).quad = x.quad := rfl
@[simp] theorem strand_addFlags_slot (x : Strand) (n : Nat) : (x.addFlags n).slot = x.slot := rfl
@[simp] theorem strand_addFlags_spill (x : Strand) (n : Nat) : (x.addFlags n).spill = x.spill := rfl
@[simp] theorem strand_addFlags_allot (x : Strand) (n : Nat) : (x.addFlags n).allot = x.allot := rfl
@[simp] theorem strand_addFlags_pc (x : Strand) (n : Nat) : (x.addFlags n).pc = x.pc := rfl
@[simp] theorem strand_addFlags_amask (x : Strand) (n : Nat) : (x.addFlags n).amask = x.amask := rfl
@[simp] theorem strand_addFlags_vregs (x : Strand) (n : Nat) : (x.addFlags n).vregs = x.vregs := rfl
@[simp] theorem strand_addFlags_sregs (x : Strand) (n : Nat) : (x.addFlags n).sregs = x.sregs := rfl
@[simp] theorem strand_addFlags_preds (x : Strand) (n : Nat) : (x.addFlags n).preds = x.preds := rfl
@[simp] theorem strand_addFlags_curs (x : Strand) (n : Nat) : (x.addFlags n).curs = x.curs := rfl
@[simp] theorem strand_addFlags_jidx (x : Strand) (n : Nat) : (x.addFlags n).jidx = x.jidx := rfl
@[simp] theorem strand_addFlags_empties (x : Strand) (n : Nat) : (x.addFlags n).empties = x.empties := rfl
@[simp] theorem strand_addFlags_emptyPreds (x : Strand) (n : Nat) : (x.addFlags n).emptyPreds = x.emptyPreds := rfl
@[simp] theorem strand_addFlags_frm (x : Strand) (n : Nat) : (x.addFlags n).frm = x.frm := rfl
@[simp] theorem strand_addFlags_llcslsel (x : Strand) (n : Nat) : (x.addFlags n).llcslsel = x.llcslsel := rfl
@[simp] theorem strand_addFlags_llcprba (x : Strand) (n : Nat) : (x.addFlags n).llcprba = x.llcprba := rfl
@[simp] theorem strand_addFlags_loops (x : Strand) (n : Nat) : (x.addFlags n).loops = x.loops := rfl
@[simp] theorem strand_addFlags_divs (x : Strand) (n : Nat) : (x.addFlags n).divs = x.divs := rfl
@[simp] theorem strand_addFlags_hmode (x : Strand) (n : Nat) : (x.addFlags n).hmode = x.hmode := rfl
@[simp] theorem strand_addFlags_trapDepth (x : Strand) (n : Nat) : (x.addFlags n).trapDepth = x.trapDepth := rfl
@[simp] theorem strand_addFlags_frameLog (x : Strand) (n : Nat) : (x.addFlags n).frameLog = x.frameLog := rfl
@[simp] theorem strand_addFlags_hostHeld (x : Strand) (n : Nat) : (x.addFlags n).hostHeld = x.hostHeld := rfl
@[simp] theorem strand_addFlags_waiting (x : Strand) (n : Nat) : (x.addFlags n).waiting = x.waiting := rfl
@[simp] theorem strand_addFlags_waitSince (x : Strand) (n : Nat) : (x.addFlags n).waitSince = x.waitSince := rfl
@[simp] theorem strand_addFlags_trap (x : Strand) (n : Nat) : (x.addFlags n).trap = x.trap := rfl
@[simp] theorem strand_addFlags_afters (x : Strand) (n : Nat) : (x.addFlags n).afters = x.afters := rfl
@[simp] theorem strand_addFlags_log (x : Strand) (n : Nat) : (x.addFlags n).log = x.log := rfl
@[simp] theorem strand_addFlags_fills (x : Strand) (n : Nat) : (x.addFlags n).fills = x.fills := rfl
@[simp] theorem strand_addFlags_barRec (x : Strand) (n : Nat) : (x.addFlags n).barRec = x.barRec := rfl
@[simp] theorem strand_addFlags_joins (x : Strand) (n : Nat) : (x.addFlags n).joins = x.joins := rfl
@[simp] theorem strand_addFlags_leases (x : Strand) (n : Nat) : (x.addFlags n).leases = x.leases := rfl
@[simp] theorem strand_addFlags_guards (x : Strand) (n : Nat) : (x.addFlags n).guards = x.guards := rfl
@[simp] theorem strand_addFlags_readySince (x : Strand) (n : Nat) : (x.addFlags n).readySince = x.readySince := rfl
@[simp] theorem strand_addFlags_stallUntil (x : Strand) (n : Nat) : (x.addFlags n).stallUntil = x.stallUntil := rfl
@[simp] theorem strand_addFlags_bad (x : Strand) (n : Nat) : (x.addFlags n).bad = x.bad := rfl

@[simp] theorem strand_advance_life (x : Strand) (n : Nat) : (x.advance n).life = x.life := rfl
@[simp] theorem strand_advance_rid (x : Strand) (n : Nat) : (x.advance n).rid = x.rid := rfl
@[simp] theorem strand_advance_cid (x : Strand) (n : Nat) : (x.advance n).cid = x.cid := rfl
@[simp] theorem strand_advance_spawned (x : Strand) (n : Nat) : (x.advance n).spawned = x.spawned := rfl
@[simp] theorem strand_advance_cidx (x : Strand) (n : Nat) : (x.advance n).cidx = x.cidx := rfl
@[simp] theorem strand_advance_core (x : Strand) (n : Nat) : (x.advance n).core = x.core := rfl
@[simp] theorem strand_advance_quad (x : Strand) (n : Nat) : (x.advance n).quad = x.quad := rfl
@[simp] theorem strand_advance_slot (x : Strand) (n : Nat) : (x.advance n).slot = x.slot := rfl
@[simp] theorem strand_advance_spill (x : Strand) (n : Nat) : (x.advance n).spill = x.spill := rfl
@[simp] theorem strand_advance_allot (x : Strand) (n : Nat) : (x.advance n).allot = x.allot := rfl
@[simp] theorem strand_advance_amask (x : Strand) (n : Nat) : (x.advance n).amask = x.amask := rfl
@[simp] theorem strand_advance_vregs (x : Strand) (n : Nat) : (x.advance n).vregs = x.vregs := rfl
@[simp] theorem strand_advance_sregs (x : Strand) (n : Nat) : (x.advance n).sregs = x.sregs := rfl
@[simp] theorem strand_advance_preds (x : Strand) (n : Nat) : (x.advance n).preds = x.preds := rfl
@[simp] theorem strand_advance_curs (x : Strand) (n : Nat) : (x.advance n).curs = x.curs := rfl
@[simp] theorem strand_advance_jidx (x : Strand) (n : Nat) : (x.advance n).jidx = x.jidx := rfl
@[simp] theorem strand_advance_empties (x : Strand) (n : Nat) : (x.advance n).empties = x.empties := rfl
@[simp] theorem strand_advance_emptyPreds (x : Strand) (n : Nat) : (x.advance n).emptyPreds = x.emptyPreds := rfl
@[simp] theorem strand_advance_frm (x : Strand) (n : Nat) : (x.advance n).frm = x.frm := rfl
@[simp] theorem strand_advance_fstat (x : Strand) (n : Nat) : (x.advance n).fstat = x.fstat := rfl
@[simp] theorem strand_advance_llcslsel (x : Strand) (n : Nat) : (x.advance n).llcslsel = x.llcslsel := rfl
@[simp] theorem strand_advance_llcprba (x : Strand) (n : Nat) : (x.advance n).llcprba = x.llcprba := rfl
@[simp] theorem strand_advance_loops (x : Strand) (n : Nat) : (x.advance n).loops = x.loops := rfl
@[simp] theorem strand_advance_divs (x : Strand) (n : Nat) : (x.advance n).divs = x.divs := rfl
@[simp] theorem strand_advance_hmode (x : Strand) (n : Nat) : (x.advance n).hmode = x.hmode := rfl
@[simp] theorem strand_advance_trapDepth (x : Strand) (n : Nat) : (x.advance n).trapDepth = x.trapDepth := rfl
@[simp] theorem strand_advance_frameLog (x : Strand) (n : Nat) : (x.advance n).frameLog = x.frameLog := rfl
@[simp] theorem strand_advance_hostHeld (x : Strand) (n : Nat) : (x.advance n).hostHeld = x.hostHeld := rfl
@[simp] theorem strand_advance_waiting (x : Strand) (n : Nat) : (x.advance n).waiting = x.waiting := rfl
@[simp] theorem strand_advance_waitSince (x : Strand) (n : Nat) : (x.advance n).waitSince = x.waitSince := rfl
@[simp] theorem strand_advance_trap (x : Strand) (n : Nat) : (x.advance n).trap = x.trap := rfl
@[simp] theorem strand_advance_afters (x : Strand) (n : Nat) : (x.advance n).afters = x.afters := rfl
@[simp] theorem strand_advance_log (x : Strand) (n : Nat) : (x.advance n).log = x.log := rfl
@[simp] theorem strand_advance_fills (x : Strand) (n : Nat) : (x.advance n).fills = x.fills := rfl
@[simp] theorem strand_advance_barRec (x : Strand) (n : Nat) : (x.advance n).barRec = x.barRec := rfl
@[simp] theorem strand_advance_joins (x : Strand) (n : Nat) : (x.advance n).joins = x.joins := rfl
@[simp] theorem strand_advance_leases (x : Strand) (n : Nat) : (x.advance n).leases = x.leases := rfl
@[simp] theorem strand_advance_guards (x : Strand) (n : Nat) : (x.advance n).guards = x.guards := rfl
@[simp] theorem strand_advance_readySince (x : Strand) (n : Nat) : (x.advance n).readySince = x.readySince := rfl
@[simp] theorem strand_advance_stallUntil (x : Strand) (n : Nat) : (x.advance n).stallUntil = x.stallUntil := rfl
@[simp] theorem strand_advance_bad (x : Strand) (n : Nat) : (x.advance n).bad = x.bad := rfl

@[simp] theorem strand_setS_life (x : Strand) (n v : Nat) : (x.setS n v).life = x.life := by
  unfold Strand.setS
  split <;> rfl
@[simp] theorem strand_setS_rid (x : Strand) (n v : Nat) : (x.setS n v).rid = x.rid := by
  unfold Strand.setS
  split <;> rfl
@[simp] theorem strand_setS_cid (x : Strand) (n v : Nat) : (x.setS n v).cid = x.cid := by
  unfold Strand.setS
  split <;> rfl
@[simp] theorem strand_setS_spawned (x : Strand) (n v : Nat) : (x.setS n v).spawned = x.spawned := by
  unfold Strand.setS
  split <;> rfl
@[simp] theorem strand_setS_cidx (x : Strand) (n v : Nat) : (x.setS n v).cidx = x.cidx := by
  unfold Strand.setS
  split <;> rfl
@[simp] theorem strand_setS_core (x : Strand) (n v : Nat) : (x.setS n v).core = x.core := by
  unfold Strand.setS
  split <;> rfl
@[simp] theorem strand_setS_quad (x : Strand) (n v : Nat) : (x.setS n v).quad = x.quad := by
  unfold Strand.setS
  split <;> rfl
@[simp] theorem strand_setS_slot (x : Strand) (n v : Nat) : (x.setS n v).slot = x.slot := by
  unfold Strand.setS
  split <;> rfl
@[simp] theorem strand_setS_spill (x : Strand) (n v : Nat) : (x.setS n v).spill = x.spill := by
  unfold Strand.setS
  split <;> rfl
@[simp] theorem strand_setS_allot (x : Strand) (n v : Nat) : (x.setS n v).allot = x.allot := by
  unfold Strand.setS
  split <;> rfl
@[simp] theorem strand_setS_pc (x : Strand) (n v : Nat) : (x.setS n v).pc = x.pc := by
  unfold Strand.setS
  split <;> rfl
@[simp] theorem strand_setS_amask (x : Strand) (n v : Nat) : (x.setS n v).amask = x.amask := by
  unfold Strand.setS
  split <;> rfl
@[simp] theorem strand_setS_vregs (x : Strand) (n v : Nat) : (x.setS n v).vregs = x.vregs := by
  unfold Strand.setS
  split <;> rfl
@[simp] theorem strand_setS_preds (x : Strand) (n v : Nat) : (x.setS n v).preds = x.preds := by
  unfold Strand.setS
  split <;> rfl
@[simp] theorem strand_setS_curs (x : Strand) (n v : Nat) : (x.setS n v).curs = x.curs := by
  unfold Strand.setS
  split <;> rfl
@[simp] theorem strand_setS_jidx (x : Strand) (n v : Nat) : (x.setS n v).jidx = x.jidx := by
  unfold Strand.setS
  split <;> rfl
@[simp] theorem strand_setS_empties (x : Strand) (n v : Nat) : (x.setS n v).empties = x.empties := by
  unfold Strand.setS
  split <;> rfl
@[simp] theorem strand_setS_emptyPreds (x : Strand) (n v : Nat) : (x.setS n v).emptyPreds = x.emptyPreds := by
  unfold Strand.setS
  split <;> rfl
@[simp] theorem strand_setS_frm (x : Strand) (n v : Nat) : (x.setS n v).frm = x.frm := by
  unfold Strand.setS
  split <;> rfl
@[simp] theorem strand_setS_fstat (x : Strand) (n v : Nat) : (x.setS n v).fstat = x.fstat := by
  unfold Strand.setS
  split <;> rfl
@[simp] theorem strand_setS_llcslsel (x : Strand) (n v : Nat) : (x.setS n v).llcslsel = x.llcslsel := by
  unfold Strand.setS
  split <;> rfl
@[simp] theorem strand_setS_llcprba (x : Strand) (n v : Nat) : (x.setS n v).llcprba = x.llcprba := by
  unfold Strand.setS
  split <;> rfl
@[simp] theorem strand_setS_loops (x : Strand) (n v : Nat) : (x.setS n v).loops = x.loops := by
  unfold Strand.setS
  split <;> rfl
@[simp] theorem strand_setS_divs (x : Strand) (n v : Nat) : (x.setS n v).divs = x.divs := by
  unfold Strand.setS
  split <;> rfl
@[simp] theorem strand_setS_hmode (x : Strand) (n v : Nat) : (x.setS n v).hmode = x.hmode := by
  unfold Strand.setS
  split <;> rfl
@[simp] theorem strand_setS_trapDepth (x : Strand) (n v : Nat) : (x.setS n v).trapDepth = x.trapDepth := by
  unfold Strand.setS
  split <;> rfl
@[simp] theorem strand_setS_frameLog (x : Strand) (n v : Nat) : (x.setS n v).frameLog = x.frameLog := by
  unfold Strand.setS
  split <;> rfl
@[simp] theorem strand_setS_hostHeld (x : Strand) (n v : Nat) : (x.setS n v).hostHeld = x.hostHeld := by
  unfold Strand.setS
  split <;> rfl
@[simp] theorem strand_setS_waiting (x : Strand) (n v : Nat) : (x.setS n v).waiting = x.waiting := by
  unfold Strand.setS
  split <;> rfl
@[simp] theorem strand_setS_waitSince (x : Strand) (n v : Nat) : (x.setS n v).waitSince = x.waitSince := by
  unfold Strand.setS
  split <;> rfl
@[simp] theorem strand_setS_trap (x : Strand) (n v : Nat) : (x.setS n v).trap = x.trap := by
  unfold Strand.setS
  split <;> rfl
@[simp] theorem strand_setS_afters (x : Strand) (n v : Nat) : (x.setS n v).afters = x.afters := by
  unfold Strand.setS
  split <;> rfl
@[simp] theorem strand_setS_log (x : Strand) (n v : Nat) : (x.setS n v).log = x.log := by
  unfold Strand.setS
  split <;> rfl
@[simp] theorem strand_setS_fills (x : Strand) (n v : Nat) : (x.setS n v).fills = x.fills := by
  unfold Strand.setS
  split <;> rfl
@[simp] theorem strand_setS_barRec (x : Strand) (n v : Nat) : (x.setS n v).barRec = x.barRec := by
  unfold Strand.setS
  split <;> rfl
@[simp] theorem strand_setS_joins (x : Strand) (n v : Nat) : (x.setS n v).joins = x.joins := by
  unfold Strand.setS
  split <;> rfl
@[simp] theorem strand_setS_leases (x : Strand) (n v : Nat) : (x.setS n v).leases = x.leases := by
  unfold Strand.setS
  split <;> rfl
@[simp] theorem strand_setS_guards (x : Strand) (n v : Nat) : (x.setS n v).guards = x.guards := by
  unfold Strand.setS
  split <;> rfl
@[simp] theorem strand_setS_readySince (x : Strand) (n v : Nat) : (x.setS n v).readySince = x.readySince := by
  unfold Strand.setS
  split <;> rfl
@[simp] theorem strand_setS_stallUntil (x : Strand) (n v : Nat) : (x.setS n v).stallUntil = x.stallUntil := by
  unfold Strand.setS
  split <;> rfl

@[simp] theorem strand_setP_life (x : Strand) (n v : Nat) : (x.setP n v).life = x.life := by
  unfold Strand.setP
  split <;> rfl
@[simp] theorem strand_setP_rid (x : Strand) (n v : Nat) : (x.setP n v).rid = x.rid := by
  unfold Strand.setP
  split <;> rfl
@[simp] theorem strand_setP_cid (x : Strand) (n v : Nat) : (x.setP n v).cid = x.cid := by
  unfold Strand.setP
  split <;> rfl
@[simp] theorem strand_setP_spawned (x : Strand) (n v : Nat) : (x.setP n v).spawned = x.spawned := by
  unfold Strand.setP
  split <;> rfl
@[simp] theorem strand_setP_cidx (x : Strand) (n v : Nat) : (x.setP n v).cidx = x.cidx := by
  unfold Strand.setP
  split <;> rfl
@[simp] theorem strand_setP_core (x : Strand) (n v : Nat) : (x.setP n v).core = x.core := by
  unfold Strand.setP
  split <;> rfl
@[simp] theorem strand_setP_quad (x : Strand) (n v : Nat) : (x.setP n v).quad = x.quad := by
  unfold Strand.setP
  split <;> rfl
@[simp] theorem strand_setP_slot (x : Strand) (n v : Nat) : (x.setP n v).slot = x.slot := by
  unfold Strand.setP
  split <;> rfl
@[simp] theorem strand_setP_spill (x : Strand) (n v : Nat) : (x.setP n v).spill = x.spill := by
  unfold Strand.setP
  split <;> rfl
@[simp] theorem strand_setP_allot (x : Strand) (n v : Nat) : (x.setP n v).allot = x.allot := by
  unfold Strand.setP
  split <;> rfl
@[simp] theorem strand_setP_pc (x : Strand) (n v : Nat) : (x.setP n v).pc = x.pc := by
  unfold Strand.setP
  split <;> rfl
@[simp] theorem strand_setP_amask (x : Strand) (n v : Nat) : (x.setP n v).amask = x.amask := by
  unfold Strand.setP
  split <;> rfl
@[simp] theorem strand_setP_vregs (x : Strand) (n v : Nat) : (x.setP n v).vregs = x.vregs := by
  unfold Strand.setP
  split <;> rfl
@[simp] theorem strand_setP_sregs (x : Strand) (n v : Nat) : (x.setP n v).sregs = x.sregs := by
  unfold Strand.setP
  split <;> rfl
@[simp] theorem strand_setP_curs (x : Strand) (n v : Nat) : (x.setP n v).curs = x.curs := by
  unfold Strand.setP
  split <;> rfl
@[simp] theorem strand_setP_jidx (x : Strand) (n v : Nat) : (x.setP n v).jidx = x.jidx := by
  unfold Strand.setP
  split <;> rfl
@[simp] theorem strand_setP_empties (x : Strand) (n v : Nat) : (x.setP n v).empties = x.empties := by
  unfold Strand.setP
  split <;> rfl
@[simp] theorem strand_setP_emptyPreds (x : Strand) (n v : Nat) : (x.setP n v).emptyPreds = x.emptyPreds := by
  unfold Strand.setP
  split <;> rfl
@[simp] theorem strand_setP_frm (x : Strand) (n v : Nat) : (x.setP n v).frm = x.frm := by
  unfold Strand.setP
  split <;> rfl
@[simp] theorem strand_setP_fstat (x : Strand) (n v : Nat) : (x.setP n v).fstat = x.fstat := by
  unfold Strand.setP
  split <;> rfl
@[simp] theorem strand_setP_llcslsel (x : Strand) (n v : Nat) : (x.setP n v).llcslsel = x.llcslsel := by
  unfold Strand.setP
  split <;> rfl
@[simp] theorem strand_setP_llcprba (x : Strand) (n v : Nat) : (x.setP n v).llcprba = x.llcprba := by
  unfold Strand.setP
  split <;> rfl
@[simp] theorem strand_setP_loops (x : Strand) (n v : Nat) : (x.setP n v).loops = x.loops := by
  unfold Strand.setP
  split <;> rfl
@[simp] theorem strand_setP_divs (x : Strand) (n v : Nat) : (x.setP n v).divs = x.divs := by
  unfold Strand.setP
  split <;> rfl
@[simp] theorem strand_setP_hmode (x : Strand) (n v : Nat) : (x.setP n v).hmode = x.hmode := by
  unfold Strand.setP
  split <;> rfl
@[simp] theorem strand_setP_trapDepth (x : Strand) (n v : Nat) : (x.setP n v).trapDepth = x.trapDepth := by
  unfold Strand.setP
  split <;> rfl
@[simp] theorem strand_setP_frameLog (x : Strand) (n v : Nat) : (x.setP n v).frameLog = x.frameLog := by
  unfold Strand.setP
  split <;> rfl
@[simp] theorem strand_setP_hostHeld (x : Strand) (n v : Nat) : (x.setP n v).hostHeld = x.hostHeld := by
  unfold Strand.setP
  split <;> rfl
@[simp] theorem strand_setP_waiting (x : Strand) (n v : Nat) : (x.setP n v).waiting = x.waiting := by
  unfold Strand.setP
  split <;> rfl
@[simp] theorem strand_setP_waitSince (x : Strand) (n v : Nat) : (x.setP n v).waitSince = x.waitSince := by
  unfold Strand.setP
  split <;> rfl
@[simp] theorem strand_setP_trap (x : Strand) (n v : Nat) : (x.setP n v).trap = x.trap := by
  unfold Strand.setP
  split <;> rfl
@[simp] theorem strand_setP_afters (x : Strand) (n v : Nat) : (x.setP n v).afters = x.afters := by
  unfold Strand.setP
  split <;> rfl
@[simp] theorem strand_setP_log (x : Strand) (n v : Nat) : (x.setP n v).log = x.log := by
  unfold Strand.setP
  split <;> rfl
@[simp] theorem strand_setP_fills (x : Strand) (n v : Nat) : (x.setP n v).fills = x.fills := by
  unfold Strand.setP
  split <;> rfl
@[simp] theorem strand_setP_barRec (x : Strand) (n v : Nat) : (x.setP n v).barRec = x.barRec := by
  unfold Strand.setP
  split <;> rfl
@[simp] theorem strand_setP_joins (x : Strand) (n v : Nat) : (x.setP n v).joins = x.joins := by
  unfold Strand.setP
  split <;> rfl
@[simp] theorem strand_setP_leases (x : Strand) (n v : Nat) : (x.setP n v).leases = x.leases := by
  unfold Strand.setP
  split <;> rfl
@[simp] theorem strand_setP_guards (x : Strand) (n v : Nat) : (x.setP n v).guards = x.guards := by
  unfold Strand.setP
  split <;> rfl
@[simp] theorem strand_setP_readySince (x : Strand) (n v : Nat) : (x.setP n v).readySince = x.readySince := by
  unfold Strand.setP
  split <;> rfl
@[simp] theorem strand_setP_stallUntil (x : Strand) (n v : Nat) : (x.setP n v).stallUntil = x.stallUntil := by
  unfold Strand.setP
  split <;> rfl
@[simp] theorem strand_setP_bad (x : Strand) (n v : Nat) : (x.setP n v).bad = x.bad := by
  unfold Strand.setP
  split <;> rfl

@[simp] theorem strand_setPBit_life (x : Strand) (n t : Nat) (b : Bool) : (x.setPBit n t b).life = x.life := by
  unfold Strand.setPBit Strand.setP
  dsimp only
  split <;> rfl
@[simp] theorem strand_setPBit_rid (x : Strand) (n t : Nat) (b : Bool) : (x.setPBit n t b).rid = x.rid := by
  unfold Strand.setPBit Strand.setP
  dsimp only
  split <;> rfl
@[simp] theorem strand_setPBit_cid (x : Strand) (n t : Nat) (b : Bool) : (x.setPBit n t b).cid = x.cid := by
  unfold Strand.setPBit Strand.setP
  dsimp only
  split <;> rfl
@[simp] theorem strand_setPBit_spawned (x : Strand) (n t : Nat) (b : Bool) : (x.setPBit n t b).spawned = x.spawned := by
  unfold Strand.setPBit Strand.setP
  dsimp only
  split <;> rfl
@[simp] theorem strand_setPBit_cidx (x : Strand) (n t : Nat) (b : Bool) : (x.setPBit n t b).cidx = x.cidx := by
  unfold Strand.setPBit Strand.setP
  dsimp only
  split <;> rfl
@[simp] theorem strand_setPBit_core (x : Strand) (n t : Nat) (b : Bool) : (x.setPBit n t b).core = x.core := by
  unfold Strand.setPBit Strand.setP
  dsimp only
  split <;> rfl
@[simp] theorem strand_setPBit_quad (x : Strand) (n t : Nat) (b : Bool) : (x.setPBit n t b).quad = x.quad := by
  unfold Strand.setPBit Strand.setP
  dsimp only
  split <;> rfl
@[simp] theorem strand_setPBit_slot (x : Strand) (n t : Nat) (b : Bool) : (x.setPBit n t b).slot = x.slot := by
  unfold Strand.setPBit Strand.setP
  dsimp only
  split <;> rfl
@[simp] theorem strand_setPBit_spill (x : Strand) (n t : Nat) (b : Bool) : (x.setPBit n t b).spill = x.spill := by
  unfold Strand.setPBit Strand.setP
  dsimp only
  split <;> rfl
@[simp] theorem strand_setPBit_allot (x : Strand) (n t : Nat) (b : Bool) : (x.setPBit n t b).allot = x.allot := by
  unfold Strand.setPBit Strand.setP
  dsimp only
  split <;> rfl
@[simp] theorem strand_setPBit_pc (x : Strand) (n t : Nat) (b : Bool) : (x.setPBit n t b).pc = x.pc := by
  unfold Strand.setPBit Strand.setP
  dsimp only
  split <;> rfl
@[simp] theorem strand_setPBit_amask (x : Strand) (n t : Nat) (b : Bool) : (x.setPBit n t b).amask = x.amask := by
  unfold Strand.setPBit Strand.setP
  dsimp only
  split <;> rfl
@[simp] theorem strand_setPBit_vregs (x : Strand) (n t : Nat) (b : Bool) : (x.setPBit n t b).vregs = x.vregs := by
  unfold Strand.setPBit Strand.setP
  dsimp only
  split <;> rfl
@[simp] theorem strand_setPBit_sregs (x : Strand) (n t : Nat) (b : Bool) : (x.setPBit n t b).sregs = x.sregs := by
  unfold Strand.setPBit Strand.setP
  dsimp only
  split <;> rfl
@[simp] theorem strand_setPBit_curs (x : Strand) (n t : Nat) (b : Bool) : (x.setPBit n t b).curs = x.curs := by
  unfold Strand.setPBit Strand.setP
  dsimp only
  split <;> rfl
@[simp] theorem strand_setPBit_jidx (x : Strand) (n t : Nat) (b : Bool) : (x.setPBit n t b).jidx = x.jidx := by
  unfold Strand.setPBit Strand.setP
  dsimp only
  split <;> rfl
@[simp] theorem strand_setPBit_empties (x : Strand) (n t : Nat) (b : Bool) : (x.setPBit n t b).empties = x.empties := by
  unfold Strand.setPBit Strand.setP
  dsimp only
  split <;> rfl
@[simp] theorem strand_setPBit_emptyPreds (x : Strand) (n t : Nat) (b : Bool) : (x.setPBit n t b).emptyPreds = x.emptyPreds := by
  unfold Strand.setPBit Strand.setP
  dsimp only
  split <;> rfl
@[simp] theorem strand_setPBit_frm (x : Strand) (n t : Nat) (b : Bool) : (x.setPBit n t b).frm = x.frm := by
  unfold Strand.setPBit Strand.setP
  dsimp only
  split <;> rfl
@[simp] theorem strand_setPBit_fstat (x : Strand) (n t : Nat) (b : Bool) : (x.setPBit n t b).fstat = x.fstat := by
  unfold Strand.setPBit Strand.setP
  dsimp only
  split <;> rfl
@[simp] theorem strand_setPBit_llcslsel (x : Strand) (n t : Nat) (b : Bool) : (x.setPBit n t b).llcslsel = x.llcslsel := by
  unfold Strand.setPBit Strand.setP
  dsimp only
  split <;> rfl
@[simp] theorem strand_setPBit_llcprba (x : Strand) (n t : Nat) (b : Bool) : (x.setPBit n t b).llcprba = x.llcprba := by
  unfold Strand.setPBit Strand.setP
  dsimp only
  split <;> rfl
@[simp] theorem strand_setPBit_loops (x : Strand) (n t : Nat) (b : Bool) : (x.setPBit n t b).loops = x.loops := by
  unfold Strand.setPBit Strand.setP
  dsimp only
  split <;> rfl
@[simp] theorem strand_setPBit_divs (x : Strand) (n t : Nat) (b : Bool) : (x.setPBit n t b).divs = x.divs := by
  unfold Strand.setPBit Strand.setP
  dsimp only
  split <;> rfl
@[simp] theorem strand_setPBit_hmode (x : Strand) (n t : Nat) (b : Bool) : (x.setPBit n t b).hmode = x.hmode := by
  unfold Strand.setPBit Strand.setP
  dsimp only
  split <;> rfl
@[simp] theorem strand_setPBit_trapDepth (x : Strand) (n t : Nat) (b : Bool) : (x.setPBit n t b).trapDepth = x.trapDepth := by
  unfold Strand.setPBit Strand.setP
  dsimp only
  split <;> rfl
@[simp] theorem strand_setPBit_frameLog (x : Strand) (n t : Nat) (b : Bool) : (x.setPBit n t b).frameLog = x.frameLog := by
  unfold Strand.setPBit Strand.setP
  dsimp only
  split <;> rfl
@[simp] theorem strand_setPBit_hostHeld (x : Strand) (n t : Nat) (b : Bool) : (x.setPBit n t b).hostHeld = x.hostHeld := by
  unfold Strand.setPBit Strand.setP
  dsimp only
  split <;> rfl
@[simp] theorem strand_setPBit_waiting (x : Strand) (n t : Nat) (b : Bool) : (x.setPBit n t b).waiting = x.waiting := by
  unfold Strand.setPBit Strand.setP
  dsimp only
  split <;> rfl
@[simp] theorem strand_setPBit_waitSince (x : Strand) (n t : Nat) (b : Bool) : (x.setPBit n t b).waitSince = x.waitSince := by
  unfold Strand.setPBit Strand.setP
  dsimp only
  split <;> rfl
@[simp] theorem strand_setPBit_trap (x : Strand) (n t : Nat) (b : Bool) : (x.setPBit n t b).trap = x.trap := by
  unfold Strand.setPBit Strand.setP
  dsimp only
  split <;> rfl
@[simp] theorem strand_setPBit_afters (x : Strand) (n t : Nat) (b : Bool) : (x.setPBit n t b).afters = x.afters := by
  unfold Strand.setPBit Strand.setP
  dsimp only
  split <;> rfl
@[simp] theorem strand_setPBit_log (x : Strand) (n t : Nat) (b : Bool) : (x.setPBit n t b).log = x.log := by
  unfold Strand.setPBit Strand.setP
  dsimp only
  split <;> rfl
@[simp] theorem strand_setPBit_fills (x : Strand) (n t : Nat) (b : Bool) : (x.setPBit n t b).fills = x.fills := by
  unfold Strand.setPBit Strand.setP
  dsimp only
  split <;> rfl
@[simp] theorem strand_setPBit_barRec (x : Strand) (n t : Nat) (b : Bool) : (x.setPBit n t b).barRec = x.barRec := by
  unfold Strand.setPBit Strand.setP
  dsimp only
  split <;> rfl
@[simp] theorem strand_setPBit_joins (x : Strand) (n t : Nat) (b : Bool) : (x.setPBit n t b).joins = x.joins := by
  unfold Strand.setPBit Strand.setP
  dsimp only
  split <;> rfl
@[simp] theorem strand_setPBit_leases (x : Strand) (n t : Nat) (b : Bool) : (x.setPBit n t b).leases = x.leases := by
  unfold Strand.setPBit Strand.setP
  dsimp only
  split <;> rfl
@[simp] theorem strand_setPBit_guards (x : Strand) (n t : Nat) (b : Bool) : (x.setPBit n t b).guards = x.guards := by
  unfold Strand.setPBit Strand.setP
  dsimp only
  split <;> rfl
@[simp] theorem strand_setPBit_readySince (x : Strand) (n t : Nat) (b : Bool) : (x.setPBit n t b).readySince = x.readySince := by
  unfold Strand.setPBit Strand.setP
  dsimp only
  split <;> rfl
@[simp] theorem strand_setPBit_stallUntil (x : Strand) (n t : Nat) (b : Bool) : (x.setPBit n t b).stallUntil = x.stallUntil := by
  unfold Strand.setPBit Strand.setP
  dsimp only
  split <;> rfl
@[simp] theorem strand_setPBit_bad (x : Strand) (n t : Nat) (b : Bool) : (x.setPBit n t b).bad = x.bad := by
  unfold Strand.setPBit Strand.setP
  dsimp only
  split <;> rfl

@[simp] theorem strand_setVal_life (x : Strand) (n t : Nat) (w : Bool) (v : Nat) : (x.setVal n t w v).life = x.life := by
  unfold Strand.setVal
  split <;> rfl
@[simp] theorem strand_setVal_rid (x : Strand) (n t : Nat) (w : Bool) (v : Nat) : (x.setVal n t w v).rid = x.rid := by
  unfold Strand.setVal
  split <;> rfl
@[simp] theorem strand_setVal_cid (x : Strand) (n t : Nat) (w : Bool) (v : Nat) : (x.setVal n t w v).cid = x.cid := by
  unfold Strand.setVal
  split <;> rfl
@[simp] theorem strand_setVal_spawned (x : Strand) (n t : Nat) (w : Bool) (v : Nat) : (x.setVal n t w v).spawned = x.spawned := by
  unfold Strand.setVal
  split <;> rfl
@[simp] theorem strand_setVal_cidx (x : Strand) (n t : Nat) (w : Bool) (v : Nat) : (x.setVal n t w v).cidx = x.cidx := by
  unfold Strand.setVal
  split <;> rfl
@[simp] theorem strand_setVal_core (x : Strand) (n t : Nat) (w : Bool) (v : Nat) : (x.setVal n t w v).core = x.core := by
  unfold Strand.setVal
  split <;> rfl
@[simp] theorem strand_setVal_quad (x : Strand) (n t : Nat) (w : Bool) (v : Nat) : (x.setVal n t w v).quad = x.quad := by
  unfold Strand.setVal
  split <;> rfl
@[simp] theorem strand_setVal_slot (x : Strand) (n t : Nat) (w : Bool) (v : Nat) : (x.setVal n t w v).slot = x.slot := by
  unfold Strand.setVal
  split <;> rfl
@[simp] theorem strand_setVal_spill (x : Strand) (n t : Nat) (w : Bool) (v : Nat) : (x.setVal n t w v).spill = x.spill := by
  unfold Strand.setVal
  split <;> rfl
@[simp] theorem strand_setVal_allot (x : Strand) (n t : Nat) (w : Bool) (v : Nat) : (x.setVal n t w v).allot = x.allot := by
  unfold Strand.setVal
  split <;> rfl
@[simp] theorem strand_setVal_pc (x : Strand) (n t : Nat) (w : Bool) (v : Nat) : (x.setVal n t w v).pc = x.pc := by
  unfold Strand.setVal
  split <;> rfl
@[simp] theorem strand_setVal_amask (x : Strand) (n t : Nat) (w : Bool) (v : Nat) : (x.setVal n t w v).amask = x.amask := by
  unfold Strand.setVal
  split <;> rfl
@[simp] theorem strand_setVal_sregs (x : Strand) (n t : Nat) (w : Bool) (v : Nat) : (x.setVal n t w v).sregs = x.sregs := by
  unfold Strand.setVal
  split <;> rfl
@[simp] theorem strand_setVal_preds (x : Strand) (n t : Nat) (w : Bool) (v : Nat) : (x.setVal n t w v).preds = x.preds := by
  unfold Strand.setVal
  split <;> rfl
@[simp] theorem strand_setVal_curs (x : Strand) (n t : Nat) (w : Bool) (v : Nat) : (x.setVal n t w v).curs = x.curs := by
  unfold Strand.setVal
  split <;> rfl
@[simp] theorem strand_setVal_jidx (x : Strand) (n t : Nat) (w : Bool) (v : Nat) : (x.setVal n t w v).jidx = x.jidx := by
  unfold Strand.setVal
  split <;> rfl
@[simp] theorem strand_setVal_empties (x : Strand) (n t : Nat) (w : Bool) (v : Nat) : (x.setVal n t w v).empties = x.empties := by
  unfold Strand.setVal
  split <;> rfl
@[simp] theorem strand_setVal_emptyPreds (x : Strand) (n t : Nat) (w : Bool) (v : Nat) : (x.setVal n t w v).emptyPreds = x.emptyPreds := by
  unfold Strand.setVal
  split <;> rfl
@[simp] theorem strand_setVal_frm (x : Strand) (n t : Nat) (w : Bool) (v : Nat) : (x.setVal n t w v).frm = x.frm := by
  unfold Strand.setVal
  split <;> rfl
@[simp] theorem strand_setVal_fstat (x : Strand) (n t : Nat) (w : Bool) (v : Nat) : (x.setVal n t w v).fstat = x.fstat := by
  unfold Strand.setVal
  split <;> rfl
@[simp] theorem strand_setVal_llcslsel (x : Strand) (n t : Nat) (w : Bool) (v : Nat) : (x.setVal n t w v).llcslsel = x.llcslsel := by
  unfold Strand.setVal
  split <;> rfl
@[simp] theorem strand_setVal_llcprba (x : Strand) (n t : Nat) (w : Bool) (v : Nat) : (x.setVal n t w v).llcprba = x.llcprba := by
  unfold Strand.setVal
  split <;> rfl
@[simp] theorem strand_setVal_loops (x : Strand) (n t : Nat) (w : Bool) (v : Nat) : (x.setVal n t w v).loops = x.loops := by
  unfold Strand.setVal
  split <;> rfl
@[simp] theorem strand_setVal_divs (x : Strand) (n t : Nat) (w : Bool) (v : Nat) : (x.setVal n t w v).divs = x.divs := by
  unfold Strand.setVal
  split <;> rfl
@[simp] theorem strand_setVal_hmode (x : Strand) (n t : Nat) (w : Bool) (v : Nat) : (x.setVal n t w v).hmode = x.hmode := by
  unfold Strand.setVal
  split <;> rfl
@[simp] theorem strand_setVal_trapDepth (x : Strand) (n t : Nat) (w : Bool) (v : Nat) : (x.setVal n t w v).trapDepth = x.trapDepth := by
  unfold Strand.setVal
  split <;> rfl
@[simp] theorem strand_setVal_frameLog (x : Strand) (n t : Nat) (w : Bool) (v : Nat) : (x.setVal n t w v).frameLog = x.frameLog := by
  unfold Strand.setVal
  split <;> rfl
@[simp] theorem strand_setVal_hostHeld (x : Strand) (n t : Nat) (w : Bool) (v : Nat) : (x.setVal n t w v).hostHeld = x.hostHeld := by
  unfold Strand.setVal
  split <;> rfl
@[simp] theorem strand_setVal_waiting (x : Strand) (n t : Nat) (w : Bool) (v : Nat) : (x.setVal n t w v).waiting = x.waiting := by
  unfold Strand.setVal
  split <;> rfl
@[simp] theorem strand_setVal_waitSince (x : Strand) (n t : Nat) (w : Bool) (v : Nat) : (x.setVal n t w v).waitSince = x.waitSince := by
  unfold Strand.setVal
  split <;> rfl
@[simp] theorem strand_setVal_trap (x : Strand) (n t : Nat) (w : Bool) (v : Nat) : (x.setVal n t w v).trap = x.trap := by
  unfold Strand.setVal
  split <;> rfl
@[simp] theorem strand_setVal_afters (x : Strand) (n t : Nat) (w : Bool) (v : Nat) : (x.setVal n t w v).afters = x.afters := by
  unfold Strand.setVal
  split <;> rfl
@[simp] theorem strand_setVal_log (x : Strand) (n t : Nat) (w : Bool) (v : Nat) : (x.setVal n t w v).log = x.log := by
  unfold Strand.setVal
  split <;> rfl
@[simp] theorem strand_setVal_fills (x : Strand) (n t : Nat) (w : Bool) (v : Nat) : (x.setVal n t w v).fills = x.fills := by
  unfold Strand.setVal
  split <;> rfl
@[simp] theorem strand_setVal_barRec (x : Strand) (n t : Nat) (w : Bool) (v : Nat) : (x.setVal n t w v).barRec = x.barRec := by
  unfold Strand.setVal
  split <;> rfl
@[simp] theorem strand_setVal_joins (x : Strand) (n t : Nat) (w : Bool) (v : Nat) : (x.setVal n t w v).joins = x.joins := by
  unfold Strand.setVal
  split <;> rfl
@[simp] theorem strand_setVal_leases (x : Strand) (n t : Nat) (w : Bool) (v : Nat) : (x.setVal n t w v).leases = x.leases := by
  unfold Strand.setVal
  split <;> rfl
@[simp] theorem strand_setVal_guards (x : Strand) (n t : Nat) (w : Bool) (v : Nat) : (x.setVal n t w v).guards = x.guards := by
  unfold Strand.setVal
  split <;> rfl
@[simp] theorem strand_setVal_readySince (x : Strand) (n t : Nat) (w : Bool) (v : Nat) : (x.setVal n t w v).readySince = x.readySince := by
  unfold Strand.setVal
  split <;> rfl
@[simp] theorem strand_setVal_stallUntil (x : Strand) (n t : Nat) (w : Bool) (v : Nat) : (x.setVal n t w v).stallUntil = x.stallUntil := by
  unfold Strand.setVal
  split <;> rfl

@[simp] theorem strand_markEmpty_life (x : Strand) (n : Nat) : (x.markEmpty n).life = x.life := by
  unfold Strand.markEmpty
  split <;> rfl
@[simp] theorem strand_markEmpty_rid (x : Strand) (n : Nat) : (x.markEmpty n).rid = x.rid := by
  unfold Strand.markEmpty
  split <;> rfl
@[simp] theorem strand_markEmpty_cid (x : Strand) (n : Nat) : (x.markEmpty n).cid = x.cid := by
  unfold Strand.markEmpty
  split <;> rfl
@[simp] theorem strand_markEmpty_spawned (x : Strand) (n : Nat) : (x.markEmpty n).spawned = x.spawned := by
  unfold Strand.markEmpty
  split <;> rfl
@[simp] theorem strand_markEmpty_cidx (x : Strand) (n : Nat) : (x.markEmpty n).cidx = x.cidx := by
  unfold Strand.markEmpty
  split <;> rfl
@[simp] theorem strand_markEmpty_core (x : Strand) (n : Nat) : (x.markEmpty n).core = x.core := by
  unfold Strand.markEmpty
  split <;> rfl
@[simp] theorem strand_markEmpty_quad (x : Strand) (n : Nat) : (x.markEmpty n).quad = x.quad := by
  unfold Strand.markEmpty
  split <;> rfl
@[simp] theorem strand_markEmpty_slot (x : Strand) (n : Nat) : (x.markEmpty n).slot = x.slot := by
  unfold Strand.markEmpty
  split <;> rfl
@[simp] theorem strand_markEmpty_spill (x : Strand) (n : Nat) : (x.markEmpty n).spill = x.spill := by
  unfold Strand.markEmpty
  split <;> rfl
@[simp] theorem strand_markEmpty_allot (x : Strand) (n : Nat) : (x.markEmpty n).allot = x.allot := by
  unfold Strand.markEmpty
  split <;> rfl
@[simp] theorem strand_markEmpty_pc (x : Strand) (n : Nat) : (x.markEmpty n).pc = x.pc := by
  unfold Strand.markEmpty
  split <;> rfl
@[simp] theorem strand_markEmpty_amask (x : Strand) (n : Nat) : (x.markEmpty n).amask = x.amask := by
  unfold Strand.markEmpty
  split <;> rfl
@[simp] theorem strand_markEmpty_vregs (x : Strand) (n : Nat) : (x.markEmpty n).vregs = x.vregs := by
  unfold Strand.markEmpty
  split <;> rfl
@[simp] theorem strand_markEmpty_sregs (x : Strand) (n : Nat) : (x.markEmpty n).sregs = x.sregs := by
  unfold Strand.markEmpty
  split <;> rfl
@[simp] theorem strand_markEmpty_preds (x : Strand) (n : Nat) : (x.markEmpty n).preds = x.preds := by
  unfold Strand.markEmpty
  split <;> rfl
@[simp] theorem strand_markEmpty_curs (x : Strand) (n : Nat) : (x.markEmpty n).curs = x.curs := by
  unfold Strand.markEmpty
  split <;> rfl
@[simp] theorem strand_markEmpty_jidx (x : Strand) (n : Nat) : (x.markEmpty n).jidx = x.jidx := by
  unfold Strand.markEmpty
  split <;> rfl
@[simp] theorem strand_markEmpty_emptyPreds (x : Strand) (n : Nat) : (x.markEmpty n).emptyPreds = x.emptyPreds := by
  unfold Strand.markEmpty
  split <;> rfl
@[simp] theorem strand_markEmpty_frm (x : Strand) (n : Nat) : (x.markEmpty n).frm = x.frm := by
  unfold Strand.markEmpty
  split <;> rfl
@[simp] theorem strand_markEmpty_fstat (x : Strand) (n : Nat) : (x.markEmpty n).fstat = x.fstat := by
  unfold Strand.markEmpty
  split <;> rfl
@[simp] theorem strand_markEmpty_llcslsel (x : Strand) (n : Nat) : (x.markEmpty n).llcslsel = x.llcslsel := by
  unfold Strand.markEmpty
  split <;> rfl
@[simp] theorem strand_markEmpty_llcprba (x : Strand) (n : Nat) : (x.markEmpty n).llcprba = x.llcprba := by
  unfold Strand.markEmpty
  split <;> rfl
@[simp] theorem strand_markEmpty_loops (x : Strand) (n : Nat) : (x.markEmpty n).loops = x.loops := by
  unfold Strand.markEmpty
  split <;> rfl
@[simp] theorem strand_markEmpty_divs (x : Strand) (n : Nat) : (x.markEmpty n).divs = x.divs := by
  unfold Strand.markEmpty
  split <;> rfl
@[simp] theorem strand_markEmpty_hmode (x : Strand) (n : Nat) : (x.markEmpty n).hmode = x.hmode := by
  unfold Strand.markEmpty
  split <;> rfl
@[simp] theorem strand_markEmpty_trapDepth (x : Strand) (n : Nat) : (x.markEmpty n).trapDepth = x.trapDepth := by
  unfold Strand.markEmpty
  split <;> rfl
@[simp] theorem strand_markEmpty_frameLog (x : Strand) (n : Nat) : (x.markEmpty n).frameLog = x.frameLog := by
  unfold Strand.markEmpty
  split <;> rfl
@[simp] theorem strand_markEmpty_hostHeld (x : Strand) (n : Nat) : (x.markEmpty n).hostHeld = x.hostHeld := by
  unfold Strand.markEmpty
  split <;> rfl
@[simp] theorem strand_markEmpty_waiting (x : Strand) (n : Nat) : (x.markEmpty n).waiting = x.waiting := by
  unfold Strand.markEmpty
  split <;> rfl
@[simp] theorem strand_markEmpty_waitSince (x : Strand) (n : Nat) : (x.markEmpty n).waitSince = x.waitSince := by
  unfold Strand.markEmpty
  split <;> rfl
@[simp] theorem strand_markEmpty_trap (x : Strand) (n : Nat) : (x.markEmpty n).trap = x.trap := by
  unfold Strand.markEmpty
  split <;> rfl
@[simp] theorem strand_markEmpty_afters (x : Strand) (n : Nat) : (x.markEmpty n).afters = x.afters := by
  unfold Strand.markEmpty
  split <;> rfl
@[simp] theorem strand_markEmpty_log (x : Strand) (n : Nat) : (x.markEmpty n).log = x.log := by
  unfold Strand.markEmpty
  split <;> rfl
@[simp] theorem strand_markEmpty_fills (x : Strand) (n : Nat) : (x.markEmpty n).fills = x.fills := by
  unfold Strand.markEmpty
  split <;> rfl
@[simp] theorem strand_markEmpty_barRec (x : Strand) (n : Nat) : (x.markEmpty n).barRec = x.barRec := by
  unfold Strand.markEmpty
  split <;> rfl
@[simp] theorem strand_markEmpty_joins (x : Strand) (n : Nat) : (x.markEmpty n).joins = x.joins := by
  unfold Strand.markEmpty
  split <;> rfl
@[simp] theorem strand_markEmpty_leases (x : Strand) (n : Nat) : (x.markEmpty n).leases = x.leases := by
  unfold Strand.markEmpty
  split <;> rfl
@[simp] theorem strand_markEmpty_guards (x : Strand) (n : Nat) : (x.markEmpty n).guards = x.guards := by
  unfold Strand.markEmpty
  split <;> rfl
@[simp] theorem strand_markEmpty_readySince (x : Strand) (n : Nat) : (x.markEmpty n).readySince = x.readySince := by
  unfold Strand.markEmpty
  split <;> rfl
@[simp] theorem strand_markEmpty_stallUntil (x : Strand) (n : Nat) : (x.markEmpty n).stallUntil = x.stallUntil := by
  unfold Strand.markEmpty
  split <;> rfl
@[simp] theorem strand_markEmpty_bad (x : Strand) (n : Nat) : (x.markEmpty n).bad = x.bad := by
  unfold Strand.markEmpty
  split <;> rfl

@[simp] theorem strand_next_life (x : Strand) (n : Nat) : (x.next n).life = x.life := by
  unfold Strand.next
  split <;> rfl
@[simp] theorem strand_next_rid (x : Strand) (n : Nat) : (x.next n).rid = x.rid := by
  unfold Strand.next
  split <;> rfl
@[simp] theorem strand_next_cid (x : Strand) (n : Nat) : (x.next n).cid = x.cid := by
  unfold Strand.next
  split <;> rfl
@[simp] theorem strand_next_spawned (x : Strand) (n : Nat) : (x.next n).spawned = x.spawned := by
  unfold Strand.next
  split <;> rfl
@[simp] theorem strand_next_cidx (x : Strand) (n : Nat) : (x.next n).cidx = x.cidx := by
  unfold Strand.next
  split <;> rfl
@[simp] theorem strand_next_core (x : Strand) (n : Nat) : (x.next n).core = x.core := by
  unfold Strand.next
  split <;> rfl
@[simp] theorem strand_next_quad (x : Strand) (n : Nat) : (x.next n).quad = x.quad := by
  unfold Strand.next
  split <;> rfl
@[simp] theorem strand_next_slot (x : Strand) (n : Nat) : (x.next n).slot = x.slot := by
  unfold Strand.next
  split <;> rfl
@[simp] theorem strand_next_spill (x : Strand) (n : Nat) : (x.next n).spill = x.spill := by
  unfold Strand.next
  split <;> rfl
@[simp] theorem strand_next_allot (x : Strand) (n : Nat) : (x.next n).allot = x.allot := by
  unfold Strand.next
  split <;> rfl
@[simp] theorem strand_next_amask (x : Strand) (n : Nat) : (x.next n).amask = x.amask := by
  unfold Strand.next
  split <;> rfl
@[simp] theorem strand_next_vregs (x : Strand) (n : Nat) : (x.next n).vregs = x.vregs := by
  unfold Strand.next
  split <;> rfl
@[simp] theorem strand_next_sregs (x : Strand) (n : Nat) : (x.next n).sregs = x.sregs := by
  unfold Strand.next
  split <;> rfl
@[simp] theorem strand_next_preds (x : Strand) (n : Nat) : (x.next n).preds = x.preds := by
  unfold Strand.next
  split <;> rfl
@[simp] theorem strand_next_curs (x : Strand) (n : Nat) : (x.next n).curs = x.curs := by
  unfold Strand.next
  split <;> rfl
@[simp] theorem strand_next_jidx (x : Strand) (n : Nat) : (x.next n).jidx = x.jidx := by
  unfold Strand.next
  split <;> rfl
@[simp] theorem strand_next_empties (x : Strand) (n : Nat) : (x.next n).empties = x.empties := by
  unfold Strand.next
  split <;> rfl
@[simp] theorem strand_next_emptyPreds (x : Strand) (n : Nat) : (x.next n).emptyPreds = x.emptyPreds := by
  unfold Strand.next
  split <;> rfl
@[simp] theorem strand_next_frm (x : Strand) (n : Nat) : (x.next n).frm = x.frm := by
  unfold Strand.next
  split <;> rfl
@[simp] theorem strand_next_fstat (x : Strand) (n : Nat) : (x.next n).fstat = x.fstat := by
  unfold Strand.next
  split <;> rfl
@[simp] theorem strand_next_llcslsel (x : Strand) (n : Nat) : (x.next n).llcslsel = x.llcslsel := by
  unfold Strand.next
  split <;> rfl
@[simp] theorem strand_next_llcprba (x : Strand) (n : Nat) : (x.next n).llcprba = x.llcprba := by
  unfold Strand.next
  split <;> rfl
@[simp] theorem strand_next_divs (x : Strand) (n : Nat) : (x.next n).divs = x.divs := by
  unfold Strand.next
  split <;> rfl
@[simp] theorem strand_next_hmode (x : Strand) (n : Nat) : (x.next n).hmode = x.hmode := by
  unfold Strand.next
  split <;> rfl
@[simp] theorem strand_next_trapDepth (x : Strand) (n : Nat) : (x.next n).trapDepth = x.trapDepth := by
  unfold Strand.next
  split <;> rfl
@[simp] theorem strand_next_frameLog (x : Strand) (n : Nat) : (x.next n).frameLog = x.frameLog := by
  unfold Strand.next
  split <;> rfl
@[simp] theorem strand_next_hostHeld (x : Strand) (n : Nat) : (x.next n).hostHeld = x.hostHeld := by
  unfold Strand.next
  split <;> rfl
@[simp] theorem strand_next_waiting (x : Strand) (n : Nat) : (x.next n).waiting = x.waiting := by
  unfold Strand.next
  split <;> rfl
@[simp] theorem strand_next_waitSince (x : Strand) (n : Nat) : (x.next n).waitSince = x.waitSince := by
  unfold Strand.next
  split <;> rfl
@[simp] theorem strand_next_trap (x : Strand) (n : Nat) : (x.next n).trap = x.trap := by
  unfold Strand.next
  split <;> rfl
@[simp] theorem strand_next_afters (x : Strand) (n : Nat) : (x.next n).afters = x.afters := by
  unfold Strand.next
  split <;> rfl
@[simp] theorem strand_next_log (x : Strand) (n : Nat) : (x.next n).log = x.log := by
  unfold Strand.next
  split <;> rfl
@[simp] theorem strand_next_fills (x : Strand) (n : Nat) : (x.next n).fills = x.fills := by
  unfold Strand.next
  split <;> rfl
@[simp] theorem strand_next_barRec (x : Strand) (n : Nat) : (x.next n).barRec = x.barRec := by
  unfold Strand.next
  split <;> rfl
@[simp] theorem strand_next_joins (x : Strand) (n : Nat) : (x.next n).joins = x.joins := by
  unfold Strand.next
  split <;> rfl
@[simp] theorem strand_next_leases (x : Strand) (n : Nat) : (x.next n).leases = x.leases := by
  unfold Strand.next
  split <;> rfl
@[simp] theorem strand_next_guards (x : Strand) (n : Nat) : (x.next n).guards = x.guards := by
  unfold Strand.next
  split <;> rfl
@[simp] theorem strand_next_readySince (x : Strand) (n : Nat) : (x.next n).readySince = x.readySince := by
  unfold Strand.next
  split <;> rfl
@[simp] theorem strand_next_stallUntil (x : Strand) (n : Nat) : (x.next n).stallUntil = x.stallUntil := by
  unfold Strand.next
  split <;> rfl
@[simp] theorem strand_next_bad (x : Strand) (n : Nat) : (x.next n).bad = x.bad := by
  unfold Strand.next
  split <;> rfl

@[simp] theorem strand_jump_life (x : Strand) (a : BitVec 56) : (x.jump a).life = x.life := rfl
@[simp] theorem strand_jump_rid (x : Strand) (a : BitVec 56) : (x.jump a).rid = x.rid := rfl
@[simp] theorem strand_jump_cid (x : Strand) (a : BitVec 56) : (x.jump a).cid = x.cid := rfl
@[simp] theorem strand_jump_spawned (x : Strand) (a : BitVec 56) : (x.jump a).spawned = x.spawned := rfl
@[simp] theorem strand_jump_cidx (x : Strand) (a : BitVec 56) : (x.jump a).cidx = x.cidx := rfl
@[simp] theorem strand_jump_core (x : Strand) (a : BitVec 56) : (x.jump a).core = x.core := rfl
@[simp] theorem strand_jump_quad (x : Strand) (a : BitVec 56) : (x.jump a).quad = x.quad := rfl
@[simp] theorem strand_jump_slot (x : Strand) (a : BitVec 56) : (x.jump a).slot = x.slot := rfl
@[simp] theorem strand_jump_spill (x : Strand) (a : BitVec 56) : (x.jump a).spill = x.spill := rfl
@[simp] theorem strand_jump_allot (x : Strand) (a : BitVec 56) : (x.jump a).allot = x.allot := rfl
@[simp] theorem strand_jump_amask (x : Strand) (a : BitVec 56) : (x.jump a).amask = x.amask := rfl
@[simp] theorem strand_jump_vregs (x : Strand) (a : BitVec 56) : (x.jump a).vregs = x.vregs := rfl
@[simp] theorem strand_jump_sregs (x : Strand) (a : BitVec 56) : (x.jump a).sregs = x.sregs := rfl
@[simp] theorem strand_jump_preds (x : Strand) (a : BitVec 56) : (x.jump a).preds = x.preds := rfl
@[simp] theorem strand_jump_curs (x : Strand) (a : BitVec 56) : (x.jump a).curs = x.curs := rfl
@[simp] theorem strand_jump_jidx (x : Strand) (a : BitVec 56) : (x.jump a).jidx = x.jidx := rfl
@[simp] theorem strand_jump_empties (x : Strand) (a : BitVec 56) : (x.jump a).empties = x.empties := rfl
@[simp] theorem strand_jump_emptyPreds (x : Strand) (a : BitVec 56) : (x.jump a).emptyPreds = x.emptyPreds := rfl
@[simp] theorem strand_jump_frm (x : Strand) (a : BitVec 56) : (x.jump a).frm = x.frm := rfl
@[simp] theorem strand_jump_fstat (x : Strand) (a : BitVec 56) : (x.jump a).fstat = x.fstat := rfl
@[simp] theorem strand_jump_llcslsel (x : Strand) (a : BitVec 56) : (x.jump a).llcslsel = x.llcslsel := rfl
@[simp] theorem strand_jump_llcprba (x : Strand) (a : BitVec 56) : (x.jump a).llcprba = x.llcprba := rfl
@[simp] theorem strand_jump_divs (x : Strand) (a : BitVec 56) : (x.jump a).divs = x.divs := rfl
@[simp] theorem strand_jump_hmode (x : Strand) (a : BitVec 56) : (x.jump a).hmode = x.hmode := rfl
@[simp] theorem strand_jump_trapDepth (x : Strand) (a : BitVec 56) : (x.jump a).trapDepth = x.trapDepth := rfl
@[simp] theorem strand_jump_frameLog (x : Strand) (a : BitVec 56) : (x.jump a).frameLog = x.frameLog := rfl
@[simp] theorem strand_jump_hostHeld (x : Strand) (a : BitVec 56) : (x.jump a).hostHeld = x.hostHeld := rfl
@[simp] theorem strand_jump_waiting (x : Strand) (a : BitVec 56) : (x.jump a).waiting = x.waiting := rfl
@[simp] theorem strand_jump_waitSince (x : Strand) (a : BitVec 56) : (x.jump a).waitSince = x.waitSince := rfl
@[simp] theorem strand_jump_trap (x : Strand) (a : BitVec 56) : (x.jump a).trap = x.trap := rfl
@[simp] theorem strand_jump_afters (x : Strand) (a : BitVec 56) : (x.jump a).afters = x.afters := rfl
@[simp] theorem strand_jump_log (x : Strand) (a : BitVec 56) : (x.jump a).log = x.log := rfl
@[simp] theorem strand_jump_fills (x : Strand) (a : BitVec 56) : (x.jump a).fills = x.fills := rfl
@[simp] theorem strand_jump_barRec (x : Strand) (a : BitVec 56) : (x.jump a).barRec = x.barRec := rfl
@[simp] theorem strand_jump_joins (x : Strand) (a : BitVec 56) : (x.jump a).joins = x.joins := rfl
@[simp] theorem strand_jump_leases (x : Strand) (a : BitVec 56) : (x.jump a).leases = x.leases := rfl
@[simp] theorem strand_jump_guards (x : Strand) (a : BitVec 56) : (x.jump a).guards = x.guards := rfl
@[simp] theorem strand_jump_readySince (x : Strand) (a : BitVec 56) : (x.jump a).readySince = x.readySince := rfl
@[simp] theorem strand_jump_stallUntil (x : Strand) (a : BitVec 56) : (x.jump a).stallUntil = x.stallUntil := rfl
@[simp] theorem strand_jump_bad (x : Strand) (a : BitVec 56) : (x.jump a).bad = x.bad := rfl

/-! ## Registers (R16, R20) -/

/-- Uniform register s0 reads as 0. -/
@[simp] theorem strand_s_zero (x : Strand) : x.s 0 = 0 := rfl

/-- Predicate p7 reads as 1 for every thread. -/
@[simp] theorem strand_p_seven (x : Strand) : x.p 7 = 2 ^ 64 - 1 := rfl

/-- A write to s0 is discarded. -/
@[simp] theorem strand_setS_zero (x : Strand) (v : Nat) : x.setS 0 v = x := rfl

/-- A write to p7 is discarded. -/
@[simp] theorem strand_setP_seven (x : Strand) (v : Nat) : x.setP 7 v = x := rfl

end Sys2Proof.Laws
end

