-- ==== Sys2Proof/Laws/Issue.lean ====
section
/-! SUPPORT. The one form of every instruction that has words: it is held, it traps, or its own effect follows (State.issue).
With it, what each of the three comes to, and that every instruction and event answers a next state. -/

namespace Sys2Proof.Laws

open Sys2Proof.Machine

/-! ## What issuing comes to -/

theorem issue_go (s : State) (r : Raw) (f : Nat → State → State) (h : Ready s r) : s.issue r f = .next (f s.cur s) := by
  unfold State.issue
  rw [show (s.strand s.cur).gate r r.info = .go from h]

theorem issue_hold (s : State) (r : Raw) (f : Nat → State → State) (h : s.me.gate r r.info = .hold) :
    s.issue r f = .next s := by
  unfold State.issue
  rw [show (s.strand s.cur).gate r r.info = .hold from h]

theorem issue_trap (s : State) (r : Raw) (f : Nat → State → State) (c : Nat) (h : s.me.gate r r.info = .trap c)
    (hc : c ≠ clsUncorr) : s.issue r f = .next (s.fault s.cur r c 0) := by
  unfold State.issue
  rw [show (s.strand s.cur).gate r r.info = .trap c from h]
  simp [hc]

theorem issue_answers (s : State) (r : Raw) (f : Nat → State → State) : ∃ t, s.issue r f = .next t := by
  unfold State.issue
  split <;> exact ⟨_, rfl⟩

theorem issueStrand_go (s : State) (r : Raw) (f : Strand → Strand) (h : Ready s r) :
    s.issueStrand r f = .next (s.setStrand s.cur ((f s.me).next r.bytes)) := issue_go s r _ h

/-! ## Every instruction issues -/

/-- The meaning of an instruction with words is the issue of those words with an effect of its own. -/
theorem exec_issues (i : Instr) (r : Raw) (s : State) (h : toRaw i = some r) : ∃ f, exec i s = s.issue r f := by
  cases i <;> simp only [toRaw, Option.some.injEq, reduceCtorEq] at h <;> subst h
  case nop o => exact ⟨_, by simp only [exec, execNop, State.issueStrand]; rfl⟩
  case braW1b o => exact ⟨_, by simp only [exec, execBraW1b, State.branch]; rfl⟩
  case bra o => exact ⟨_, by simp only [exec, execBra, State.branch]; rfl⟩
  case brc o => exact ⟨_, by simp only [exec, execBrc]; rfl⟩
  case brx o => exact ⟨_, by simp only [exec, execBrx, State.branch]; rfl⟩
  case callW1b o => exact ⟨_, by simp only [exec, execCallW1b, State.branch]; rfl⟩
  case call o => exact ⟨_, by simp only [exec, execCall, State.branch]; rfl⟩
  case callx o => exact ⟨_, by simp only [exec, execCallx, State.branch]; rfl⟩
  case ret o => exact ⟨_, by simp only [exec, execRet, State.branch]; rfl⟩
  case loop o => exact ⟨_, by simp only [exec, execLoop]; rfl⟩
  case exit o => exact ⟨_, by simp only [exec, execExit]; rfl⟩
  case yield o => exact ⟨_, by simp only [exec, execYield]; rfl⟩
  case spawn o => exact ⟨_, by simp only [exec, execSpawn]; rfl⟩
  case launch o => exact ⟨_, by simp only [exec, execLaunch]; rfl⟩
  case join o => exact ⟨_, by simp only [exec, execJoin]; rfl⟩
  case trap o => exact ⟨_, by simp only [exec, execTrap]; rfl⟩
  case rett o => exact ⟨_, by simp only [exec, execRett]; rfl⟩
  case dbg o => exact ⟨_, by simp only [exec, execDbg]; rfl⟩
  case addW1a o => exact ⟨_, by simp only [exec, execAddW1a, State.runAlu, State.issueStrand]; rfl⟩
  case add o => exact ⟨_, by simp only [exec, execAdd, State.runAlu, State.issueStrand]; rfl⟩
  case subW1a o => exact ⟨_, by simp only [exec, execSubW1a, State.runAlu, State.issueStrand]; rfl⟩
  case sub o => exact ⟨_, by simp only [exec, execSub, State.runAlu, State.issueStrand]; rfl⟩
  case mulW1a o => exact ⟨_, by simp only [exec, execMulW1a, State.runAlu, State.issueStrand]; rfl⟩
  case mul o => exact ⟨_, by simp only [exec, execMul, State.runAlu, State.issueStrand]; rfl⟩
  case mulhW1a o => exact ⟨_, by simp only [exec, execMulhW1a, State.runAlu, State.issueStrand]; rfl⟩
  case mulh o => exact ⟨_, by simp only [exec, execMulh, State.runAlu, State.issueStrand]; rfl⟩
  case madW1a o => exact ⟨_, by simp only [exec, execMadW1a, State.runAlu, State.issueStrand]; rfl⟩
  case mad o => exact ⟨_, by simp only [exec, execMad, State.runAlu, State.issueStrand]; rfl⟩
  case divW1a o => exact ⟨_, by simp only [exec, execDivW1a, State.runDiv]; rfl⟩
  case divOp o => exact ⟨_, by simp only [exec, execDiv, State.runDiv]; rfl⟩
  case remW1a o => exact ⟨_, by simp only [exec, execRemW1a, State.runDiv]; rfl⟩
  case remOp o => exact ⟨_, by simp only [exec, execRem, State.runDiv]; rfl⟩
  case minW1a o => exact ⟨_, by simp only [exec, execMinW1a, State.runAlu, State.issueStrand]; rfl⟩
  case minOp o => exact ⟨_, by simp only [exec, execMin, State.runAlu, State.issueStrand]; rfl⟩
  case maxW1a o => exact ⟨_, by simp only [exec, execMaxW1a, State.runAlu, State.issueStrand]; rfl⟩
  case maxOp o => exact ⟨_, by simp only [exec, execMax, State.runAlu, State.issueStrand]; rfl⟩
  case absW1a o => exact ⟨_, by simp only [exec, execAbsW1a, State.runAlu, State.issueStrand]; rfl⟩
  case absOp o => exact ⟨_, by simp only [exec, execAbs, State.runAlu, State.issueStrand]; rfl⟩
  case andW1a o => exact ⟨_, by simp only [exec, execAndW1a, State.runAlu, State.issueStrand]; rfl⟩
  case andOp o => exact ⟨_, by simp only [exec, execAnd, State.runAlu, State.issueStrand]; rfl⟩
  case orW1a o => exact ⟨_, by simp only [exec, execOrW1a, State.runAlu, State.issueStrand]; rfl⟩
  case orOp o => exact ⟨_, by simp only [exec, execOr, State.runAlu, State.issueStrand]; rfl⟩
  case xorW1a o => exact ⟨_, by simp only [exec, execXorW1a, State.runAlu, State.issueStrand]; rfl⟩
  case xorOp o => exact ⟨_, by simp only [exec, execXor, State.runAlu, State.issueStrand]; rfl⟩
  case andnW1a o => exact ⟨_, by simp only [exec, execAndnW1a, State.runAlu, State.issueStrand]; rfl⟩
  case andn o => exact ⟨_, by simp only [exec, execAndn, State.runAlu, State.issueStrand]; rfl⟩
  case shlW1a o => exact ⟨_, by simp only [exec, execShlW1a, State.runAlu, State.issueStrand]; rfl⟩
  case shl o => exact ⟨_, by simp only [exec, execShl, State.runAlu, State.issueStrand]; rfl⟩
  case shrW1a o => exact ⟨_, by simp only [exec, execShrW1a, State.runAlu, State.issueStrand]; rfl⟩
  case shr o => exact ⟨_, by simp only [exec, execShr, State.runAlu, State.issueStrand]; rfl⟩
  case sarW1a o => exact ⟨_, by simp only [exec, execSarW1a, State.runAlu, State.issueStrand]; rfl⟩
  case sar o => exact ⟨_, by simp only [exec, execSar, State.runAlu, State.issueStrand]; rfl⟩
  case rolW1a o => exact ⟨_, by simp only [exec, execRolW1a, State.runAlu, State.issueStrand]; rfl⟩
  case rol o => exact ⟨_, by simp only [exec, execRol, State.runAlu, State.issueStrand]; rfl⟩
  case popcW1a o => exact ⟨_, by simp only [exec, execPopcW1a, State.runAlu, State.issueStrand]; rfl⟩
  case popc o => exact ⟨_, by simp only [exec, execPopc, State.runAlu, State.issueStrand]; rfl⟩
  case clzW1a o => exact ⟨_, by simp only [exec, execClzW1a, State.runAlu, State.issueStrand]; rfl⟩
  case clz o => exact ⟨_, by simp only [exec, execClz, State.runAlu, State.issueStrand]; rfl⟩
  case brevW1a o => exact ⟨_, by simp only [exec, execBrevW1a, State.runAlu, State.issueStrand]; rfl⟩
  case brev o => exact ⟨_, by simp only [exec, execBrev, State.runAlu, State.issueStrand]; rfl⟩
  case bfxW1a o => exact ⟨_, by simp only [exec, execBfxW1a, State.runAlu, State.issueStrand]; rfl⟩
  case bfx o => exact ⟨_, by simp only [exec, execBfx, State.runAlu, State.issueStrand]; rfl⟩
  case bfiW1a o => exact ⟨_, by simp only [exec, execBfiW1a, State.runAlu, State.issueStrand]; rfl⟩
  case bfi o => exact ⟨_, by simp only [exec, execBfi, State.runAlu, State.issueStrand]; rfl⟩
  case permW1a o => exact ⟨_, by simp only [exec, execPermW1a, State.runAlu, State.issueStrand]; rfl⟩
  case perm o => exact ⟨_, by simp only [exec, execPerm, State.runAlu, State.issueStrand]; rfl⟩
  case lea o => exact ⟨_, by simp only [exec, execLea, State.issueStrand]; rfl⟩
  case cmp o => exact ⟨_, by simp only [exec, execCmp, State.issueStrand]; rfl⟩
  case sel o => exact ⟨_, by simp only [exec, execSel, State.issueStrand]; rfl⟩
  case movW1a o => exact ⟨_, by simp only [exec, execMovW1a, State.runMov, State.issueStrand]; rfl⟩
  case mov o => exact ⟨_, by simp only [exec, execMov, State.runMov, State.issueStrand]; rfl⟩
  case moviW1i o => exact ⟨_, by simp only [exec, execMoviW1i, State.issueStrand]; rfl⟩
  case movi o => exact ⟨_, by simp only [exec, execMovi, State.issueStrand]; rfl⟩
  case movsW1a o => exact ⟨_, by simp only [exec, execMovsW1a, State.runMovs, State.issueStrand]; rfl⟩
  case movs o => exact ⟨_, by simp only [exec, execMovs, State.runMovs, State.issueStrand]; rfl⟩
  case csrr o => exact ⟨_, by simp only [exec, execCsrr]; rfl⟩
  case csrw o => exact ⟨_, by simp only [exec, execCsrw]; rfl⟩
  case faddW1a o => exact ⟨_, by simp only [exec, execFaddW1a, State.runFloat, State.issueStrand]; rfl⟩
  case fadd o => exact ⟨_, by simp only [exec, execFadd, State.runFloat, State.issueStrand]; rfl⟩
  case fsubW1a o => exact ⟨_, by simp only [exec, execFsubW1a, State.runFloat, State.issueStrand]; rfl⟩
  case fsub o => exact ⟨_, by simp only [exec, execFsub, State.runFloat, State.issueStrand]; rfl⟩
  case fmulW1a o => exact ⟨_, by simp only [exec, execFmulW1a, State.runFloat, State.issueStrand]; rfl⟩
  case fmul o => exact ⟨_, by simp only [exec, execFmul, State.runFloat, State.issueStrand]; rfl⟩
  case ffmaW1a o => exact ⟨_, by simp only [exec, execFfmaW1a, State.runFloat, State.issueStrand]; rfl⟩
  case ffma o => exact ⟨_, by simp only [exec, execFfma, State.runFloat, State.issueStrand]; rfl⟩
  case fminW1a o => exact ⟨_, by simp only [exec, execFminW1a, State.runFloat, State.issueStrand]; rfl⟩
  case fmin o => exact ⟨_, by simp only [exec, execFmin, State.runFloat, State.issueStrand]; rfl⟩
  case fmaxW1a o => exact ⟨_, by simp only [exec, execFmaxW1a, State.runFloat, State.issueStrand]; rfl⟩
  case fmax o => exact ⟨_, by simp only [exec, execFmax, State.runFloat, State.issueStrand]; rfl⟩
  case fcmpW1a o => exact ⟨_, by simp only [exec, execFcmpW1a, State.runFcmp, State.issueStrand]; rfl⟩
  case fcmp o => exact ⟨_, by simp only [exec, execFcmp, State.runFcmp, State.issueStrand]; rfl⟩
  case fclassW1a o => exact ⟨_, by simp only [exec, execFclassW1a, State.runFclass, State.issueStrand]; rfl⟩
  case fclass o => exact ⟨_, by simp only [exec, execFclass, State.runFclass, State.issueStrand]; rfl⟩
  case frcpW1a o => exact ⟨_, by simp only [exec, execFrcpW1a, State.runTransc]; rfl⟩
  case frcp o => exact ⟨_, by simp only [exec, execFrcp, State.runTransc]; rfl⟩
  case frsqW1a o => exact ⟨_, by simp only [exec, execFrsqW1a, State.runTransc]; rfl⟩
  case frsq o => exact ⟨_, by simp only [exec, execFrsq, State.runTransc]; rfl⟩
  case fsqrtW1a o => exact ⟨_, by simp only [exec, execFsqrtW1a, State.runTransc]; rfl⟩
  case fsqrt o => exact ⟨_, by simp only [exec, execFsqrt, State.runTransc]; rfl⟩
  case fexp2W1a o => exact ⟨_, by simp only [exec, execFexp2W1a, State.runTransc]; rfl⟩
  case fexp2 o => exact ⟨_, by simp only [exec, execFexp2, State.runTransc]; rfl⟩
  case flog2W1a o => exact ⟨_, by simp only [exec, execFlog2W1a, State.runTransc]; rfl⟩
  case flog2 o => exact ⟨_, by simp only [exec, execFlog2, State.runTransc]; rfl⟩
  case frndW1a o => exact ⟨_, by simp only [exec, execFrndW1a, State.runFloat, State.issueStrand]; rfl⟩
  case frnd o => exact ⟨_, by simp only [exec, execFrnd, State.runFloat, State.issueStrand]; rfl⟩
  case cvtW1a o => exact ⟨_, by simp only [exec, execCvtW1a, State.runCvt]; rfl⟩
  case cvt o => exact ⟨_, by simp only [exec, execCvt, State.runCvt]; rfl⟩
  case shfl o => exact ⟨_, by simp only [exec, execShfl, State.issueStrand]; rfl⟩
  case vote o => exact ⟨_, by simp only [exec, execVote, State.issueStrand]; rfl⟩
  case ballot o => exact ⟨_, by simp only [exec, execBallot, State.issueStrand]; rfl⟩
  case redx o => exact ⟨_, by simp only [exec, execRedx, State.issueStrand]; rfl⟩
  case scan o => exact ⟨_, by simp only [exec, execScan, State.issueStrand]; rfl⟩
  case matchOp o => exact ⟨_, by simp only [exec, execMatch, State.issueStrand]; rfl⟩
  case ld o => exact ⟨_, by simp only [exec, execLd]; rfl⟩
  case st o => exact ⟨_, by simp only [exec, execSt]; rfl⟩
  case ldl o => exact ⟨_, by simp only [exec, execLdl]; rfl⟩
  case stl o => exact ⟨_, by simp only [exec, execStl]; rfl⟩
  case prefL1 o => exact ⟨_, by simp only [exec, execPrefL1, State.runPref]; rfl⟩
  case prefLlc o => exact ⟨_, by simp only [exec, execPrefLlc, State.runPref]; rfl⟩
  case cleanL1 o => exact ⟨_, by simp only [exec, execCleanL1, State.runClean]; rfl⟩
  case cleanMem o => exact ⟨_, by simp only [exec, execCleanMem, State.runClean]; rfl⟩
  case dropL1 o => exact ⟨_, by simp only [exec, execDropL1, State.runClean]; rfl⟩
  case dropLlc o => exact ⟨_, by simp only [exec, execDropLlc, State.runClean]; rfl⟩
  case lock o => exact ⟨_, by simp only [exec, execLock, State.runPin]; rfl⟩
  case unlock o => exact ⟨_, by simp only [exec, execUnlock, State.runPin]; rfl⟩
  case atom o => exact ⟨_, by simp only [exec, execAtom]; rfl⟩
  case atoml o => exact ⟨_, by simp only [exec, execAtoml]; rfl⟩
  case lease o => exact ⟨_, by simp only [exec, execLease]; rfl⟩
  case unlease o => exact ⟨_, by simp only [exec, execUnlease]; rfl⟩
  case wait o => exact ⟨_, by simp only [exec, execWait]; rfl⟩
  case barArrive o => exact ⟨_, by simp only [exec, execBarArrive, State.runBar]; rfl⟩
  case barWait o => exact ⟨_, by simp only [exec, execBarWait, State.runBar]; rfl⟩
  case barSync o => exact ⟨_, by simp only [exec, execBarSync, State.runBar]; rfl⟩
  case barExpect o => exact ⟨_, by simp only [exec, execBarExpect, State.runBar]; rfl⟩
  case fenceAcq o => exact ⟨_, by simp only [exec, execFenceAcq, State.runFence]; rfl⟩
  case fenceRel o => exact ⟨_, by simp only [exec, execFenceRel, State.runFence]; rfl⟩
  case fenceAr o => exact ⟨_, by simp only [exec, execFenceAr, State.runFence]; rfl⟩
  case gbind o => exact ⟨_, by simp only [exec, execGbind, State.runGuard]; rfl⟩
  case acqX o => exact ⟨_, by simp only [exec, execAcqX, State.runAcq, State.runGuard]; rfl⟩
  case acqSh o => exact ⟨_, by simp only [exec, execAcqSh, State.runAcq, State.runGuard]; rfl⟩
  case rel o => exact ⟨_, by simp only [exec, execRel, State.runGuard]; rfl⟩
  case kopen o => exact ⟨_, by simp only [exec, execKopen, State.walkInstr, State.issueCursor]; rfl⟩
  case knext o => exact ⟨_, by simp only [exec, execKnext, State.walkInstr, State.issueCursor]; rfl⟩
  case kseek o => exact ⟨_, by simp only [exec, execKseek, State.walkInstr, State.issueCursor]; rfl⟩
  case ksetp o => exact ⟨_, by simp only [exec, execKsetp, State.walkInstr, State.issueCursor]; rfl⟩
  case kdesc o => exact ⟨_, by simp only [exec, execKdesc, State.walkInstr, State.issueCursor]; rfl⟩
  case kcoit o => exact ⟨_, by simp only [exec, execKcoit, State.walkInstr, State.issueCursor]; rfl⟩
  case ksplit o => exact ⟨_, by simp only [exec, execKsplit, State.walkInstr, State.issueCursor]; rfl⟩
  case kcrd o => exact ⟨_, by simp only [exec, execKcrd, State.walkInstr, State.issueCursor]; rfl⟩
  case kpos o => exact ⟨_, by simp only [exec, execKpos, State.issueCursor]; rfl⟩
  case kval o => exact ⟨_, by simp only [exec, execKval, State.walkInstr, State.issueCursor]; rfl⟩
  case kapp o => exact ⟨_, by simp only [exec, execKapp, State.issueCursor]; rfl⟩
  case kapm o => exact ⟨_, by simp only [exec, execKapm, State.walkInstr, State.issueCursor]; rfl⟩
  case kclose o => exact ⟨_, by simp only [exec, execKclose, State.issueCursor]; rfl⟩
  case kmov o => exact ⟨_, by simp only [exec, execKmov, State.issueCursor]; rfl⟩
  case ctinitQ o => exact ⟨_, by simp only [exec, execCtinitQ, State.runCtr]; rfl⟩
  case ctinitR o => exact ⟨_, by simp only [exec, execCtinitR, State.runCtr]; rfl⟩
  case ctinitExt o => exact ⟨_, by simp only [exec, execCtinitExt, State.runCtr]; rfl⟩
  case cttakeQ o => exact ⟨_, by simp only [exec, execCttakeQ, State.runCtr]; rfl⟩
  case cttakeR o => exact ⟨_, by simp only [exec, execCttakeR, State.runCtr]; rfl⟩
  case ctgive o => exact ⟨_, by simp only [exec, execCtgive, State.runCtr]; rfl⟩
  case ctread o => exact ⟨_, by simp only [exec, execCtread, State.runCtr]; rfl⟩
  case ctpeek o => exact ⟨_, by simp only [exec, execCtpeek, State.runCtr]; rfl⟩
  case ctdrop o => exact ⟨_, by simp only [exec, execCtdrop, State.runCtr]; rfl⟩
  case mfill o => exact ⟨_, by simp only [exec, execMfill, State.issueMatrix]; rfl⟩
  case mldw o => exact ⟨_, by simp only [exec, execMldw, State.issueMatrix]; rfl⟩
  case mswap o => exact ⟨_, by simp only [exec, execMswap, State.issueMatrix]; rfl⟩
  case mmul o => exact ⟨_, by simp only [exec, execMmul, State.issueMatrix]; rfl⟩
  case mzero o => exact ⟨_, by simp only [exec, execMzero, State.issueMatrix]; rfl⟩
  case mrd o => exact ⟨_, by simp only [exec, execMrd, State.issueMatrix]; rfl⟩
  case mwr o => exact ⟨_, by simp only [exec, execMwr, State.issueMatrix]; rfl⟩
  case mepi o => exact ⟨_, by simp only [exec, execMepi, State.issueMatrix]; rfl⟩
  case mepiRoute o => exact ⟨_, by simp only [exec, execMepiRoute, State.issueMatrix]; rfl⟩
  case mtopkAcc o => exact ⟨_, by simp only [exec, execMtopkAcc, State.issueMatrix]; rfl⟩
  case mtopkClr o => exact ⟨_, by simp only [exec, execMtopkClr, State.issueMatrix]; rfl⟩
  case mtopkOut o => exact ⟨_, by simp only [exec, execMtopkOut, State.issueMatrix]; rfl⟩
  case mchk o => exact ⟨_, by simp only [exec, execMchk, State.issueMatrix]; rfl⟩
  case mchkClr o => exact ⟨_, by simp only [exec, execMchkClr, State.issueMatrix]; rfl⟩
  case mchkRst o => exact ⟨_, by simp only [exec, execMchkRst, State.issueMatrix]; rfl⟩
  case mldt o => exact ⟨_, by simp only [exec, execMldt]; rfl⟩
  case xcopy o => exact ⟨_, by simp only [exec, execXcopy, State.issueCopy]; rfl⟩
  case xstore o => exact ⟨_, by simp only [exec, execXstore, State.issueCopy]; rfl⟩
  case xgather o => exact ⟨_, by simp only [exec, execXgather, State.issueCopy]; rfl⟩
  case xscat o => exact ⟨_, by simp only [exec, execXscat, State.issueCopy]; rfl⟩
  case xmcast o => exact ⟨_, by simp only [exec, execXmcast, State.issueCopy]; rfl⟩
  case xdisp o => exact ⟨_, by simp only [exec, execXdisp, State.issueExpert]; rfl⟩
  case xdispB o => exact ⟨_, by simp only [exec, execXdispB, State.issueExpert]; rfl⟩
  case xcomb o => exact ⟨_, by simp only [exec, execXcomb, State.issueExpert]; rfl⟩
  case xcombB o => exact ⟨_, by simp only [exec, execXcombB, State.issueExpert]; rfl⟩
  case tlbinvRange o => exact ⟨_, by simp only [exec, execTlbinvRange, State.runTlbinv]; rfl⟩
  case tlbinvAsid o => exact ⟨_, by simp only [exec, execTlbinvAsid, State.runTlbinv]; rfl⟩
  case tlbinvAll o => exact ⟨_, by simp only [exec, execTlbinvAll, State.runTlbinv]; rfl⟩
  case icinv o => exact ⟨_, by simp only [exec, execIcinv]; rfl⟩
  case mark o => exact ⟨_, by simp only [exec, execMark]; rfl⟩

end Sys2Proof.Laws
end

