-- ==== Sys2Proof/Laws/Memory.lean ====
section
/-! SUPPORT. The laws of memory: what a byte reads as after a write, that every operation that writes memory keeps its
canonical form, and which operations of the homes leave memory alone. -/

namespace Sys2Proof.Laws

open Sys2Proof.Machine

/-! ## Reading after writing -/

/-- A write leaves alone every address that it does not name. -/
theorem put_other (m : Memory) (ws : List (Nat × Byte)) (a : Nat) (h : ∀ w ∈ ws, w.1 ≠ a) :
    kvGet Memory.unlisted (m.put ws) a = kvGet Memory.unlisted m a := by
  unfold Memory.put
  induction ws generalizing m with
  | nil => rfl
  | cons w t ih =>
    rw [forEach_cons, ih _ (fun x hx => h x (List.mem_cons_of_mem _ hx))]
    exact kvGet_kvSet_ne _ _ _ _ _ (Ne.symm (h w (List.mem_cons_self)))

theorem mem_cellsOf (pa : Nat) (bs : List Byte) (w : Nat × Byte) (h : w ∈ cellsOf pa bs) :
    pa ≤ w.1 ∧ w.1 < pa + bs.length := by
  induction bs generalizing pa with
  | nil => simp [cellsOf] at h
  | cons b t ih =>
    simp only [cellsOf, List.mem_cons] at h
    rcases h with rfl | h
    · simp
    · have := ih (pa + 1) h
      simp only [List.length_cons]
      omega

/-- A byte after a block was put: the block's own inside it, the old one outside. -/
theorem put_block (m : Memory) (pa : Nat) (bs : List Byte) (a : Nat) :
    kvGet Memory.unlisted (m.put (cellsOf pa bs)) a
      = if pa ≤ a ∧ a < pa + bs.length then bs.getD (a - pa) 0#8 else kvGet Memory.unlisted m a := by
  induction bs generalizing m pa with
  | nil =>
    rw [if_neg (by simp only [List.length_nil]; omega)]
    rfl
  | cons b t ih =>
    have e : m.put (cellsOf pa (b :: t)) = (Memory.put (kvSet Memory.unlisted m pa b) (cellsOf (pa + 1) t)) := rfl
    rw [e, ih, kvGet_kvSet]
    simp only [List.length_cons]
    rcases Nat.lt_trichotomy a pa with h | h | h
    · rw [if_neg (by omega), if_neg (by omega), if_neg (by omega)]
    · subst h
      rw [if_neg (by omega), if_pos rfl, if_pos (by omega)]
      simp
    · by_cases h2 : a < pa + 1 + t.length
      · rw [if_pos (by omega), if_pos (by omega)]
        obtain ⟨k, rfl⟩ : ∃ k, a = pa + 1 + k := ⟨a - pa - 1, by omega⟩
        have e1 : pa + 1 + k - (pa + 1) = k := by omega
        have e2 : pa + 1 + k - pa = k + 1 := by omega
        rw [e1, e2, List.getD_cons_succ]
      · rw [if_neg (by omega), if_neg (by omega), if_neg (by omega)]

/-! ## The canonical form -/

theorem put_wf (m : Memory) (ws : List (Nat × Byte)) (h : m.wf = true) : (m.put ws).wf = true :=
  forEach_keeps (fun m => kvWf Memory.unlisted m = true) ws m _ h (fun m w hm => kvWf_kvSet _ m w.1 w.2 hm)

/-- The canonical form as a statement about the list: rising addresses, no byte that an unlisted address reads as. -/
theorem kvWf_iff {β : Type} [DecidableEq β] (dflt : β) (m : KV β) :
    kvWf dflt m = true ↔ m.Pairwise (fun a b => a.1 < b.1) ∧ ∀ c ∈ m, c.2 ≠ dflt := by
  have above : ∀ (m : KV β) (k : Nat), kvWf dflt m = true → (kvAbove k m = true ↔ ∀ c ∈ m, k < c.1) := by
    intro m
    induction m with
    | nil => simp [kvAbove]
    | cons p t ih =>
      obtain ⟨a, v⟩ := p
      intro k hw
      simp only [kvWf, Bool.and_eq_true, decide_eq_true_eq] at hw
      simp only [kvAbove, Bool.and_eq_true, decide_eq_true_eq, List.mem_cons, forall_eq_or_imp]
      rw [ih k hw.2]
  induction m with
  | nil => simp [kvWf]
  | cons p t ih =>
    obtain ⟨a, v⟩ := p
    simp only [kvWf, Bool.and_eq_true, decide_eq_true_eq, List.pairwise_cons, List.mem_cons, forall_eq_or_imp]
    constructor
    · rintro ⟨⟨h1, h2⟩, h3⟩
      exact ⟨⟨(above t a h3).1 h2, (ih.1 h3).1⟩, h1, (ih.1 h3).2⟩
    · rintro ⟨⟨h1, h2⟩, h3, h4⟩
      have h5 := ih.2 ⟨h2, h4⟩
      exact ⟨⟨h3, (above t a h5).2 h1⟩, h5⟩

theorem cellsOf_rising (pa : Nat) (bs : List Byte) : (cellsOf pa bs).Pairwise (fun a b => a.1 < b.1) := by
  induction bs generalizing pa with
  | nil => exact .nil
  | cons b t ih =>
    refine .cons (fun w hw => ?_) (ih (pa + 1))
    have := (mem_cellsOf (pa + 1) t w hw).1
    show pa < w.1
    omega

theorem splice_wf (m : Memory) (pa : Nat) (bs : List Byte) (h : m.wf = true) :
    (m.splice pa bs (cellsOf pa bs)).wf = true := by
  obtain ⟨h1, h2⟩ := (kvWf_iff _ _).1 h
  refine (kvWf_iff _ _).2 ⟨?_, ?_⟩
  · unfold Memory.splice
    rw [List.append_assoc, List.pairwise_append, List.pairwise_append]
    refine ⟨h1.filter _, ⟨(cellsOf_rising pa bs).filter _, h1.filter _, ?_⟩, ?_⟩
    · intro a ha b hb
      have h3 := mem_cellsOf pa bs a (List.mem_of_mem_filter ha)
      have h4 := (List.mem_filter.1 hb).2
      simp only [decide_eq_true_eq] at h4
      omega
    · intro a ha b hb
      have h3 := (List.mem_filter.1 ha).2
      simp only [decide_eq_true_eq] at h3
      rcases List.mem_append.1 hb with hb | hb
      · have h4 := mem_cellsOf pa bs b (List.mem_of_mem_filter hb)
        omega
      · have h4 := (List.mem_filter.1 hb).2
        simp only [decide_eq_true_eq] at h4
        omega
  · intro c hc
    simp only [Memory.splice, List.mem_append, List.mem_filter] at hc
    rcases hc with (⟨hc, -⟩ | ⟨-, hc⟩) | ⟨hc, -⟩
    · exact h2 c hc
    · simpa using hc
    · exact h2 c hc

/-- Memory at reset has the form. -/
theorem reset_wf : State.reset.mem.wf = true := rfl

/-! ## What leaves memory alone -/

@[simp] theorem setTag_mem (s : State) (k : Nat) (t : Option Tag) : (s.setTag k t).mem = s.mem := rfl

@[simp] theorem count_mem (s : State) (l w n : Nat) : (s.count l w n).mem = s.mem := rfl

@[simp] theorem setStamp_mem (s : State) (l : Nat) (x : Stamp) : (s.setStamp l x).mem = s.mem := rfl

@[simp] theorem laterRecord_mem (s : State) (c a : Nat) : (s.laterRecord c a).mem = s.mem := rfl

@[simp] theorem touch_mem (s : State) (l k : Nat) : (s.touch l k).mem = s.mem := by
  unfold State.touch
  refine forEach_same State.mem _ _ _ (fun x p => ?_)
  split_ifs <;> rfl

@[simp] theorem hbmSettle_mem (s : State) (l : Nat) (w : Bool) : (s.hbmSettle l w).mem = s.mem := by
  simp only [State.hbmSettle]
  split <;> rfl

@[simp] theorem dropTag_mem (s : State) (l k : Nat) : (s.dropTag l k).mem = s.mem := by
  unfold State.dropTag
  split
  · rfl
  · refine (forEach_same State.mem _ _ _ (fun x p => ?_)).trans ((setTag_mem _ k none).trans (hbmSettle_mem s _ _))
    split_ifs <;> rfl

@[simp] theorem makeRoom_mem (fuel : Nat) (s : State) (l k need n : Nat) : (s.makeRoom l k need fuel n).1.mem = s.mem := by
  induction fuel generalizing s n with
  | zero => rfl
  | succ fuel ih =>
    unfold State.makeRoom
    split_ifs
    · rfl
    · split
      · rfl
      · rw [ih, dropTag_mem]

@[simp] theorem fillWith_mem (s : State) (l : Nat) (bs : List Byte) : (s.fillWith l bs).mem = s.mem := by
  unfold State.fillWith
  split
  · simp
  · simp only
    split
    · split <;> first | rfl | (split <;> simp)
    · split_ifs <;> (simp only [touch_mem, count_mem, setTag_mem, makeRoom_mem]; split <;> first | rfl | (split <;> simp))

@[simp] theorem recompress_mem (s : State) (l k : Nat) (t : Tag) (a b : List Byte) : (s.recompress l k t a b).mem = s.mem := by
  simp only [State.recompress]
  split_ifs <;> simp

@[simp] theorem stampFrom_mem (s : State) (l w : Nat) (c : Option Nat) : (s.stampFrom l w c).mem = s.mem := by
  unfold State.stampFrom
  cases c <;> rfl

@[simp] theorem stampWrite_mem (s : State) (l : Nat) (c : Option Nat) : (s.stampWrite l c).mem = s.mem :=
  stampFrom_mem s l _ c

@[simp] theorem noteDev_mem (s : State) (l : Nat) : (s.noteDev l).mem = s.mem := by
  simp only [State.noteDev]
  split_ifs <;> simp

@[simp] theorem unpoison_mem (s : State) (ws : List (Nat × Byte)) : (s.unpoison ws).mem = s.mem := by
  unfold State.unpoison
  split_ifs <;> rfl

@[simp] theorem unseenWrite_mem (s : State) (pa n : Nat) : (s.unseenWrite pa n).mem = s.mem := rfl

@[simp] theorem freshenHost_mem (s : State) (l : Nat) : (s.freshenHost l).mem = s.mem := rfl

@[simp] theorem homeSeq_mem (s : State) (k : Nat) : (s.homeSeq k).2.mem = s.mem := rfl

@[simp] theorem freeBytes_mem (s : State) (n : Nat) : (s.freeBytes n).2.mem = s.mem := rfl

/-! ## What keeps the canonical form -/

/-- The recovery of a set's tags writes at most the bytes that HBM holds. -/
theorem recoverSet_wf (s : State) (l : Nat) (h : s.mem.wf = true) : (s.recoverSet l).mem.wf = true := by
  unfold State.recoverSet
  refine forEach_keeps (fun x : State => x.mem.wf = true) _ s _ h (fun x p hx => ?_)
  simp only
  split_ifs
  · rw [laterRecord_mem]
    refine put_wf _ _ ?_
    simpa using hx
  all_goals simpa using hx

theorem llcWrite_wf (s : State) (l : Nat) (b : Bool) (bs : List Byte) (h : s.mem.wf = true) :
    (s.llcWrite l b bs).mem.wf = true := by
  have hr := recoverSet_wf s l h
  simp only [State.llcWrite]
  split
  · simpa using hr
  · split
    · split_ifs <;> simpa using hr
    · simpa using hr

/-- A write that the device itself makes. -/
theorem devPut_wf (s : State) (pa : Nat) (bs : List Byte) (h : s.mem.wf = true) : (s.devPut pa bs).mem.wf = true := by
  unfold State.devPut
  refine forEach_keeps (fun x : State => x.mem.wf = true) _ _ _ (by simpa using h) (fun x l hx => ?_)
  simp only
  split_ifs
  · exact put_wf _ _ (recoverSet_wf x l hx)
  · exact put_wf _ _ hx

/-- A write of the device itself, performed now or put off. -/
theorem devWrite_wf (s : State) (pa : Nat) (bs : List Byte) (h : s.mem.wf = true) : (s.devWrite pa bs).mem.wf = true := by
  unfold State.devWrite
  split_ifs
  · refine forEach_keeps (fun x : State => x.mem.wf = true) _ _ _ h (fun x l hx => ?_)
    simpa using hx
  · exact devPut_wf s pa bs h

/-- What HBM holds once the dirty lines of the LLC are lost. -/
theorem hbmOnly_wf (s : State) (h : s.mem.wf = true) : s.hbmOnly.wf = true := by
  unfold State.hbmOnly
  refine forEach_keeps (fun m : Memory => m.wf = true) _ _ _ h (fun m p hm => ?_)
  split
  · split_ifs
    · exact put_wf _ _ hm
    · exact hm
  · exact hm

/-- An entry of the negative. -/
theorem negPut_wf (s : State) (e : List Byte) (h : s.mem.wf = true) : (s.negPut e).mem.wf = true :=
  devWrite_wf s _ e h

theorem negative_wf (s : State) (a b c d e f g : Nat) (h : s.mem.wf = true) : (s.negative a b c d e f g).mem.wf = true := by
  simp only [State.negative]
  split_ifs
  · exact h
  · exact h
  · exact h
  · exact negPut_wf _ _ h

theorem negativeAt_wf (s : State) (a b c d e f : Nat) (h : s.mem.wf = true) : (s.negativeAt a b c d e f).mem.wf = true := by
  unfold State.negativeAt
  split_ifs <;> exact negative_wf _ _ _ _ _ _ _ _ h

theorem negativeBank_wf (s : State) (a b c d e : Nat) (h : s.mem.wf = true) : (s.negativeBank a b c d e).mem.wf = true :=
  negative_wf _ _ _ _ _ _ _ _ h

@[simp] theorem noteWts_mem (s : State) (l c : Nat) : (s.noteWts l c).mem = s.mem := rfl

theorem finishWait_mem (s : State) (sid k : Nat) (e : LogEnt) : (s.finishWait sid k e).mem = s.mem := by
  simp only [State.finishWait]
  split_ifs <;> simp

/-- The end of a WAIT writes memory only through the negative. -/
theorem endWait_wf (s : State) (sid k : Nat) (e : LogEnt) (h : s.mem.wf = true) : (s.endWait sid k e).mem.wf = true := by
  have hf := finishWait_mem s sid k e
  unfold State.endWait
  split_ifs
  · exact h
  · unfold State.waitNegative
    split
    · rwa [hf]
    · split_ifs
      · exact negativeAt_wf _ _ _ _ _ _ _ (by rwa [hf])
      · exact negativeBank_wf _ _ _ _ _ _ (by rwa [hf])

/-- Monitors that look at a write: they write memory only through the negative. -/
theorem notify_wf (s : State) (sp : Strand → Raw → Bool) (lo n : Nat) (rd : Nat → Nat → Nat) (h : s.mem.wf = true) :
    (s.notify sp lo n rd).mem.wf = true := by
  unfold State.notify
  refine forEach_keeps (fun x : State => x.mem.wf = true) _ _ _ h (fun x p hx => ?_)
  refine forEach_keeps (fun x : State => x.mem.wf = true) _ _ _ hx (fun y q hy => ?_)
  simp only
  split_ifs <;> first
    | exact hy
    | exact endWait_wf _ _ _ _ hy

/-- A write performed at its home. -/
theorem homeWriteFrom_wf (s : State) (ws : List (Nat × Byte)) (w : Nat) (c : Option Nat) (h : s.mem.wf = true) :
    (s.homeWriteFrom ws w c).mem.wf = true := by
  unfold State.homeWriteFrom
  split
  · exact h
  · simp only
    refine notify_wf _ _ _ _ _ ?_
    split_ifs
    · exact put_wf _ _ (recoverSet_wf _ _ (by simpa using h))
    · rw [freshenHost_mem]
      exact put_wf _ _ (by simpa using h)

theorem homeWrite_wf (s : State) (ws : List (Nat × Byte)) (c : Option Nat) (h : s.mem.wf = true) :
    (s.homeWrite ws c).mem.wf = true := homeWriteFrom_wf s ws _ c h

@[simp] theorem noteBlocked_mem (s : State) (l : Nat) (c : Option Nat) : (s.noteBlocked l c).mem = s.mem := by
  simp only [State.noteBlocked]
  split_ifs <;> simp

@[simp] theorem setCopy_mem (s : State) (c : Nat) (x : Copy) : (s.setCopy c x).mem = s.mem := rfl

@[simp] theorem dropCopies_mem (s : State) (c : Nat) (p : Copy → Bool) : (s.dropCopies c p).mem = s.mem := rfl

/-- A write-back of dirty bytes. -/
theorem writeBack_wf (s : State) (c l : Nat) (h : s.mem.wf = true) : (s.writeBack c l).2.mem.wf = true := by
  simp only [State.writeBack]
  split
  · exact h
  · split_ifs
    · exact h
    · exact h
    · simpa using h
    · exact homeWrite_wf _ _ _ h
    · simpa using h

/-- An eviction from a core cache. -/
theorem evict_wf (s : State) (c k v : Nat) (h : s.mem.wf = true) : (s.evict c k v).mem.wf = true := by
  simp only [State.evict]
  split_ifs
  · simpa using h
  all_goals
    refine forEach_keeps (fun x : State => x.mem.wf = true) _ _ _ h (fun x l hx => ?_)
    split_ifs <;> first
      | exact hx
      | (rw [dropCopies_mem]; exact writeBack_wf _ _ _ hx)
      | exact writeBack_wf _ _ _ hx

/-- The free bytes of a spill record. -/
theorem spill_wf (s : State) (c pa : Nat) (h : s.mem.wf = true) : (s.spill c pa).mem.wf = true := by
  unfold State.spill
  refine forEach_keeps (fun x : State => x.mem.wf = true) _ _ _ (splice_wf _ _ _ h) (fun x l hx => ?_)
  split_ifs
  · rw [stampWrite_mem]
    exact llcWrite_wf _ _ _ _ hx
  · exact hx

end Sys2Proof.Laws
end

