-- ==== Sys2Proof/Laws/PerInstr.lean ====
section
/-! SUPPORT. What holds of each instruction as syntax, one lemma for each constructor: its words begin with word 0 of its
fields, and there are as many as its LEN states (R41); an event of the machine has none. -/

namespace Sys2Proof.Laws.Encodable

/-- The words of an instruction are those of its fields, in the number that LEN states. -/
def Statement (i : Instr) : Prop :=
  match toRaw i with
  | none => encode i = []
  | some r => (encode i).head? = some r.word0 ∧ (r.len ≠ 3#2 → 4 * (encode i).length = r.bytes)

/-- The words of some fields. -/
theorem of_raw (i : Instr) (r : Raw) (h : toRaw i = some r) : Statement i := by
  unfold Statement encode
  rw [h]
  obtain ⟨f, a, d, g, op, u, len, w1, w2⟩ := r
  have hl : ∀ x : BitVec 2, x = 0#2 ∨ x = 1#2 ∨ x = 2#2 ∨ x = 3#2 := by decide
  rcases hl len with rfl | rfl | rfl | rfl <;> simp [Raw.bytes]

/-- An event has no words. -/
theorem of_event (i : Instr) (h : toRaw i = none) : Statement i := by
  unfold Statement encode
  rw [h]

theorem nop (o : W1Ops) : Statement (.nop o) := of_raw _ _ rfl
theorem braW1b (o : BOps) : Statement (.braW1b o) := of_raw _ _ rfl
theorem bra (o : BWOps) : Statement (.bra o) := of_raw _ _ rfl
theorem brc (o : BWOps) : Statement (.brc o) := of_raw _ _ rfl
theorem brx (o : W1Ops) : Statement (.brx o) := of_raw _ _ rfl
theorem callW1b (o : BOps) : Statement (.callW1b o) := of_raw _ _ rfl
theorem call (o : BWOps) : Statement (.call o) := of_raw _ _ rfl
theorem callx (o : W1Ops) : Statement (.callx o) := of_raw _ _ rfl
theorem ret (o : W1Ops) : Statement (.ret o) := of_raw _ _ rfl
theorem loop (o : BWOps) : Statement (.loop o) := of_raw _ _ rfl
theorem exit (o : W1Ops) : Statement (.exit o) := of_raw _ _ rfl
theorem yield (o : W1Ops) : Statement (.yield o) := of_raw _ _ rfl
theorem spawn (o : AOps) : Statement (.spawn o) := of_raw _ _ rfl
theorem launch (o : AOps) : Statement (.launch o) := of_raw _ _ rfl
theorem join (o : AOps) : Statement (.join o) := of_raw _ _ rfl
theorem trap (o : IOps) : Statement (.trap o) := of_raw _ _ rfl
theorem rett (o : W1Ops) : Statement (.rett o) := of_raw _ _ rfl
theorem dbg (o : IOps) : Statement (.dbg o) := of_raw _ _ rfl
theorem addW1a (o : W1Ops) : Statement (.addW1a o) := of_raw _ _ rfl
theorem add (o : AOps) : Statement (.add o) := of_raw _ _ rfl
theorem subW1a (o : W1Ops) : Statement (.subW1a o) := of_raw _ _ rfl
theorem sub (o : AOps) : Statement (.sub o) := of_raw _ _ rfl
theorem mulW1a (o : W1Ops) : Statement (.mulW1a o) := of_raw _ _ rfl
theorem mul (o : AOps) : Statement (.mul o) := of_raw _ _ rfl
theorem mulhW1a (o : W1Ops) : Statement (.mulhW1a o) := of_raw _ _ rfl
theorem mulh (o : AOps) : Statement (.mulh o) := of_raw _ _ rfl
theorem madW1a (o : W1Ops) : Statement (.madW1a o) := of_raw _ _ rfl
theorem mad (o : AOps) : Statement (.mad o) := of_raw _ _ rfl
theorem divW1a (o : W1Ops) : Statement (.divW1a o) := of_raw _ _ rfl
theorem divOp (o : AOps) : Statement (.divOp o) := of_raw _ _ rfl
theorem remW1a (o : W1Ops) : Statement (.remW1a o) := of_raw _ _ rfl
theorem remOp (o : AOps) : Statement (.remOp o) := of_raw _ _ rfl
theorem minW1a (o : W1Ops) : Statement (.minW1a o) := of_raw _ _ rfl
theorem minOp (o : AOps) : Statement (.minOp o) := of_raw _ _ rfl
theorem maxW1a (o : W1Ops) : Statement (.maxW1a o) := of_raw _ _ rfl
theorem maxOp (o : AOps) : Statement (.maxOp o) := of_raw _ _ rfl
theorem absW1a (o : W1Ops) : Statement (.absW1a o) := of_raw _ _ rfl
theorem absOp (o : AOps) : Statement (.absOp o) := of_raw _ _ rfl
theorem andW1a (o : W1Ops) : Statement (.andW1a o) := of_raw _ _ rfl
theorem andOp (o : AOps) : Statement (.andOp o) := of_raw _ _ rfl
theorem orW1a (o : W1Ops) : Statement (.orW1a o) := of_raw _ _ rfl
theorem orOp (o : AOps) : Statement (.orOp o) := of_raw _ _ rfl
theorem xorW1a (o : W1Ops) : Statement (.xorW1a o) := of_raw _ _ rfl
theorem xorOp (o : AOps) : Statement (.xorOp o) := of_raw _ _ rfl
theorem andnW1a (o : W1Ops) : Statement (.andnW1a o) := of_raw _ _ rfl
theorem andn (o : AOps) : Statement (.andn o) := of_raw _ _ rfl
theorem shlW1a (o : W1Ops) : Statement (.shlW1a o) := of_raw _ _ rfl
theorem shl (o : AOps) : Statement (.shl o) := of_raw _ _ rfl
theorem shrW1a (o : W1Ops) : Statement (.shrW1a o) := of_raw _ _ rfl
theorem shr (o : AOps) : Statement (.shr o) := of_raw _ _ rfl
theorem sarW1a (o : W1Ops) : Statement (.sarW1a o) := of_raw _ _ rfl
theorem sar (o : AOps) : Statement (.sar o) := of_raw _ _ rfl
theorem rolW1a (o : W1Ops) : Statement (.rolW1a o) := of_raw _ _ rfl
theorem rol (o : AOps) : Statement (.rol o) := of_raw _ _ rfl
theorem popcW1a (o : W1Ops) : Statement (.popcW1a o) := of_raw _ _ rfl
theorem popc (o : AOps) : Statement (.popc o) := of_raw _ _ rfl
theorem clzW1a (o : W1Ops) : Statement (.clzW1a o) := of_raw _ _ rfl
theorem clz (o : AOps) : Statement (.clz o) := of_raw _ _ rfl
theorem brevW1a (o : W1Ops) : Statement (.brevW1a o) := of_raw _ _ rfl
theorem brev (o : AOps) : Statement (.brev o) := of_raw _ _ rfl
theorem bfxW1a (o : W1Ops) : Statement (.bfxW1a o) := of_raw _ _ rfl
theorem bfx (o : AOps) : Statement (.bfx o) := of_raw _ _ rfl
theorem bfiW1a (o : W1Ops) : Statement (.bfiW1a o) := of_raw _ _ rfl
theorem bfi (o : AOps) : Statement (.bfi o) := of_raw _ _ rfl
theorem permW1a (o : W1Ops) : Statement (.permW1a o) := of_raw _ _ rfl
theorem perm (o : AOps) : Statement (.perm o) := of_raw _ _ rfl
theorem lea (o : MOps) : Statement (.lea o) := of_raw _ _ rfl
theorem cmp (o : AOps) : Statement (.cmp o) := of_raw _ _ rfl
theorem sel (o : AOps) : Statement (.sel o) := of_raw _ _ rfl
theorem movW1a (o : W1Ops) : Statement (.movW1a o) := of_raw _ _ rfl
theorem mov (o : AOps) : Statement (.mov o) := of_raw _ _ rfl
theorem moviW1i (o : IOps) : Statement (.moviW1i o) := of_raw _ _ rfl
theorem movi (o : AOps) : Statement (.movi o) := of_raw _ _ rfl
theorem movsW1a (o : W1Ops) : Statement (.movsW1a o) := of_raw _ _ rfl
theorem movs (o : AOps) : Statement (.movs o) := of_raw _ _ rfl
theorem csrr (o : SOps) : Statement (.csrr o) := of_raw _ _ rfl
theorem csrw (o : SOps) : Statement (.csrw o) := of_raw _ _ rfl
theorem faddW1a (o : W1Ops) : Statement (.faddW1a o) := of_raw _ _ rfl
theorem fadd (o : AOps) : Statement (.fadd o) := of_raw _ _ rfl
theorem fsubW1a (o : W1Ops) : Statement (.fsubW1a o) := of_raw _ _ rfl
theorem fsub (o : AOps) : Statement (.fsub o) := of_raw _ _ rfl
theorem fmulW1a (o : W1Ops) : Statement (.fmulW1a o) := of_raw _ _ rfl
theorem fmul (o : AOps) : Statement (.fmul o) := of_raw _ _ rfl
theorem ffmaW1a (o : W1Ops) : Statement (.ffmaW1a o) := of_raw _ _ rfl
theorem ffma (o : AOps) : Statement (.ffma o) := of_raw _ _ rfl
theorem fminW1a (o : W1Ops) : Statement (.fminW1a o) := of_raw _ _ rfl
theorem fmin (o : AOps) : Statement (.fmin o) := of_raw _ _ rfl
theorem fmaxW1a (o : W1Ops) : Statement (.fmaxW1a o) := of_raw _ _ rfl
theorem fmax (o : AOps) : Statement (.fmax o) := of_raw _ _ rfl
theorem fcmpW1a (o : W1Ops) : Statement (.fcmpW1a o) := of_raw _ _ rfl
theorem fcmp (o : AOps) : Statement (.fcmp o) := of_raw _ _ rfl
theorem fclassW1a (o : W1Ops) : Statement (.fclassW1a o) := of_raw _ _ rfl
theorem fclass (o : AOps) : Statement (.fclass o) := of_raw _ _ rfl
theorem frcpW1a (o : W1Ops) : Statement (.frcpW1a o) := of_raw _ _ rfl
theorem frcp (o : AOps) : Statement (.frcp o) := of_raw _ _ rfl
theorem frsqW1a (o : W1Ops) : Statement (.frsqW1a o) := of_raw _ _ rfl
theorem frsq (o : AOps) : Statement (.frsq o) := of_raw _ _ rfl
theorem fsqrtW1a (o : W1Ops) : Statement (.fsqrtW1a o) := of_raw _ _ rfl
theorem fsqrt (o : AOps) : Statement (.fsqrt o) := of_raw _ _ rfl
theorem fexp2W1a (o : W1Ops) : Statement (.fexp2W1a o) := of_raw _ _ rfl
theorem fexp2 (o : AOps) : Statement (.fexp2 o) := of_raw _ _ rfl
theorem flog2W1a (o : W1Ops) : Statement (.flog2W1a o) := of_raw _ _ rfl
theorem flog2 (o : AOps) : Statement (.flog2 o) := of_raw _ _ rfl
theorem frndW1a (o : W1Ops) : Statement (.frndW1a o) := of_raw _ _ rfl
theorem frnd (o : AOps) : Statement (.frnd o) := of_raw _ _ rfl
theorem cvtW1a (o : W1Ops) : Statement (.cvtW1a o) := of_raw _ _ rfl
theorem cvt (o : AOps) : Statement (.cvt o) := of_raw _ _ rfl
theorem shfl (o : AOps) : Statement (.shfl o) := of_raw _ _ rfl
theorem vote (o : AOps) : Statement (.vote o) := of_raw _ _ rfl
theorem ballot (o : AOps) : Statement (.ballot o) := of_raw _ _ rfl
theorem redx (o : AOps) : Statement (.redx o) := of_raw _ _ rfl
theorem scan (o : AOps) : Statement (.scan o) := of_raw _ _ rfl
theorem matchOp (o : AOps) : Statement (.matchOp o) := of_raw _ _ rfl
theorem ld (o : MOps) : Statement (.ld o) := of_raw _ _ rfl
theorem st (o : MOps) : Statement (.st o) := of_raw _ _ rfl
theorem ldl (o : MOps) : Statement (.ldl o) := of_raw _ _ rfl
theorem stl (o : MOps) : Statement (.stl o) := of_raw _ _ rfl
theorem prefL1 (o : MOps) : Statement (.prefL1 o) := of_raw _ _ rfl
theorem prefLlc (o : MOps) : Statement (.prefLlc o) := of_raw _ _ rfl
theorem cleanL1 (o : MOps) : Statement (.cleanL1 o) := of_raw _ _ rfl
theorem cleanMem (o : MOps) : Statement (.cleanMem o) := of_raw _ _ rfl
theorem dropL1 (o : MOps) : Statement (.dropL1 o) := of_raw _ _ rfl
theorem dropLlc (o : MOps) : Statement (.dropLlc o) := of_raw _ _ rfl
theorem lock (o : MOps) : Statement (.lock o) := of_raw _ _ rfl
theorem unlock (o : MOps) : Statement (.unlock o) := of_raw _ _ rfl
theorem atom (o : MOps) : Statement (.atom o) := of_raw _ _ rfl
theorem atoml (o : MOps) : Statement (.atoml o) := of_raw _ _ rfl
theorem lease (o : MOps) : Statement (.lease o) := of_raw _ _ rfl
theorem unlease (o : MOps) : Statement (.unlease o) := of_raw _ _ rfl
theorem wait (o : MOps) : Statement (.wait o) := of_raw _ _ rfl
theorem barArrive (o : MOps) : Statement (.barArrive o) := of_raw _ _ rfl
theorem barWait (o : MOps) : Statement (.barWait o) := of_raw _ _ rfl
theorem barSync (o : MOps) : Statement (.barSync o) := of_raw _ _ rfl
theorem barExpect (o : MOps) : Statement (.barExpect o) := of_raw _ _ rfl
theorem fenceAcq (o : MOps) : Statement (.fenceAcq o) := of_raw _ _ rfl
theorem fenceRel (o : MOps) : Statement (.fenceRel o) := of_raw _ _ rfl
theorem fenceAr (o : MOps) : Statement (.fenceAr o) := of_raw _ _ rfl
theorem gbind (o : MOps) : Statement (.gbind o) := of_raw _ _ rfl
theorem acqX (o : MOps) : Statement (.acqX o) := of_raw _ _ rfl
theorem acqSh (o : MOps) : Statement (.acqSh o) := of_raw _ _ rfl
theorem rel (o : MOps) : Statement (.rel o) := of_raw _ _ rfl
theorem kopen (o : KOps) : Statement (.kopen o) := of_raw _ _ rfl
theorem knext (o : KOps) : Statement (.knext o) := of_raw _ _ rfl
theorem kseek (o : KOps) : Statement (.kseek o) := of_raw _ _ rfl
theorem ksetp (o : KOps) : Statement (.ksetp o) := of_raw _ _ rfl
theorem kdesc (o : KOps) : Statement (.kdesc o) := of_raw _ _ rfl
theorem kcoit (o : KOps) : Statement (.kcoit o) := of_raw _ _ rfl
theorem ksplit (o : KOps) : Statement (.ksplit o) := of_raw _ _ rfl
theorem kcrd (o : KOps) : Statement (.kcrd o) := of_raw _ _ rfl
theorem kpos (o : KOps) : Statement (.kpos o) := of_raw _ _ rfl
theorem kval (o : KOps) : Statement (.kval o) := of_raw _ _ rfl
theorem kapp (o : KOps) : Statement (.kapp o) := of_raw _ _ rfl
theorem kapm (o : KOps) : Statement (.kapm o) := of_raw _ _ rfl
theorem kclose (o : KOps) : Statement (.kclose o) := of_raw _ _ rfl
theorem kmov (o : KOps) : Statement (.kmov o) := of_raw _ _ rfl
theorem ctinitQ (o : MOps) : Statement (.ctinitQ o) := of_raw _ _ rfl
theorem ctinitR (o : MOps) : Statement (.ctinitR o) := of_raw _ _ rfl
theorem ctinitExt (o : MOps) : Statement (.ctinitExt o) := of_raw _ _ rfl
theorem cttakeQ (o : MOps) : Statement (.cttakeQ o) := of_raw _ _ rfl
theorem cttakeR (o : MOps) : Statement (.cttakeR o) := of_raw _ _ rfl
theorem ctgive (o : MOps) : Statement (.ctgive o) := of_raw _ _ rfl
theorem ctread (o : MOps) : Statement (.ctread o) := of_raw _ _ rfl
theorem ctpeek (o : MOps) : Statement (.ctpeek o) := of_raw _ _ rfl
theorem ctdrop (o : MOps) : Statement (.ctdrop o) := of_raw _ _ rfl
theorem mfill (o : YOps) : Statement (.mfill o) := of_raw _ _ rfl
theorem mldw (o : YOps) : Statement (.mldw o) := of_raw _ _ rfl
theorem mswap (o : YOps) : Statement (.mswap o) := of_raw _ _ rfl
theorem mmul (o : YOps) : Statement (.mmul o) := of_raw _ _ rfl
theorem mzero (o : YOps) : Statement (.mzero o) := of_raw _ _ rfl
theorem mrd (o : YOps) : Statement (.mrd o) := of_raw _ _ rfl
theorem mwr (o : YOps) : Statement (.mwr o) := of_raw _ _ rfl
theorem mepi (o : YOps) : Statement (.mepi o) := of_raw _ _ rfl
theorem mepiRoute (o : YOps) : Statement (.mepiRoute o) := of_raw _ _ rfl
theorem mtopkAcc (o : YOps) : Statement (.mtopkAcc o) := of_raw _ _ rfl
theorem mtopkClr (o : YOps) : Statement (.mtopkClr o) := of_raw _ _ rfl
theorem mtopkOut (o : YOps) : Statement (.mtopkOut o) := of_raw _ _ rfl
theorem mchk (o : YOps) : Statement (.mchk o) := of_raw _ _ rfl
theorem mchkClr (o : YOps) : Statement (.mchkClr o) := of_raw _ _ rfl
theorem mchkRst (o : YOps) : Statement (.mchkRst o) := of_raw _ _ rfl
theorem mldt (o : MOps) : Statement (.mldt o) := of_raw _ _ rfl
theorem xcopy (o : XOps) : Statement (.xcopy o) := of_raw _ _ rfl
theorem xstore (o : XOps) : Statement (.xstore o) := of_raw _ _ rfl
theorem xgather (o : XOps) : Statement (.xgather o) := of_raw _ _ rfl
theorem xscat (o : XOps) : Statement (.xscat o) := of_raw _ _ rfl
theorem xmcast (o : XOps) : Statement (.xmcast o) := of_raw _ _ rfl
theorem xdisp (o : XOps) : Statement (.xdisp o) := of_raw _ _ rfl
theorem xdispB (o : XOps) : Statement (.xdispB o) := of_raw _ _ rfl
theorem xcomb (o : XOps) : Statement (.xcomb o) := of_raw _ _ rfl
theorem xcombB (o : XOps) : Statement (.xcombB o) := of_raw _ _ rfl
theorem tlbinvRange (o : SOps) : Statement (.tlbinvRange o) := of_raw _ _ rfl
theorem tlbinvAsid (o : SOps) : Statement (.tlbinvAsid o) := of_raw _ _ rfl
theorem tlbinvAll (o : SOps) : Statement (.tlbinvAll o) := of_raw _ _ rfl
theorem icinv (o : SOps) : Statement (.icinv o) := of_raw _ _ rfl
theorem mark (o : SOps) : Statement (.mark o) := of_raw _ _ rfl
theorem yieldTimeout (sid : Nat) : Statement (.yieldTimeout sid) := of_event _ rfl
theorem spawnBinTimer (core : Nat) (bin : Nat) : Statement (.spawnBinTimer core bin) := of_event _ rfl
theorem spawnResidency (core : Nat) (bin : Nat) : Statement (.spawnResidency core bin) := of_event _ rfl
theorem joinTimeout (sid : Nat) : Statement (.joinTimeout sid) := of_event _ rfl
theorem divisionComplete (sid : Nat) (seq : Nat) : Statement (.divisionComplete sid seq) := of_event _ rfl
theorem transcendentalComplete (sid : Nat) (seq : Nat) : Statement (.transcendentalComplete sid seq) := of_event _ rfl
theorem loadDataArrival (sid : Nat) (slot : Nat) : Statement (.loadDataArrival sid slot) := of_event _ rfl
theorem atomicAtHome (sid : Nat) (slot : Nat) : Statement (.atomicAtHome sid slot) := of_event _ rfl
theorem leaseGrant (sid : Nat) (slot : Nat) : Statement (.leaseGrant sid slot) := of_event _ rfl
theorem leaseExpiry (core : Nat) (line : Nat) : Statement (.leaseExpiry core line) := of_event _ rfl
theorem swapOut (sid : Nat) : Statement (.swapOut sid) := of_event _ rfl
theorem strandRestore (sid : Nat) : Statement (.strandRestore sid) := of_event _ rfl
theorem guardGrant (guard : Nat) : Statement (.guardGrant guard) := of_event _ rfl
theorem writePerformed (sid : Nat) (slot : Nat) : Statement (.writePerformed sid slot) := of_event _ rfl
theorem strongReadAtHome (sid : Nat) (slot : Nat) : Statement (.strongReadAtHome sid slot) := of_event _ rfl
theorem l1WriteBack (core : Nat) (line : Nat) : Statement (.l1WriteBack core line) := of_event _ rfl
theorem trapEntry (sid : Nat) : Statement (.trapEntry sid) := of_event _ rfl
theorem triageReturn (who : FaultOf) : Statement (.triageReturn who) := of_event _ rfl
theorem homeCtinit (sid : Nat) (slot : Nat) (thread : Nat) : Statement (.homeCtinit sid slot thread) := of_event _ rfl
theorem homeQuantityTake (sid : Nat) (slot : Nat) (thread : Nat) : Statement (.homeQuantityTake sid slot thread) := of_event _ rfl
theorem homeRangeTake (sid : Nat) (slot : Nat) (thread : Nat) : Statement (.homeRangeTake sid slot thread) := of_event _ rfl
theorem counterRecall (core : Nat) (block : Nat) : Statement (.counterRecall core block) := of_event _ rfl
theorem giveFlush (sid : Nat) (slot : Nat) (thread : Nat) : Statement (.giveFlush sid slot thread) := of_event _ rfl
theorem exactRead (sid : Nat) (slot : Nat) (thread : Nat) : Statement (.exactRead sid slot thread) := of_event _ rfl
theorem counterReturn (core : Nat) (block : Nat) (init : Nat) (piece : Bool) : Statement (.counterReturn core block init piece) := of_event _ rfl
theorem matrixEntryStart (core : Nat) (ident : Nat) : Statement (.matrixEntryStart core ident) := of_event _ rfl
theorem matrixCompletion (core : Nat) (ident : Nat) : Statement (.matrixCompletion core ident) := of_event _ rfl
theorem powerLeaveRetry (core : Nat) (ident : Nat) : Statement (.powerLeaveRetry core ident) := of_event _ rfl
theorem copyCommandStart (core : Nat) (ident : Nat) : Statement (.copyCommandStart core ident) := of_event _ rfl
theorem copyTileReturn (core : Nat) (ident : Nat) (tile : Nat) : Statement (.copyTileReturn core ident tile) := of_event _ rfl
theorem dispatchRecord (die : Nat) (engine : Nat) : Statement (.dispatchRecord die engine) := of_event _ rfl
theorem dispatchInstant (die : Nat) (engine : Nat) : Statement (.dispatchInstant die engine) := of_event _ rfl
theorem batchCloseWindow (lcb : Nat) (expert : Nat) : Statement (.batchCloseWindow lcb expert) := of_event _ rfl
theorem productSpawnRetry (lcb : Nat) (expert : Nat) : Statement (.productSpawnRetry lcb expert) := of_event _ rfl
theorem cohortPlacement (die : Nat) : Statement (.cohortPlacement die) := of_event _ rfl
theorem preemptDrainComplete (rid : Nat) : Statement (.preemptDrainComplete rid) := of_event _ rfl
theorem shutterExpiry (rid : Nat) : Statement (.shutterExpiry rid) := of_event _ rfl
theorem ageingStep (rid : Nat) : Statement (.ageingStep rid) := of_event _ rfl
theorem pageWalk (die : Nat) (asid : Nat) (vpage : Nat) : Statement (.pageWalk die asid vpage) := of_event _ rfl
theorem llcProbe (sid : Nat) (dst : Nat) : Statement (.llcProbe sid dst) := of_event _ rfl
theorem llcCounterRead (sid : Nat) (csr : Nat) (dst : Nat) : Statement (.llcCounterRead sid csr dst) := of_event _ rfl
theorem ltTick (core : Nat) : Statement (.ltTick core) := of_event _ rfl
theorem holdingEndMessage (core : Nat) (line : Nat) (ver : Nat) (bytes : List (Nat × Byte)) : Statement (.holdingEndMessage core line ver bytes) := of_event _ rfl
theorem wsRefreshWindow (bank : Nat) (opens : Bool) : Statement (.wsRefreshWindow bank opens) := of_event _ rfl
theorem flitDelivery (flit : Flit) : Statement (.flitDelivery flit) := of_event _ rfl
theorem portRetrain (port : Nat) : Statement (.portRetrain port) := of_event _ rfl
theorem powerTopup (target0 : Nat) (target1 : Nat) : Statement (.powerTopup target0 target1) := of_event _ rfl
theorem contactSheetWrite (rid : Nat) : Statement (.contactSheetWrite rid) := of_event _ rfl
theorem ptpMessageTimer (port : Nat) (kind : Nat) : Statement (.ptpMessageTimer port kind) := of_event _ rfl
theorem rebuildSpacingEnd (group : Nat) : Statement (.rebuildSpacingEnd group) := of_event _ rfl
theorem triageRepair (who : FaultOf) (writes : List (Nat × DWord)) : Statement (.triageRepair who writes) := of_event _ rfl
theorem heapGrowth (sid : Nat) (slot : Nat) (grant : HeapGrant) : Statement (.heapGrowth sid slot grant) := of_event _ rfl
theorem hostTlbinv (sel : Nat) (asid : Nat) (base : Nat) (len : Nat) : Statement (.hostTlbinv sel asid base len) := of_event _ rfl
theorem windowLaunch (asid : Nat) (rcb : Nat) (priv : Bool) : Statement (.windowLaunch asid rcb priv) := of_event _ rfl
theorem windowPreempt (asid : Nat) (rcb : Nat) (priv : Bool) : Statement (.windowPreempt asid rcb priv) := of_event _ rfl
theorem windowKill (asid : Nat) (rcb : Nat) (priv : Bool) : Statement (.windowKill asid rcb priv) := of_event _ rfl
theorem windowResume (asid : Nat) (rcb : Nat) (priv : Bool) : Statement (.windowResume asid rcb priv) := of_event _ rfl
theorem windowFault (asid : Nat) (rcb : Nat) (priv : Bool) : Statement (.windowFault asid rcb priv) := of_event _ rfl
theorem ctxkillWrite (asid : Nat) : Statement (.ctxkillWrite asid) := of_event _ rfl
theorem hostTranslationAnswer (die : Nat) (asid : Nat) (vpage : Nat) (leaf : Option (DWord × Nat)) : Statement (.hostTranslationAnswer die asid vpage leaf) := of_event _ rfl
theorem llcFill (line : Nat) : Statement (.llcFill line) := of_event _ rfl
theorem copyRenewal (core : Nat) (cache : Nat) (asid : Nat) (vline : Nat) : Statement (.copyRenewal core cache asid vline) := of_event _ rfl
theorem epochFlip : Statement (.epochFlip) := of_event _ rfl
theorem safelightEntry (core : Nat) : Statement (.safelightEntry core) := of_event _ rfl
theorem safelightWake (core : Nat) : Statement (.safelightWake core) := of_event _ rfl
theorem hostSnoop (line : Nat) : Statement (.hostSnoop line) := of_event _ rfl
theorem hostMemRead (addr : Nat) (len : Nat) : Statement (.hostMemRead addr len) := of_event _ rfl
theorem hostMemWrite (addr : Nat) (bytes : List Byte) : Statement (.hostMemWrite addr bytes) := of_event _ rfl
theorem hostGoReceipt : Statement (.hostGoReceipt) := of_event _ rfl
theorem hostSharedFill (core : Nat) (cache : Nat) (asid : Nat) (vline : Nat) : Statement (.hostSharedFill core cache asid vline) := of_event _ rfl
theorem mgmtWindowAccess (die : Nat) (csr : Nat) (write : Option DWord) : Statement (.mgmtWindowAccess die csr write) := of_event _ rfl
theorem registerWrite (who : Writer) (csr : Nat) (value : DWord) : Statement (.registerWrite who csr value) := of_event _ rfl
theorem minjWrite (who : Writer) (value : DWord) : Statement (.minjWrite who value) := of_event _ rfl
theorem modeselWrite (who : Writer) (value : DWord) : Statement (.modeselWrite who value) := of_event _ rfl
theorem pwrctlWrite (who : Writer) (value : DWord) : Statement (.pwrctlWrite who value) := of_event _ rfl
theorem vsetWrite (who : Writer) (value : DWord) : Statement (.vsetWrite who value) := of_event _ rfl
theorem leaselenWrite (who : Writer) (value : DWord) : Statement (.leaselenWrite who value) := of_event _ rfl
theorem dtsetWrite (who : Writer) (value : DWord) : Statement (.dtsetWrite who value) := of_event _ rfl
theorem hbmerrRead (stack : Nat) : Statement (.hbmerrRead stack) := of_event _ rfl
theorem atnonceWrite (word : Nat) (value : DWord) : Statement (.atnonceWrite word value) := of_event _ rfl
theorem attestationReport : Statement (.attestationReport) := of_event _ rfl
theorem hbmPatrolScrub (stack : Nat) (bad : List (Nat × Bool)) : Statement (.hbmPatrolScrub stack bad) := of_event _ rfl
theorem flitRead (flit : Flit) : Statement (.flitRead flit) := of_event _ rfl
theorem flitWrite (flit : Flit) : Statement (.flitWrite flit) := of_event _ rfl
theorem flitCompletion (flit : Flit) : Statement (.flitCompletion flit) := of_event _ rfl
theorem flitContribution (flit : Flit) : Statement (.flitContribution flit) := of_event _ rfl
theorem flitPtp (flit : Flit) : Statement (.flitPtp flit) := of_event _ rfl
theorem flitAck (flit : Flit) : Statement (.flitAck flit) := of_event _ rfl
theorem flitNak (flit : Flit) : Statement (.flitNak flit) := of_event _ rfl
theorem memberFailure (peer : Nat) : Statement (.memberFailure peer) := of_event _ rfl
theorem currentCap (hot : Bool) : Statement (.currentCap hot) := of_event _ rfl
theorem thermalThrottle (hot : Bool) : Statement (.thermalThrottle hot) := of_event _ rfl
theorem thermalTrip : Statement (.thermalTrip) := of_event _ rfl
theorem deviceReset (imageOk : Bool) (retire : List (Nat × Nat)) : Statement (.deviceReset imageOk retire) := of_event _ rfl
theorem uzoipDiscardedAccess (die : Nat) (access : FwAccess) : Statement (.uzoipDiscardedAccess die access) := of_event _ rfl
theorem lifetimeRecord : Statement (.lifetimeRecord) := of_event _ rfl
theorem contactSheet : Statement (.contactSheet) := of_event _ rfl
theorem crcFailedFlit (port : Nat) : Statement (.crcFailedFlit port) := of_event _ rfl
theorem lossOfPower : Statement (.lossOfPower) := of_event _ rfl
theorem bisnpReply (line : Nat) (bytes : List (Nat × Byte)) : Statement (.bisnpReply line bytes) := of_event _ rfl

end Sys2Proof.Laws.Encodable
end

