-- ==== Sys2Proof/Laws/Results.lean ====
section
/-! SUPPORT. Registers after a write, and what delivering the results of all threads does: each executing thread's
destination holds its result, and nothing else has changed. -/

namespace Sys2Proof.Laws

open Sys2Proof.Machine

/-! ## One register -/

theorem v_setV (x : Strand) (n t v m u : Nat) (ht : t < 64) (hu : u < 64) :
    (x.setV n t v).v m u = if m = n ∧ u = t then v % 2 ^ 32 else x.v m u := by
  unfold Strand.v Strand.setV
  simp only [kvGet_kvSet]
  by_cases h : m * 64 + u = n * 64 + t
  · have h1 : m = n ∧ u = t := by omega
    simp [h1]
  · have h1 : ¬(m = n ∧ u = t) := by rintro ⟨rfl, rfl⟩; exact h rfl
    simp [h, h1]

theorem s_setS (x : Strand) (n v m : Nat) : (x.setS n v).s m = if m = n ∧ n ≠ 0 then v % 2 ^ 64 else x.s m := by
  unfold Strand.setS
  by_cases hn : n = 0
  · simp [hn]
  · rw [if_neg hn]
    unfold Strand.s
    by_cases hm : m = 0
    · simp [hm, Ne.symm hn]
    · simp only [hm, if_false, kvGet_kvSet]
      by_cases h : m = n <;> simp [h, hn]

theorem v_setVal (x : Strand) (n t v m u : Nat) (w : Bool) (ht : t < 64) (hu : u < 64) :
    (x.setVal n t w v).v m u =
      if u = t ∧ m = n then v % 2 ^ 32
      else if u = t ∧ m = n + 1 ∧ w = true then v / 2 ^ 32 % 2 ^ 32 else x.v m u := by
  cases w
  · simp only [Strand.setVal, Bool.false_eq_true, if_false, and_false]
    rw [v_setV _ _ _ _ _ _ ht hu]
    by_cases h : m = n ∧ u = t
    · simp [h.1, h.2]
    · rw [if_neg h, if_neg (by tauto)]
  · simp only [Strand.setVal, if_true, and_true]
    rw [v_setV _ _ _ _ _ _ ht hu, v_setV _ _ _ _ _ _ ht hu]
    by_cases h1 : u = t
    · by_cases h2 : m = n
      · subst h2
        simp [h1]
      · by_cases h3 : m = n + 1 <;> simp [h1, h2, h3]
    · simp [h1]

@[simp] theorem s_setVal (x : Strand) (n t v m : Nat) (w : Bool) : (x.setVal n t w v).s m = x.s m := by
  cases w <;> rfl

/-! ## Results of all threads -/

/-- What a run of results into vector registers leaves: the last result of each thread, and the rest. -/
theorem putAll_vec (r : Raw) (w : Bool) (l : List (Nat × Nat)) (x : Strand) (hu : r.uniform r.info = false)
    (hl : ∀ p ∈ l, p.1 < 64) (hn : (l.map Prod.fst).Nodup) :
    (∀ n t, t < 64 → t ∉ l.map Prod.fst → (x.putAll r w l).v n t = x.v n t)
    ∧ (∀ p ∈ l, (x.putAll r w l).v (x.eff r r.d.toNat) p.1 = p.2 % 2 ^ 32
        ∧ (w = true → (x.putAll r w l).v (x.eff r r.d.toNat + 1) p.1 = p.2 / 2 ^ 32 % 2 ^ 32))
    ∧ (∀ n t, t < 64 → n ≠ x.eff r r.d.toNat → (w = true → n ≠ x.eff r r.d.toNat + 1) → (x.putAll r w l).v n t = x.v n t)
    ∧ ∃ vr bd, x.putAll r w l = { x with vregs := vr, bad := bd } := by
  induction l generalizing x with
  | nil => exact ⟨fun _ _ _ _ => rfl, by simp, fun _ _ _ _ _ => rfl, x.vregs, x.bad, rfl⟩
  | cons p t ih =>
    obtain ⟨a, v⟩ := p
    have ha : a < 64 := hl (a, v) (by simp)
    simp only [List.map_cons, List.nodup_cons] at hn
    have hy : x.putAll r w ((a, v) :: t) = (x.setVal (x.eff r r.d.toNat) a w v).putAll r w t := by
      simp [Strand.putAll, Strand.putRes, hu]
    have he : (x.setVal (x.eff r r.d.toNat) a w v).eff r r.d.toNat = x.eff r r.d.toNat := by
      cases w <;> rfl
    obtain ⟨i1, i2, i3, vr, bd, i4⟩ := ih (x.setVal (x.eff r r.d.toNat) a w v) (fun q hq => hl q (by simp [hq])) hn.2
    rw [he] at i2 i3
    rw [hy]
    refine ⟨?_, ?_, ?_, vr, bd, ?_⟩
    · intro n u hu' hm
      simp only [List.map_cons, List.mem_cons, not_or] at hm
      rw [i1 n u hu' hm.2, v_setVal _ _ _ _ _ _ _ ha hu']
      simp [hm.1]
    · intro q hq
      simp only [List.mem_cons] at hq
      rcases hq with rfl | hq
      · constructor
        · rw [i1 _ _ ha hn.1, v_setVal _ _ _ _ _ _ _ ha ha]
          simp
        · intro hw
          rw [i1 _ _ ha hn.1, v_setVal _ _ _ _ _ _ _ ha ha]
          simp [hw]
      · exact i2 q hq
    · intro n u hu' h1 h2
      rw [i3 n u hu' h1 h2, v_setVal _ _ _ _ _ _ _ ha hu', if_neg (by tauto), if_neg (by tauto)]
    · rw [i4]
      cases w <;> rfl

/-- A strand with the program counter, the loops and the mode of another goes on as that one does. -/
theorem goneOn (x y : Strand) (r : Raw) (hp : y.pc = x.pc) (hl : y.loops = x.loops) (hh : y.hmode = x.hmode) :
    GoneOn x (y.next r.bytes) r := by
  unfold GoneOn Strand.next
  rw [hp, hl, hh]
  split <;> exact ⟨rfl, rfl⟩

theorem mem_active (x : Strand) (t : Nat) (h : t ∈ x.active) : t < 64 := ((mem_threadsOf _ _).1 h).1

theorem natsFrom_pairwise (a n : Nat) : (natsFrom a n).Nodup := by
  induction n generalizing a with
  | zero => exact List.nodup_nil
  | succ n ih =>
    refine List.nodup_cons.2 ⟨?_, ih (a + 1)⟩
    rw [mem_natsFrom]
    omega

theorem active_nodup (x : Strand) : x.active.Nodup := (natsFrom_pairwise 0 64).filter _

/-- Results of an instruction written to its destination, and the strand gone on, deliver them. -/
theorem putAll_delivers (x : Strand) (r : Raw) (w : Bool) (f : Nat → Nat) :
    Delivers x ((x.putAll r w (x.results r f)).next r.bytes) r w f := by
  unfold Delivers
  by_cases hu : r.uniform r.info = true
  · have hr : x.results r f = [(x.lowest, f x.lowest)] := by simp [Strand.results, Strand.doers, hu]
    have hp : x.putAll r w (x.results r f) = x.setS r.d.toNat (if w then f x.lowest
        else if r.ty = 0 then wrapN 64 (sInt 32 (f x.lowest)) else f x.lowest % 2 ^ 32) := by
      simp [hr, Strand.putAll, Strand.putRes, hu]
    rw [if_pos hu, hp]
    have hs : ∀ n v, ((x.setS r.d.toNat v).next r.bytes).s n = (x.setS r.d.toNat v).s n := by
      intro n v
      simp [Strand.s]
    refine ⟨⟨?_, ?_, ?_, ?_, ?_⟩, ?_, ?_, ?_⟩
    · intro hd
      rw [hs, s_setS]
      simp only [hd, ne_eq, not_false_eq_true, and_self, if_true]
      split
      · rfl
      · split
        · rename_i h0
          unfold wrapN
          have : (sInt 32 (f x.lowest) % ((2 ^ 64 : Nat) : Int)).toNat < 2 ^ 64 := by
            have h1 := Int.emod_lt_of_pos (sInt 32 (f x.lowest)) (b := ((2 ^ 64 : Nat) : Int)) (by norm_num)
            omega
          exact Nat.mod_eq_of_lt this
        · omega
    · intro n t _ _
      simp [Strand.v]
    · intro n hn
      rw [hs, s_setS]
      simp only [List.mem_singleton] at hn
      simp [hn]
    · simp
    · simp
    · simp
    · simp [SameControl]
    · exact goneOn _ _ _ (by simp) (by simp) (by simp)
  · have hu' : r.uniform r.info = false := by simpa using hu
    rw [if_neg hu]
    have hr : x.results r f = x.active.map (fun t => (t, f t)) := by simp [Strand.results, Strand.doers, hu']
    have hm : (x.results r f).map Prod.fst = x.active := by simp [hr, Function.comp_def]
    obtain ⟨h1, h2, h3, vr, bd, h4⟩ := putAll_vec r w (x.results r f) x hu'
      (by
        intro p hp
        rw [hr] at hp
        obtain ⟨t, ht, rfl⟩ := List.mem_map.1 hp
        exact mem_active x t ht)
      (by rw [hm]; exact active_nodup x)
    have hv : ∀ n t, ((x.putAll r w (x.results r f)).next r.bytes).v n t = (x.putAll r w (x.results r f)).v n t := by
      intro n t
      simp [Strand.v]
    refine ⟨⟨?_, ?_, ?_, ?_, ?_, ?_⟩, ?_, ?_, ?_⟩
    · intro t ht
      have hp : (t, f t) ∈ x.results r f := by rw [hr]; exact List.mem_map.2 ⟨t, ht, rfl⟩
      simp only [hv]
      exact h2 _ hp
    · intro n t ht hn
      rw [hv]
      exact h1 n t ht (by rw [hm]; exact hn)
    · intro n t ht hn
      rw [hv]
      refine h3 n t ht ?_ ?_
      · intro hc
        subst hc
        cases w <;> simp at hn
      · intro hw hc
        subst hc
        simp [hw] at hn
    · intro n _
      rw [h4]
      simp [Strand.s]
    · rw [h4]; simp
    · rw [h4]; simp
    · rw [h4]; simp
    · rw [h4]; simp [SameControl]
    · exact goneOn _ _ _ (by rw [h4]) (by rw [h4]) (by rw [h4])

/-! ## Predicates -/

theorem bit_p_setPBit (x : Strand) (n t m u : Nat) (b : Bool) (hu : u < 64) :
    bit ((x.setPBit n t b).p m) u = if m = n ∧ n ≠ 7 ∧ u = t then b else bit (x.p m) u := by
  unfold Strand.setPBit Strand.setP
  dsimp only
  by_cases hn : n = 7
  · simp [hn]
  · rw [if_neg hn]
    by_cases hm : m = n
    · subst hm
      have e : ∀ y : Strand, y.p m = (kvGet 0#64 y.preds m).toNat := by
        intro y
        simp [Strand.p, hn]
      rw [e]
      simp only [kvGet_kvSet_self, BitVec.toNat_ofNat]
      rw [bit_mod _ _ _ hu, bit_setBits_one]
      simp [hn]
    · rw [if_neg (by tauto)]
      congr 1
      unfold Strand.p
      by_cases h7 : m = 7
      · simp [h7]
      · simp [h7, kvGet_kvSet_ne _ _ _ _ _ hm]

theorem putPreds_bits (n : Nat) (l : List (Nat × Bool)) (x : Strand) (hl : (l.map Prod.fst).Nodup) :
    (n ≠ 7 → ∀ q ∈ l, q.1 < 64 → bit ((x.putPreds n l).p n) q.1 = q.2)
    ∧ (∀ m u, u < 64 → (m ≠ n ∨ u ∉ l.map Prod.fst) → bit ((x.putPreds n l).p m) u = bit (x.p m) u)
    ∧ ∃ ps, x.putPreds n l = { x with preds := ps } := by
  induction l generalizing x with
  | nil => exact ⟨fun _ => by simp, fun _ _ _ _ => rfl, x.preds, rfl⟩
  | cons p t ih =>
    obtain ⟨a, b⟩ := p
    simp only [List.map_cons, List.nodup_cons] at hl
    have hy : x.putPreds n ((a, b) :: t) = (x.setPBit n a b).putPreds n t := rfl
    obtain ⟨i1, i2, ps, i3⟩ := ih (x.setPBit n a b) hl.2
    rw [hy]
    refine ⟨?_, ?_, ps, ?_⟩
    · intro h7 q hq hq64
      simp only [List.mem_cons] at hq
      rcases hq with rfl | hq
      · rw [i2 n a hq64 (Or.inr hl.1), bit_p_setPBit _ _ _ _ _ _ hq64]
        simp [h7]
      · exact i1 h7 q hq hq64
    · intro m u hu hm
      simp only [List.map_cons, List.mem_cons, not_or] at hm
      rw [i2 m u hu (by tauto), bit_p_setPBit _ _ _ _ _ _ hu, if_neg (by tauto)]
    · rw [i3]
      unfold Strand.setPBit Strand.setP
      dsimp only
      split <;> rfl

/-- A truth value of every active thread written to predicate D, and the strand gone on. -/
theorem putPreds_delivers (x : Strand) (r : Raw) (f : Nat → Bool) :
    DeliversPred x ((x.putPreds r.d.toNat (x.active.map (fun t => (t, f t)))).next r.bytes) r f := by
  have hm : (x.active.map (fun t => (t, f t))).map Prod.fst = x.active := by simp [Function.comp_def]
  obtain ⟨h1, h2, ps, h3⟩ := putPreds_bits r.d.toNat (x.active.map (fun t => (t, f t))) x
    (by rw [hm]; exact active_nodup x)
  have hp : ∀ n, ((x.putPreds r.d.toNat (x.active.map (fun t => (t, f t)))).next r.bytes).p n
      = (x.putPreds r.d.toNat (x.active.map (fun t => (t, f t)))).p n := by
    intro n
    simp [Strand.p]
  refine ⟨?_, ?_, ⟨?_, ?_, ?_, ?_⟩, ?_, ?_⟩
  · intro h7 t ht
    rw [hp]
    exact h1 h7 (t, f t) (List.mem_map.2 ⟨t, ht, rfl⟩) (mem_active x t ht)
  · intro n t ht hc
    rw [hp]
    exact h2 n t ht (by rw [hm]; exact hc)
  · intro n t _ _
    rw [h3]
    simp [Strand.v]
  · intro n _
    rw [h3]
    simp [Strand.s]
  · rw [h3]; simp
  · rw [h3]; simp
  · rw [h3]; simp [SameControl]
  · exact goneOn _ _ _ (by rw [h3]) (by rw [h3]) (by rw [h3])

end Sys2Proof.Laws
end

