-- ==== Sys2Proof/Tests/Slice0.lean ====
section
/-! SUPPORT. Tests of the model: words that the manual writes out, terms that are not well formed, small steps, and a witness for
the hypotheses of the statements. -/

namespace Sys2Proof.Tests

open Sys2Proof Sys2Proof.Machine

set_option Elab.async false

/-! ## Words of the manual -/

/-- Two words as one number, the first in the low bits. -/
def two (a b : Nat) : Nat := a + 2 ^ 32 * b
def three (a b c : Nat) : Nat := a + 2 ^ 32 * b + 2 ^ 64 * c

/-- MOVI v2, 5 and ADD v3, v3, v2 (R102 and the worked loop of R128's chapter). -/
theorem test_decode_movi : decodeTableWord 32 0x014139E0 = some (.moviW1i ⟨5, 2, 7, 0⟩) := by decide +kernel
theorem test_decode_add : decodeTableWord 32 0x0081B900 = some (.addW1a ⟨0, 2, 3, 7, 0⟩) := by decide +kernel
/-- AND v3, v0, 1 and CMP.EQ.n32 p1, v3, 0. -/
theorem test_decode_and : decodeTableWord 96 (three 0x0001B952 0 1) = some (.andOp ⟨0, 0, 3, 7, 0, 0, 0, 0, 0, 0, 0, 0, some 1#32⟩) := by
  decide +kernel
theorem test_decode_cmp : decodeTableWord 96 (three 0x00C0B9CA 0x00040000 0)
    = some (.cmp ⟨0, 3, 1, 7, 0, 0, 0, 1, 0, 0, 0, 0, some 0#32⟩) := by decide +kernel
/-- (p1) BRC body, join at 0x02C, with body at 0x038 and join at 0x03C (R124). -/
theorem test_decode_brc : decodeTableWord 96 (three 0x00000812 3 4) = some (.brc ⟨0, 1, 0, 3, 4⟩) := by decide +kernel
/-- TRAP 5 (R206). -/
theorem test_decode_trap : decodeTableWord 32 0x01403868 = some (.trap ⟨5, 0, 7, 0⟩) := by decide +kernel
/-- LAUNCH s20, s21 (R150) and JOIN s22:s23 (R151). -/
theorem test_decode_launch : (match decodeTableWord 64 0x054A3859 with
    | some (.launch o) => o.d == 20 && o.a == 21
    | _ => false) = true := by decide +kernel
theorem test_decode_join : (match decodeTableWord 64 0x000B3861 with
    | some (.join o) => o.d == 22
    | _ => false) = true := by decide +kernel
/-- SPAWN.A32 v9, v4, s8 (R142): MOD 3 is A32. -/
theorem test_decode_spawn : (match decodeTableWord 64 (two 0x0104B851 0x06000008) with
    | some (.spawn o) => o.d == 9 && o.a == 4 && o.b == 8 && o.mod == 3
    | _ => false) = true := by decide +kernel
/-- LD.f32 v4, [s6+v0*4+0x40] (L29), LD.f32.U s5, [s4] (L26) and (!p2) STL.f32 [sp:buf_a+v0*4], v5 (L34). -/
theorem test_decode_ld : decodeTableWord 64 (two 0x01823C81 0x10200280)
    = some (.ld ⟨0, 6, 4, 7, 0, 0x40, 8, 0, 0, 0, 0, 2, 1, 0, none⟩) := by decide +kernel
theorem test_decode_ld_uniform : decodeTableWord 64 (two 0x0102BC85 0x00200000)
    = some (.ld ⟨0, 4, 5, 7, 1, 0, 8, 0, 0, 0, 0, 0, 0, 0, none⟩) := by decide +kernel
theorem test_decode_stl : decodeTableWord 64 (two 0x0002D499 0x40200280)
    = some (.stl ⟨0, 0, 5, 10, 0, 0x100, 8, 0, 0, 0, 0, 2, 1, 0, none⟩) := by decide +kernel
/-- FENCE.REL.DEV (L42). -/
theorem test_decode_fence : (match decodeTableWord 64 (two 0x40003CF9 0x00000800) with
    | some (.fenceRel o) => o.f == 2 && o.scope == 2
    | _ => false) = true := by decide +kernel
/-- KNEXT k1, k1; KOPEN k0, 0; KCOIT.AND v5, p1, p2, k1, k2; KAPP.NZ k5, 3, v10; KCLOSE.DEV k5. -/
theorem test_decode_knext : (match decodeTableWord 64 (two 0x0040BDC9 0x01C00000) with
    | some (.knext o) => o.d == 1 && o.a == 1 && o.pd == 7
    | _ => false) = true := by decide +kernel
theorem test_decode_kopen : (match decodeTableWord 96 (three 0x00003DC2 0x01C00000 0) with
    | some (.kopen o) => o.d == 0 && o.imm == some 0#32
    | _ => false) = true := by decide +kernel
theorem test_decode_kcoit : (match decodeTableWord 64 (two 0x0042BDE9 0x00400102) with
    | some (.kcoit o) => o.d == 5 && o.pd == 1 && o.a == 1 && o.b == 2 && o.c == 2
    | _ => false) = true := by decide +kernel
theorem test_decode_kapp : (match decodeTableWord 96 (three 0x0142BE12 0x05C00500 3) with
    | some (.kapp o) => o.a == 5 && o.c == 10 && o.imm == some 3#32
    | _ => false) = true := by decide +kernel
theorem test_decode_kclose : (match decodeTableWord 64 (two 0x0142BE21 0x04000000) with
    | some (.kclose o) => o.a == 5 && o.mod == 2
    | _ => false) = true := by decide +kernel
/-- CTREAD.U s24, [s1+pool_ct], CTTAKE.Q v4, [s6] stands in the statements. -/
theorem test_decode_ctread : (match decodeTableWord 64 (two 0x004C3D9D 0x000C0000) with
    | some (.ctread o) => o.d == 24 && o.a == 1 && o.u == 1
    | _ => false) = true := by decide +kernel
/-- MZERO acc[0], 16 (L36); MRD.f32 v20, acc[s12+3]; MLDW.S24.C.f8ax4 s9, bs[s13+0x100]; MEPI.RELU.bf16x2.RNE s9, acc[s12+0],
s20, s10; MTOPK.ACC s9, acc[s12+0], s14, s10; MCHK s11, acc[0], s13, 16; MLDT.ROWS32 v10, [sp:s8+0x100]. -/
theorem test_decode_mzero : (match decodeTableWord 96 (three 0x00003EA2 0 0x10) with
    | some (.mzero o) => o.d == 0 && o.acc == 0 && o.ab == 0 && o.imm == some 16#32
    | _ => false) = true := by decide +kernel
theorem test_decode_mrd : (match decodeTableWord 64 (two 0x000A3EA9 0x0400C600) with
    | some (.mrd o) => o.d == 20 && o.acc == 3 && o.ab == 12 && o.af == 8
    | _ => false) = true := by decide +kernel
theorem test_decode_mldw : (match decodeTableWord 64 (two 0x0004BE89 0x1D820680) with
    | some (.mldw o) => o.d == 9 && o.ab == 13 && o.mod == 1 && o.ck == 1
    | _ => false) = true := by decide +kernel
theorem test_decode_mepi : (match decodeTableWord 64 (two 0x0504BEB9 0x1500060A) with
    | some (.mepi o) => o.d == 9 && o.acc == 0 && o.ab == 12 && o.a == 20 && o.b == 10 && o.mod == 1 && o.af == 10
    | _ => false) = true := by decide +kernel
theorem test_decode_mtopk : (match decodeTableWord 64 (two 0x0384BEC1 0x0000060A) with
    | some (.mtopkAcc o) => o.d == 9 && o.a == 14 && o.ab == 12 && o.b == 10
    | _ => false) = true := by decide +kernel
theorem test_decode_mchk : (match decodeTableWord 96 (three 0x0345BECA 0 0x10) with
    | some (.mchk o) => o.d == 11 && o.a == 13 && o.imm == some 16#32
    | _ => false) = true := by decide +kernel
theorem test_decode_mldt : (match decodeTableWord 64 (two 0x62053ED1 0x40140000) with
    | some (.mldt o) => o.d == 10 && o.a == 8 && o.disp == 0x100 && o.f == 3
    | _ => false) = true := by decide +kernel
/-- XCOPY of L39 (D = 6, A = 11); XSCAT.ADD, XDISP and XCOMB with their signal fields. -/
theorem test_decode_xcopy : (match decodeTableWord 96 (three 0x02C33F02 0x000A0420 0x80000200) with
    | some (.xcopy o) => o.d == 6 && o.a == 11
    | _ => false) = true := by decide +kernel
theorem test_decode_xscat : (match decodeTableWord 64 (two 0x058A3F19 0x15570008) with
    | some (.xscat o) => o.d == 20 && o.a == 22 && o.spb == 21 && o.sv == 23 && o.xmod == 1 && o.sigo == 8
    | _ => false) = true := by decide +kernel
theorem test_decode_xdisp : (match decodeTableWord 64 (two 0x058A3F29 0x05570008) with
    | some (.xdisp o) => o.d == 20 && o.a == 22 && o.spb == 21 && o.sv == 23 && o.sigo == 8
    | _ => false) = true := by decide +kernel
theorem test_decode_xcomb : (match decodeTableWord 64 (two 0x064A3F31 0x06170009) with
    | some (.xcomb o) => o.d == 20 && o.a == 25 && o.spb == 24 && o.sv == 23 && o.sigo == 9
    | _ => false) = true := by decide +kernel
/-- TLBINV.RANGE.DEV s20, s22, 5; MARK 0x1234, s9; CSRW MINJ, s7; CSRR s7, LLCPRB. -/
theorem test_decode_tlbinv : (match decodeTableWord 64 (two 0x058A3F81 0x00052000) with
    | some (.tlbinvRange o) => o.d == 20 && o.a == 22 && o.imm16 == 5 && o.scope == 2
    | _ => false) = true := by decide +kernel
theorem test_decode_mark : (match decodeTableWord 64 (two 0x02403F91 0x12340000) with
    | some (.mark o) => o.a == 9 && o.imm16 == 0x1234
    | _ => false) = true := by decide +kernel
theorem test_decode_csrw : (match decodeTableWord 64 (two 0x01C039F9 0x8C0) with
    | some (.csrw o) => o.a == 7 && o.sel == 0x8C0
    | _ => false) = true := by decide +kernel
theorem test_decode_csrr : (match decodeTableWord 64 (two 0x0003B9F1 0x962) with
    | some (.csrr o) => o.d == 7 && o.sel == 0x962
    | _ => false) = true := by decide +kernel

/-! ## Terms that are not well formed: one for each check of R67, for the selectors, and an event -/

/-- A term is refused, with the info code of the first check that it fails. -/
def refused (i : Instr) (c : Nat) : Prop := i.wf = false ∧ (toRaw i).bind rawCheck = some c

theorem test_wf_ok : (Instr.wf (.add ⟨0, 2, 3, 7, 0, 0, 0, 0, 0, 0, 0, 4, none⟩)) = true := by decide +kernel
theorem test_wf_length : refused (.vote ⟨0, 1, 2, 7, 0, 0, 0, 0, 0, 0, 0, 0, some 0⟩) 3 := by unfold refused; decide +kernel
theorem test_wf_guard : refused (.add ⟨0, 2, 3, 0, 0, 0, 0, 0, 0, 0, 0, 4, none⟩) 4 := by unfold refused; decide +kernel
theorem test_wf_u : refused (.exit ⟨0, 0, 0, 7, 1⟩) 5 := by unfold refused; decide +kernel
theorem test_wf_type : refused (.add ⟨0, 2, 3, 7, 0, 0, 0, 15, 0, 0, 0, 4, none⟩) 6 := by unfold refused; decide +kernel
theorem test_wf_rm : refused (.fadd ⟨0, 2, 3, 7, 0, 0, 5, 8, 0, 0, 0, 4, none⟩) 7 := by unfold refused; decide +kernel
theorem test_wf_register : refused (.ld ⟨0, 64, 4, 7, 0, 0, 8, 0, 0, 0, 0, 0, 0, 0, none⟩) 8 := by unfold refused; decide +kernel
theorem test_wf_index : refused (.add ⟨0, 2, 3, 7, 1, 0, 0, 0, 0, 1, 0, 4, none⟩) 9 := by unfold refused; decide +kernel
theorem test_wf_full_empty : refused (.add ⟨0, 2, 3, 7, 0, 0, 0, 0, 2, 0, 0, 0, some 1⟩) 10 := by unfold refused; decide +kernel
theorem test_wf_unused : refused (.mov ⟨0, 2, 3, 7, 0, 0, 0, 0, 0, 0, 0, 4, none⟩) 11 := by unfold refused; decide +kernel
theorem test_wf_pair : refused (.add ⟨0, 2, 3, 7, 0, 0, 0, 2, 0, 0, 0, 4, none⟩) 12 := by unfold refused; decide +kernel
theorem test_wf_selector : (Instr.wf (.prefL1 ⟨1, 2, 0, 7, 0, 0, 0, 0, 0, 0, 0, 0, 0, 0, none⟩)) = false := by decide +kernel
theorem test_wf_event : (Instr.wf .epochFlip) = false := by decide +kernel

/-! ## Witnesses for the hypotheses of the statements -/

/-- The machine with one strand of a system region, all its threads active, whose turn it is (log 7). -/
def s0 : State := State.reset.withFetchWord 32 0x00003800
/-- The same with its strand changed. -/
def on (f : Strand → Strand) : State := s0.setStrand 0 (f (s0.strand 0))
/-- Thread 0 satisfies p1, and no other thread. -/
def half : State := on (fun st => st.setP 1 1)
/-- Operands of the formats, by the fields that matter here. -/
def w1 (a d : BitVec 7) : W1Ops := ⟨0, a, d, 7, 0⟩
def al (a d b ty : Nat) : AOps := ⟨0, BitVec.ofNat 7 a, BitVec.ofNat 7 d, 7, 0, 0, 0, BitVec.ofNat 4 ty, 0, 0, 0, BitVec.ofNat 7 b, none⟩
def me (f a d : Nat) (g : BitVec 4) (ty : Nat) : MOps :=
  ⟨BitVec.ofNat 3 f, BitVec.ofNat 7 a, BitVec.ofNat 7 d, g, 0, 0, BitVec.ofNat 4 ty, 0, 0, 0, 0, 0, 0, 0, none⟩
def ku (a d : Nat) : KOps := ⟨0, BitVec.ofNat 7 a, BitVec.ofNat 7 d, 7, 0, 0, 7, 0, 0, 0, 0, 0, 0, 0, 0, none⟩
def yo (a d b : Nat) : YOps := ⟨0, BitVec.ofNat 7 a, BitVec.ofNat 7 d, 7, 0, 0, 0, 8, 0, 0, BitVec.ofNat 7 b, none⟩
def xo : XOps := ⟨0, 22, 20, 7, 0, 0, 21, 23, 0, none⟩
def so (a d sel : Nat) : SOps := ⟨0, BitVec.ofNat 7 a, BitVec.ofNat 7 d, 7, 0, 0, 0, 0, BitVec.ofNat 12 sel, none⟩
/-- What three words decode to. -/
def dec (w0 w1 w2 : BitVec 32) : Option Instr :=
  match decodeWords w0 w1 w2 with
  | .ok i => some i
  | .error _ => none
/-- The gate lets an instruction through. -/
def goes (s : State) (r : Raw) : Bool := (s.strand s.cur).gate r r.info == .go
theorem ready_of_goes (s : State) (r : Raw) (h : goes s r = true) : Ready s r := by simpa [goes, Ready] using h

theorem witness_DecodeThenEncode : dec 0x0081B900 0 0 = some (.addW1a (w1 2 3)) := by decide +kernel
theorem witness_ReservedWordsAreIllegal : (3#32).extractLsb' 0 2 = 3#2 ∧ (0x7F8#32).extractLsb' 0 2 ≠ 3#2
    ∧ opInfo ((0x7F8#32).extractLsb' 3 8).toNat = none := by decide +kernel
theorem witness_OnlyTheListedTakeAGuard : (0x00000808#32).extractLsb' 11 4 ≠ 7#4
    ∧ dec 0x00000808 0 0 = some (.braW1b ⟨0, 1, 0⟩) := by decide +kernel
theorem witness_StepRunsTheDecodedInstruction : s0.agenda = [.issue 0] ∧ s0.pkg.halted = false ∧ (s0.strand 0).mayTurn = true ∧ (s0.strand 0).stallUntil ≤ s0.cycle
    ∧ s0.turned.contains (s0.strand 0).quadKey = false ∧ (s0.unlaunch 0).strand 0 = s0.strand 0
    ∧ (s0.strand 0).unheld.atJoin.amask ≠ 0 ∧ (s0.strand 0).unheld.atJoin.awaiting = none ∧ s0.rivals 0 = []
    ∧ (({ { s0 with agenda := [] }.setStrand 0 (s0.strand 0).unheld.atJoin with cur := 0 } : State).fetchInstr 0
        (s0.strand 0).pc.toNat).1 = .ok 0x00003800 0 0 := by decide +kernel
theorem witness_PackageDownTakesNoStep : (({ s0 with pkg := { s0.pkg with halted := true } } : State).pkg.halted = true)
    ∧ (Move.issue 0).isReset = false := by decide +kernel

/-! The gate: an empty source holds, and with FE traps; v127 lies outside an allotment of 8. -/
theorem witness_gate_hold : ((on (fun st => st.markEmpty (keyV 2))).me).gate (rawW1 0x20 (w1 2 3)) (rawW1 0x20 (w1 2 3)).info = .hold := by
  decide +kernel
theorem witness_gate_bounds : ((on (fun st => { st with allot := 8 })).me).gate (rawW1 0x20 (w1 8 3)) (rawW1 0x20 (w1 8 3)).info
    = .trap clsBounds := by decide +kernel
theorem witness_gate_last : goes (on (fun st => { st with allot := 8 })) (rawW1 0x20 (w1 7 3)) = true := by decide +kernel
theorem witness_gate_empty : ((on (fun st => st.markEmpty (keyV 2))).me).gate
    (rawA 0x20 ⟨0, 2, 3, 7, 0, 0, 0, 0, 1, 0, 0, 4, none⟩) (rawA 0x20 ⟨0, 2, 3, 7, 0, 0, 0, 0, 1, 0, 0, 4, none⟩).info = .trap clsEmpty := by
  decide +kernel

/-! Arithmetic, comparison and cross-lane instructions: a state and operands from which each issues. -/
theorem witness_IntegerResults : integerOneWord.all (fun p => goes s0 (rawW1 p.2 (w1 2 3)))
    && integerLong.all (fun p => goes s0 (rawA p.2 (al 2 3 4 0))) = true := by decide +kernel
theorem witness_SlowResults : slowOneWord.all (fun p => goes s0 (rawW1 p.2 (w1 2 3)))
    && slowLong.all (fun p => goes s0 (rawA p.2 (al 2 3 4 0))) = true := by decide +kernel
theorem witness_SlowResultsArrive : let f : Fill := ⟨5, [keyV 3], [(3 * 64, 7)], [], 0, .division⟩
    ((on (fun st => { st with fills := [f] })).strand 0).fills.find? (fun g => g.seq == 5) = some f := by decide +kernel
theorem witness_Moves : goes s0 (rawM 0x38 (me 0 1 2 7 3)) && goes s0 (rawW1 0x3B (w1 2 3)) && goes s0 (rawA 0x3B (al 2 3 0 0))
    && goes s0 (rawI 0x3C ⟨5, 2, 7, 0⟩) && goes s0 (rawA 0x3C ⟨0, 0, 2, 7, 0, 0, 0, 0, 0, 0, 0, 0, some 5⟩)
    && goes s0 (rawW1 0x3D (w1 6 4)) && goes s0 (rawA 0x3D (al 6 4 0 3)) && goes half (rawA 0x3A ⟨0, 2, 3, 1, 0, 0, 0, 0, 0, 0, 0, 4, none⟩)
    = true := by decide +kernel
theorem witness_Comparisons : goes s0 (rawA 0x39 (al 2 1 4 0)) && goes s0 (rawW1 0x66 (w1 2 1)) && goes s0 (rawA 0x66 (al 2 1 4 8)) = true := by
  decide +kernel
theorem witness_FloatCorners : (fmtF32.value 0x7FC00000).isNan = true ∧ (fmtF32.value 0x3F800000).isNan = false
    ∧ (fmtF32.value 0x7F800000).isNan = false ∧ (fmtF32.value 0xFF800000).isNan = false ∧ (0xFF800000 : Nat) < 2 ^ 32 := by decide +kernel
theorem witness_FloatResults : floatOneWord.all (fun p => goes s0 (rawW1 p.2 (w1 2 3)))
    && floatLong.all (fun p => goes s0 (rawA p.2 (al 2 3 4 8))) && goes s0 (rawW1 0x67 (w1 2 3)) && goes s0 (rawA 0x67 (al 2 3 0 8)) = true := by
  decide +kernel
theorem witness_MinAndMax : (0xFFC00000 : Nat) < 2 * fmtF32.signBit ∧ (0xFFFF : Nat) < 2 * fmtF16.signBit := by decide +kernel
theorem witness_Transcendental : (fmtF32.value 0xFFFFFFFF).isNan = true ∧ (0x80000000 : Nat) < 0x80000001 ∧ (0x80000001 : Nat) ≤ 0xFF800000 := by
  decide +kernel
theorem witness_Cvt : (goes s0 (rawW1 0x6E (w1 2 3)) && goes s0 (rawA 0x6E (al 2 3 0 8))) = true
    ∧ cvtCount s0.me (rawA 0x6E (al 2 3 0 8)) = (0, 0, 0) := by decide +kernel
theorem witness_CrossLane : goes s0 (rawA 0x80 (al 2 3 4 0)) && goes s0 (rawA 0x84 (al 2 3 0 0)) && goes s0 (rawA 0x81 (al 1 2 0 0))
    && goes s0 (rawA 0x82 (al 2 7 0 0)) && goes s0 (rawA 0x83 (al 2 7 0 0)) && goes s0 (rawA 0x85 (al 2 4 0 0)) = true := by decide +kernel
theorem witness_Match : (match decodeTableWord 64 (two 0x00823C29 0x40000) with
    | some (.matchOp o) => o.js == 0 && o.d == 4
    | _ => false) = true := by decide +kernel

/-! Control: the guard p1 holds in some threads, !p1 in the others, p7 in all, !p7 in none. -/
theorem witness_Branches : (goes half (rawB 0x01 ⟨0, 1, 0⟩) && goes half (rawBW 0x01 ⟨0, 15, 0, 4, 0⟩) && goes s0 (rawB 0x04 ⟨0, 7, 0⟩)
    && goes s0 (rawBW 0x04 ⟨0, 7, 0, 4, 0⟩) && goes s0 (rawW1 0x03 (w1 8 0)) && goes s0 (rawW1 0x05 (w1 8 62)) && goes s0 (rawW1 0x06 (w1 62 0))) = true
    ∧ half.me.amask ≠ 0 ∧ half.me.guard 1 0 = true ∧ half.me.guard 1 63 = false ∧ 63 ∈ half.me.active
    ∧ (∀ th ∈ half.me.active, half.me.guard 15 th = false) ∧ (∀ th ∈ half.me.active, half.me.guard 7 th = true) := by decide +kernel
theorem witness_Nop : dec 0x00003800 0 0 = some (.nop ⟨0, 0, 0, 7, 0⟩) ∧ (s0.me.next 4).loops = s0.me.loops := by decide +kernel
/-- Sixteen entries stand on the divergence stack, the last of which alone holds threads. -/
def deep : State := on (fun st => { st with divs := List.replicate 15 ⟨0, 8⟩ ++ [⟨2, 12⟩], amask := 3 })
theorem witness_Divergence : (goes half (rawBW 0x02 ⟨0, 1, 0, 3, 4⟩) && goes (deep) (rawW1 0x08 (w1 0 0))) = true
    ∧ half.me.divs.length < 16 ∧ 16 ≤ deep.me.divs.length ∧ deep.me.divs = List.replicate 15 ⟨0, 8⟩ ++ ⟨2, 12⟩ :: []
    ∧ (∀ x ∈ List.replicate 15 (⟨0, 8⟩ : DivEnt), x.rmask = 0) ∧ (∀ x ∈ s0.me.divs, x.rmask = 0) := by decide +kernel
def looping (n : Nat) (e : LoopEnt) (h : Bool) : State :=
  on (fun st => { (st.setS 63 2) with loops := List.replicate n e, hmode := h })
theorem witness_Loops : (goes (looping 3 ⟨8, 16, 2⟩ false) (rawBW 0x07 ⟨0, 7, 0, 10, 11⟩)) = true
    ∧ (looping 4 ⟨8, 16, 2⟩ false).me.loops.length = 4 ∧ (looping 3 ⟨8, 16, 2⟩ false).me.s 63 % 2 ^ 32 ≠ 0
    ∧ (looping 0 ⟨8, 16, 2⟩ true).me.hmode = true ∧ s0.me.s 63 % 2 ^ 32 = 0
    ∧ (looping 1 ⟨8, 0x400000, 2⟩ false).me.loops = [⟨8, (looping 1 ⟨8, 0x400000, 2⟩ false).me.pc, 2⟩]
    ∧ (looping 1 ⟨8, 0x400000, 1⟩ false).me.loops = [⟨8, (looping 1 ⟨8, 0x400000, 1⟩ false).me.pc, 1⟩] := by decide +kernel

/-! Strands, spawned work, launches. -/
/-- Virtual and physical addresses are the same for context 0 below 2^30. -/
def mapped : State := { (s0.setRegion 0 { s0.region 0 with cvrecPa := 0x300000 }) with xlate := { s0.xlate with cluster := [(0, [⟨0, 0, 2 ^ 30, 0x1F⟩])] } }
def mon (f : Strand → Strand) : State := mapped.setStrand 0 (f (mapped.strand 0))
/-- A second strand stands in the same quadrant. -/
def pair : State := s0.setStrand 1 (s0.strand 0)
theorem witness_Yield : (goes pair (rawW1 0x09 (w1 0 0)) && pair.peersOf 0 [1] == [1] && s0.peersOf 0 [] == []) = true
    ∧ ((on (fun st => { st with waiting := .yield 64 none })).strand 0).waiting = .yield 64 none := by decide +kernel
theorem witness_YieldTimeout : ((on (fun st => { st with waiting := .yield 64 (some [1]) })).strand 0).waiting = .yield 64 (some [1]) ∧ s0.cycle < 64 := by
  decide +kernel
def spawnOps : AOps := ⟨0, 4, 9, 7, 0, 3, 0, 0, 0, 0, 12, 8, none⟩
theorem witness_Spawn : (goes s0 (rawA 0x0A spawnOps)) = true ∧ s0.me.s (rawA 0x0A spawnOps).b % 2 ^ 56 % 4 = 0
    ∧ (on (fun st => st.setS 8 2)).me.s (rawA 0x0A spawnOps).b % 2 ^ 56 % 4 ≠ 0 ∧ s0.me.s (rawA 0x0A spawnOps).c ≤ 2048
    ∧ 2048 < (on (fun st => st.setS 12 2049)).me.s (rawA 0x0A spawnOps).c ∧ (s0.bin 0 5).pending = [] ∧ (s0.bin 0 5).formed = none := by
  decide +kernel
def key0 : BinKey := { rid := 0, entry := 0x400000, allot := 8, tiles := 0, swz := false }
def thread0 : BinThread := ⟨[1, 2, 3, 4], 0, 0⟩
def binned : State := s0.setBin 0 5 ⟨some key0, [thread0], some 0, none, 0⟩
def formed : State := (s0.setBin 0 5 ⟨none, [], none, some (key0, [thread0]), 0⟩).setRegion 0
  { s0.region 0 with rcb := { (s0.region 0).rcb with slotb := 16, tileb := 16, rowb := 512 } }
theorem witness_SpawnBinTimer : (binned.bin 0 5).timer = some 0 ∧ (binned.bin 0 5).key = some key0 ∧ 0 ≤ binned.time
    ∧ (binned.bin 0 5).formed = none ∧ (binned.bin 0 5).pending ≠ [] := by decide +kernel
theorem witness_SpawnResidency : (formed.bin 0 5).formed = some (key0, [thread0])
    ∧ (formed.hasRoom 0 1 8 0 0 && formed.poolRoom (formed.region 0).pool 1 0 0 && !formed.formedBefore 0 5 (formed.region 0).rcb.prio
      && !formed.tileFirst 0 (formed.region 0).rcb.prio && (formed.bin 0 5).pending.isEmpty) = true
    ∧ formed.logClear 0 0 = true ∧ (formed.performCore 0 []).1 = true := by decide +kernel
theorem witness_Launch : goes mapped (rawA 0x0B (al 21 20 0 0)) = true ∧ mapped.me.rcbAddr (rawA 0x0B (al 21 20 0 0)) % 512 = 0
    ∧ (match mapped.readRcb (mapped.who 0) 0 (some 0) none with
      | (.ok l, u) => (l.rcb.prio != 7 || u.isSystem (u.strand 0)) && decide ((u.strand 0).joins.length < 64) && l.state == 0 && decide (u.liveRegions < 1024)
          && !bit (rcbOvr l.words) 5 && (u.performCore 0 []).1 && (u.performCore 0 []).2.logClear 0 mapped.seq
      | _ => false) = true
    ∧ (mon (fun st => st.setS 21 256)).me.rcbAddr (rawA 0x0B (al 21 20 0 0)) % 512 ≠ 0 := by decide +kernel
/-- A region in a state, launched by the strand. -/
def child (state : Nat) : State := (on (fun st => { st with joins := [7] })).setRegion 7 { Region.empty with state := state }
theorem witness_Join : goes (child 2) (rawA 0x0C (al 0 22 0 0)) = true
    ∧ ((child 2).me.joins.filter (fun rid => decide (((child 2).region rid).state < 5))).length = 1
    ∧ ((child 7).me.joins.filter (fun rid => decide (((child 7).region rid).state < 5))).length = 0
    ∧ ((child 6).me.joins.filter (fun rid => decide (((child 6).region rid).state < 5))).length = 0
    ∧ (al 0 22 0 0).imm ≠ some 0#32 := by decide +kernel
theorem witness_JoinTimeout : let s := (child 2).setStrand 0 { (child 2).strand 0 with waiting := .join 22 (some 0) }
    (s.strand 0).waiting = .join 22 (some 0) ∧ 0 ≤ s.time ∧ (s.strand 0).life = .resident ∧ 7 ∈ (s.strand 0).joins ∧ (s.region 7).state < 5 := by
  decide +kernel
/-- The strand has waited longer than 16 µs in JOIN. -/
def waited : State := { (mon (fun st => { st with waiting := .join 22 none })) with time := 16000 * 47 + 1 }
theorem witness_SwapOut : s0.leaves 0 = false ∧ waited.leaves 0 = true
    ∧ (match waited.access (waited.who 0) (waited.frameVa (waited.strand 0)) needW 2 with
      | (.hit pa _, u) => !isWindow pa && u.homes.poison.isEmpty && (linesOf (pa + 512) 65024).all (fun l =>
          !u.goPending l && !u.writeBlocked l (some 0) (some 0) false false)
      | _ => false) = true := by decide +kernel
theorem witness_StrandRestore : let s := on (fun st => { st with life := .swapped })
    (s.strand 0).life = .swapped ∧ s.quadFor (s.strand 0).core (s.strand 0).allot = some 0 ∧ (s.strand 0).waiting = .nothing := by decide +kernel

/-! Traps. -/
def ti0 : TrapInfo := ⟨18, 0, 0x400004, 0x400000, 5, false, 0, 0, none, [0x01403868]⟩
theorem witness_Traps : (goes s0 (rawI 0x0D ⟨5, 0, 7, 0⟩) && goes s0 (rawI 0x0F ⟨5, 0, 7, 0⟩)) = true
    ∧ (s0.strand 0).hmode = false ∧ s0.drained 0 = true
    ∧ (match mapped.frameAt 0 (mapped.frameVa (mapped.strand 0)) 512 with
      | (.ok _, u) => (match u.homeStore (u.who 0) (mapped.frameVa (mapped.strand 0)) (frameBytes u (u.strand 0) ti0 ++ logImage (u.strand 0)) 2 with
        | (.ok _, v) => !(v.strand 0).hmode
        | _ => false)
      | _ => false) = true
    ∧ (match s0.frameAt 0 (s0.frameVa (s0.strand 0)) 512 with
      | (.error (some _), _) => true
      | _ => false) = true := by decide +kernel
theorem witness_TrapEntry : let s := on (fun st => { st with waiting := .trap, trap := some ti0 })
    (s.strand 0).waiting = .trap ∧ (s.strand 0).trap = some ti0 ∧ (s.strand 0).life = .resident ∧ s.drained 0 = true := by
  decide +kernel
def handling : State := mon (fun st => { st with hmode := true })
theorem witness_Rett : goes handling (rawW1 0x0E (w1 0 0)) = true ∧ handling.me.hmode = true
    ∧ (match handling.restoreFrame 0 with
      | (.done _, _) => true
      | _ => false) = true
    ∧ (match handling.frameWords 0 0 24 with
      | (.ok _, _) => true
      | _ => false) = true := by decide +kernel

/-! Registers by number, system instructions. -/
/-- The region of the strand is no system region. -/
def user : State := s0.setRegion 0 { s0.region 0 with rcb := { (s0.region 0).rcb with prio := 3 } }
theorem witness_Csr : (goes s0 (rawS 0x3E (so 0 7 0x7FF)) && goes s0 (rawS 0x3F (so 7 0 0x8C0)) && goes user (rawS 0x3E (so 0 7 0x800))) = true
    ∧ cvField 0x7FF = none ∧ cvField 0x100 ≠ none ∧ user.isSystem user.me = false ∧ s0.isSystem s0.me = true ∧ privListed 0xA00 = true
    ∧ llcCsr 0xA00 = false ∧ llcCsr 0x962 = true ∧ privReadOnly 0x968 = true ∧ privReadOnly 0x969 = false
    ∧ s0.me.fills.any (fun f => f.kind == .transc) = false ∧ s0.csrWaits s0.cur 0x001 false = false := by decide +kernel
theorem witness_System : (goes s0 (rawS 0xF0 (so 22 20 0)) && goes s0 (rawS 0xF1 (so 22 20 0)) && goes s0 (rawS 0xF2 (so 9 0 0))) = true
    ∧ s0.me.log = [] ∧ (s0.performCore 0 []).1 = true ∧ (s0.invalidate (s0.who 0) ⟨1, 0, 0, 0⟩ [0, 1]).1 = true ∧ (s0.invalidate ⟨0, none, 0, true⟩ ⟨1, 0, 0, 0⟩ [0, 1]).1 = true
    ∧ (⟨1, 0, 0, 0⟩ : Inval).bad = false ∧ (⟨0, 0, 2 ^ 56 - 1, 1⟩ : Inval).bad = false ∧ (⟨0, 0, 2 ^ 56 - 1, 2⟩ : Inval).bad = true
    ∧ (s0.regionOf s0.me).rcb.dbg = false ∧ s0.negBlocks s0.cur = false := by decide +kernel

/-! Memory. The strand stands in a cohort with 64 KiB of scratchpad and 512 accumulator rows. -/
def roomy : State := mapped.setCohort 0 { Cohort.empty with alive := true, strands := [0], bytes := 65536, rows := 512 }
def ron (f : Strand → Strand) : State := roomy.setStrand 0 (f (roomy.strand 0))
theorem noTagLost_of_nil (s : State) (h : s.homes.tags = []) : NoTagLost s := by
  intro k t ht; simp [h] at ht
theorem undisturbed_of (s : State) (h : s.strands.all (fun p => match p.2 with
    | some x => x.log.all (fun q => q.2.raw.op != 0x9D#8)
    | none => true) = true) : Undisturbed s := by
  intro x hx p hp
  have := List.all_eq_true.mp h _ hx
  simpa using List.all_eq_true.mp this _ hp
theorem witness_NoTagLost : NoTagLost roomy := noTagLost_of_nil _ (by decide +kernel)
theorem witness_Undisturbed : Undisturbed roomy := undisturbed_of _ (by decide +kernel)
/-- Thread t stores and loads at 4 t. -/
def byThread (g : BitVec 4) (ty : Nat) : MOps := ⟨0, 0, 4, g, 0, 0, BitVec.ofNat 4 ty, 0, 0, 0, 0, 2, 1, 0, none⟩
theorem witness_LoadsEnter : (goes roomy (rawM 0x90 (byThread 7 8)) && goes roomy (rawM 0x92 (byThread 7 8)) && goes roomy (rawM 0x99 (byThread 7 1))
      && goes roomy (rawM 0x9B (me 0 2 9 7 0)) && goes roomy (rawM 0x9D (byThread 7 1))) = true
    ∧ (∀ th ∈ roomy.me.memThreads (rawM 0x90 (byThread 7 8)), roomy.me.ea (rawM 0x90 (byThread 7 8)) th % (rawM 0x90 (byThread 7 8)).accAlign = 0)
    ∧ (ron (fun st => st.setV 0 63 0)).me.ea (rawM 0x90 ⟨0, 0, 4, 7, 0, 1, 8, 0, 0, 0, 0, 2, 1, 0, none⟩) 63
        % (rawM 0x90 (byThread 7 8)).accAlign ≠ 0
    ∧ (∀ th ∈ roomy.me.memThreads (rawM 0x92 (byThread 7 8)), roomy.spadCheck 0 (roomy.me.offset (rawM 0x92 (byThread 7 8)) th)
        (rawM 0x92 (byThread 7 8)).accWidth (rawM 0x92 (byThread 7 8)).accAlign = none)
    ∧ (∀ th ∈ roomy.me.guardThreads (rawM 0x99 (byThread 7 1)), roomy.me.ea (rawM 0x99 (byThread 7 1)) th % (rawM 0x99 (byThread 7 1)).atomWidth = 0)
    ∧ roomy.negBlocks roomy.cur = false := by decide +kernel
/-- The last four bytes of the scratchpad, and the first four beyond it. -/
theorem witness_Scratchpad : (goes roomy (rawM 0x93 (byThread 7 8)) && goes roomy (rawM 0x9A (byThread 7 1)) && goes roomy (rawM 0xDA (me 3 8 10 7 0))) = true
    ∧ roomy.reg 0xA34 = 0 ∧ (roomy.regionOf roomy.me).rcb.dbg = false ∧ roomy.me.log = [] ∧ roomy.me.life = .resident
    ∧ roomy.spadCheck 0 65532 4 4 = none ∧ roomy.spadCheck 0 65536 4 4 = some clsProt ∧ roomy.spadCheck 0 65530 4 4 = some clsAlign
    ∧ roomy.spadCheck 0 (65536 - 128 * 32) (128 * 32) 128 = none ∧ roomy.spadCheck 0 (65536 - 128 * 31) (128 * 32) 128 = some clsProt
    ∧ roomy.spadStruck 0 0 (128 * 32) = false := by decide +kernel
/-- A barrier of two strands, none and then one counted in. -/
def barriered (counted : Nat) : State := roomy.setCohort 0 { roomy.cohort 0 with spad := [(0, 2#8), (1, BitVec.ofNat 8 counted)] }
theorem witness_Barriers : goes (barriered 0) (rawM 0x9E (me 3 0 9 7 0)) = true ∧ (barriered 0).reg 0xA34 = 0 ∧ roomy.spadCheck 0 0 16 16 = none
    ∧ (barriered 0).me.log = [] ∧ bits (roomy.spadNum 0 0 16) 4 0 = 0 ∧ (barriered 0).negBlocks 0 = false := by decide +kernel
/-- The first 512 bytes stand in the core's L1. -/
def cached : State := roomy.modCore 0 (fun c => { c with copies := (nats 4).map (fun l =>
  { cache := 0, asid := 0, vline := l, pline := l, perms := 7, data := List.replicate 128 0#8, dirty := 0, dirtySince := 0, wts := 0, rts := 0,
    epoch := 0, hostMem := false, authors := [], poison := 0 }) })
theorem witness_Stores : goes cached (rawM 0x91 (byThread 7 8)) = true ∧ (rawM 0x91 (byThread 7 8)).kind ≠ 1 ∧ cached.me.log = []
    ∧ (rawM 0x91 { byThread 7 8 with kind := 1 }).kind = 1
    ∧ (∀ th ∈ cached.me.guardThreads (rawM 0x91 (byThread 7 8)), cached.me.ea (rawM 0x91 (byThread 7 8)) th % 128 + 4 ≤ 128
        ∧ cached.me.ea (rawM 0x91 (byThread 7 8)) th % (rawM 0x91 (byThread 7 8)).accAlign = 0
        ∧ ((cached.copyOf 0 (fun c => c.isAt 0 0 (cached.me.ea (rawM 0x91 (byThread 7 8)) th / 128))).map (fun c =>
            decide (c.data.length = 128) && (permFault c.perms needW true 0).isNone && !cached.leasedAway 0 c.pline (some 0)
              && !cached.isProtected (c.pline * 128 + cached.me.ea (rawM 0x91 (byThread 7 8)) th % 128)
              && !cached.isProtected (c.pline * 128 + cached.me.ea (rawM 0x91 (byThread 7 8)) th % 128 + 3))) = some true) := by decide +kernel
theorem witness_LinesAndFences : (goes roomy (rawM 0x95 (byThread 7 0)) && goes roomy (rawM 0x96 (byThread 7 0)) && goes roomy (rawM 0x97 (byThread 7 0))
      && goes roomy (rawM 0x98 (byThread 7 0)) && goes roomy (rawM 0x9C (me 0 2 9 7 0)) && goes roomy (rawM 0x94 (byThread 7 0))
      && goes roomy (rawM 0x9F { me 2 0 0 7 0 with scope := 2 })) = true
    ∧ (rawM 0x9F { me 2 0 0 7 0 with scope := 2 }).scopeM ≠ 0 ∧ (roomy.performCore 0 []).1 = true := by decide +kernel
/-- A guard object at 0, bound, held or free. -/
def guarded (b2 : Nat) : State := { roomy with mem := roomy.mem.put [(2, BitVec.ofNat 8 b2)] }
theorem witness_Guards : (goes roomy (rawM 0xA2 (me 0 1 20 7 0)) && goes roomy (rawM 0xA0 (me 0 1 20 7 0)) && goes roomy (rawM 0xA1 (me 0 1 20 7 0))) = true
    ∧ (match roomy.reachGuard 0 0 with | (.at pa, _) => pa | _ => 1) = 0 ∧ (ron (fun st => st.setS 1 32)).me.ea (rawM 0xA0 (me 0 1 20 7 0)) 0 % 64 ≠ 0
    ∧ guardBound ((guarded 2).numAt 0 64) = true ∧ guardHeld ((guarded 2).numAt 0 64) = false ∧ guardExcl ((guarded 3).numAt 0 64) = true
    ∧ guardBound (roomy.numAt 0 64) = false ∧ (ron (fun st => { st with guards := [0] })).me.guards.contains 0 = true
    ∧ (kvGet [] (kvSet [] roomy.homes.guardQ 0 [(0, 20, true)]) 0) = [(0, 20, true)] ∧ roomy.writeBlocked 0 none none true false = false := by
  decide +kernel
theorem witness_HomeWrite : roomy.reg 0xA34 = 0 ∧ (∀ w ∈ ([(127, 5#8)] : List (Nat × Byte)), w.1 / 128 = 0 / 128) ∧ isHbm (2 ^ 39 - 1) = true := by
  decide +kernel
theorem witness_AtomicHome : roomy.negBlocks 0 = false ∧ (match roomy.atomicAt (roomy.who 0) 64 4 needRW with
    | (.ok pa, u) => !u.isProtected pa && !(u.regionOf (u.strand 0)).rcb.dbg
    | _ => false) = true := by decide +kernel
/-- A log entry of an instruction with its accesses. -/
def ent (r : Raw) (accs : List Acc) : LogEnt := ⟨1, r, 0x400000, 0, 2 ^ 64 - 1, accs, 0, 0, 0, 4, 0, [], [], []⟩
def logs (r : Raw) (accs : List Acc) : State := ron (fun st => { st with log := [(0, ent r accs)] })
theorem witness_MemoryEvents : (logs (rawM 0x92 (byThread 7 8)) [newAcc 63 252 4 0 false]).entry 0 0
      = some (ent (rawM 0x92 (byThread 7 8)) [newAcc 63 252 4 0 false])
    ∧ roomy.entry 0 0 = none ∧ ([newAcc 63 252 4 0 false].map Acc.thread).Nodup ∧ (newAcc 63 252 4 0 false).status = 0
    ∧ (rawM 0x92 (byThread 7 8)).op = 0x92#8 := by decide +kernel
/-- A line of the core's L1 with one dirty byte, of HBM and of host memory. -/
def dirtied (line : Nat) : State := roomy.modCore 0 (fun c => { c with copies := [
  { cache := 0, asid := 0, vline := line, pline := line, perms := 7, data := List.replicate 128 0#8, dirty := 1, dirtySince := 0, wts := 0, rts := 0,
    epoch := 0, hostMem := false, authors := [], poison := 0 }] })
theorem witness_WriteBack : ((dirtied 7).l1Of 0 7).map Copy.dirty = some 1 ∧ (dirtied 7).holding 7 = none
    ∧ (dirtied 7).writeBlocked 7 none (some 0) false false = false ∧ isHbm (2 ^ 44 * 128) = false ∧ isHostMem (2 ^ 44 * 128) = true := by decide +kernel
def leased : State := { (ron (fun st => { st with leases := [7] })) with cycle := 4096, homes := { roomy.homes with holdings := [(7, some ⟨0, 0, 0, 0⟩)] } }
theorem witness_Leases : leased.holding 7 = some ⟨0, 0, 0, 0⟩ ∧ 0 + 4096 ≤ leased.cycle ∧ 7 ∈ (leased.strand 0).leases := by decide +kernel

/-! Faults and their functions. -/
def triaged (w : Bool) : State := logs (rawM 0x90 (byThread 7 8)) [{ newAcc 0 0 4 0 w with status := 2, cls := clsXlate }]
theorem witness_Functions : ((triaged false).fnStores ((triaged false).byHost (.entry 0 0 (BitVec.allOnes 64))) 0 []).1 = []
    ∧ (triaged false).byHost (.entry 0 0 (BitVec.allOnes 64)) = false ∧ (triaged false).pkg.uzoipOff = false
    ∧ (triaged false).entry 0 0 = some (ent (rawM 0x90 (byThread 7 8)) [{ newAcc 0 0 4 0 false with status := 2, cls := clsXlate }])
    ∧ ({ newAcc 0 0 4 0 false with status := 2, cls := clsXlate } : Acc).among (BitVec.allOnes 64) = true
    ∧ ({ newAcc 0 0 4 0 false with status := 2, cls := clsXlate } : Acc).atTriage = true ∧ ((triaged false).core 0).mq = []
    ∧ ((triaged false).strand 0).life = .resident := by decide +kernel

/-! Cursors and counters. -/
def cursored (append : Bool) : State := ron (fun st => { st with curs := (nats 64).map (fun t =>
  (2 * 64 + t, { Cursor.zero with valid := true, append := append, pos := 5 })) })
theorem witness_Cursors : (cursorWalks ++ ([(.kpos, 0xC0), (.kclose, 0xC4), (.kmov, 0xC5)] : List ((KOps → Instr) × Nat))).all (fun p =>
      goes (cursored false) (rawK p.2 (ku 2 2)) && ((cursored false).me.invalidSource (rawK p.2 { ku 2 2 with b := 2, qb := 0 }) == false || p.2 == 0xB8
        || p.2 == 0xBD)) = true
    ∧ roomy.me.invalidSource (rawK 0xB9 (ku 2 3)) = true ∧ (cursored true).me.invalidSource (rawK 0xC4 (ku 2 2)) = false
    ∧ ((cursored true).me.cur (curKey (rawK 0xC4 (ku 2 2)).qa 2 63)).append = true := by decide +kernel
/-- A quantity counter at 0. -/
def counter : State := { roomy with mem := roomy.mem.put [(0, 1#8)], homes := { roomy.homes with ctrs := [(0, some ⟨1, none⟩)] } }
def take (f : Nat) : MOps := { me f 1 4 7 3 with u := 1 }
theorem witness_Counters : (counterInstrs.filter (fun p => p.2 ≠ 0xB0)).all (fun p => goes counter (rawM p.2 (take 0))) = true
    ∧ counter.negBlocks 0 = false ∧ (counter.ctrGates 0 (rawM 0xB1 (take 0)) [(0, 0)]).1 = [(0, 0, .ok 0)]
    ∧ (counter.ctrGates 0 (rawM 0xB1 (take 1)) [(0, 0)]).1 = [(0, 0, .precise clsKind)]
    ∧ (roomy.ctrGates 0 (rawM 0xB0 (take 0)) [(0, 0)]).1 = [(0, 0, .ok 0)] := by decide +kernel
def allowed (frozen : Bool) : State := counter.modCore 0 (fun c => { c with allow := [⟨0, false, 10, 0, 0, 1, 0, frozen, false⟩] })
theorem witness_Allowance : (allowed false).allowOf 0 0 = some ⟨0, false, 10, 0, 0, 1, 0, false, false⟩ ∧ counter.allowOf 0 0 = none
    ∧ (allowed true).isFrozen 0 0 = true ∧ (10 : Nat) ≤ ctrMax ∧ ctrMax < ctrMax + 1 := by decide +kernel
theorem witness_CounterHome : let s := logs (rawM 0xB1 (take 0)) [{ newAcc 0 0 64 5 false with status := 5 }]
    (s.entry 0 0).isSome = true ∧ s.ctrRecalling 0 = none ∧ counter.inFilter 0 = false ∧ kvGet none counter.homes.ctrs 0 ≠ none
    ∧ wouldFlip (counter.nextWts 0 none) = false := by decide +kernel

/-! Matrix and engines. -/
theorem witness_Matrix : (matrixInstrs.filter (fun p => p.2.1 ≠ 0xD3)).all (fun p => goes roomy (rawY p.2.1 (yo 0 9 0))) = true
    ∧ roomy.me.amask = BitVec.allOnes 64 ∧ half.me.amask = BitVec.allOnes 64
    ∧ (on (fun st => { st with amask := 1 })).me.amask ≠ BitVec.allOnes 64
    ∧ State.planRows (rawY 0xD4 (yo 0 0 0)) 512 roomy roomy.me = .enter [] 0 1 0
    ∧ State.planRows (rawY 0xD4 (yo 0 0 5)) 512 (ron (fun st => st.setS 5 513)) (ron (fun st => st.setS 5 513)).me = .fault clsProt 0
    ∧ (roomy.core 0).mq.length < 16 ∧ roomy.pkg.overTemp = false ∧ (roomy.takeLeave 0 0 0 0).1 = true := by decide +kernel
def mentry (stage : Nat) : MEnt :=
  { ident := 1, sid := 0, cid := 0, rid := 0, raw := rawY 0xD4 (yo 0 0 0), pc := 0x400000, seq := 0, stage := stage, aval := 0, bval := 0, abval := 0,
    vals := [], rm := 0, tiles := [], row0 := 511, rows := 1, leave := 0, status := 0, progress := 0, inject := false, flags := 0, events := (0, 0, 0),
    logSlot := none, inbox := none, retryAt := 0, grant := none }
def queued (stage : Nat) : State := roomy.modCore 0 (fun c => { c with mq := [mentry stage] })
theorem witness_MatrixEvents : (queued 0).mEntry 0 1 = some (mentry 0) ∧ (queued 0).mayStart 0 (mentry 0) = true ∧ roomy.mEntry 0 1 = none
    ∧ (mentry 1).stage = 1 ∧ (queued 1).mayStart 0 (mentry 1) = false := by decide +kernel
theorem witness_Engines : copyInstrs.all (fun p => goes roomy (rawX p.2.1 xo)) && expertInstrs.all (fun p => goes roomy (rawX p.2 xo)) = true := by
  decide +kernel

/-! Regions and the launch window. -/
def queuedRegion : State := ({ roomy with time := 1000 * 47 } : State).setRegion 7 { Region.empty with state := 1, queue := some 5, rcb := { Rcb.empty with age := 1 } }
def draining (due : Nat) : State := roomy.setRegion 7 { Region.empty with state := 3, shutAt := some due }
theorem witness_Regions : (queuedRegion.region 7).queue = some 5 ∧ (queuedRegion.region 7).rcb.age ≠ 0 ∧ (queuedRegion.region 7).ending = none
    ∧ (queuedRegion.region 7).waitSince + 1000 * (queuedRegion.region 7).rcb.age ≤ queuedRegion.ns
    ∧ roomy.nextPlacement 1 = none ∧ (draining 0).isDrained 7 = true ∧ (queuedRegion).isDrained 7 = false
    ∧ ((draining 0).region 7).shutAt = some 0 ∧ 0 ≤ (draining 0).time ∧ (draining 1).time < 1
    ∧ ((draining 0).performAsid 0).1 = true := by decide +kernel
theorem witness_Placement : ((({ roomy with cores := [] } : State).setRegion 7 { Region.empty with state := 1, queue := some 3, rcb :=
      { Rcb.empty with nstr := 1, gx := 1, gy := 1, gz := 1, allot := 8, tiles := 1, slotb := 16, tileb := 256, rowb := 512 }, pool := 7, owner := true }).nextPlacement 0).map
      Prod.fst = some 7 := by decide +kernel
/-- Context 0 is valid, and region 7 of it runs from the RCB at 0x200. -/
def ctx : State := ({ roomy with mem := roomy.mem.put [(8, 1#8)] } : State).setRegion 7 { Region.empty with rcbVa := 0x200, state := 2 }
theorem witness_Window : roomy.windowBusy (windowPage 0 true) = false
    ∧ (roomy.park (.window 0 0 0)).windowBusy (windowPage 0 false) = true ∧ 0x100 % 2 ^ 56 % 512 ≠ 0
    ∧ (match ctx.readRcb ⟨0, none, 0, true⟩ 0x400 none none with
      | (.ok l, u) => u.ctxValid 0 && l.state == 0 && l.rcb.prio != 7 && decide (u.liveRegions < 1024)
      | _ => false) = true
    ∧ roomy.ctxValid 0 = false ∧ ctx.regionAt 0 0x200 = some 7 ∧ ctx.regionAt 0 0x400 = none ∧ (ctx.region 7).state = 2
    ∧ (match ctx.resumeRegion 7 with | (some 0, _) => true | _ => false) = true ∧ roomy.pkg.ctxKill = none := by decide +kernel

/-! Translation, copies, logical time. -/
def asked : State := { roomy with xlate := { roomy.xlate with requests := [⟨0, 0, 0x10000, 0, none⟩] } }
theorem witness_Translations : roomy.hostMode 0 = false ∧ (∀ e ∈ kvGet [] roomy.xlate.dieTlb 0, e.serves 0 0x10000 = false)
    ∧ (match roomy.walk 0 0 0x10000 with | (.fault c, _) => c | _ => 0) = clsXlate ∧ (⟨0, 0, 0x10000, 0, none⟩ : XAsk) ∈ asked.xlate.requests
    ∧ leafOk 0x1F (2 ^ 30) = true ∧ leafOk 0x1E (2 ^ 30) = false
    ∧ ((on (fun st => { st with waiting := .llc 7 .start })).strand 0).waiting = .llc 7 .start ∧ llcCsr 0x900 = true
    ∧ (match roomy.access ⟨0, none, 0, true⟩ 128 needR 0 with | (.hit pa _, _) => isHbm pa | _ => false) = true
    ∧ ((s0.core 0).icache.find? (fun c => c.asid == s0.asidOf (s0.strand 0) && c.vline == 0x400000 / 128)).isSome = true := by decide +kernel
theorem witness_Walk : let root : Nat := 2 ^ 20
    let s : State := { roomy with mem := Memory.put [] (cellsOf 0 (leBytes 8 root) ++ cellsOf root (leBytes 8 (2 ^ 21 + 1))
      ++ cellsOf (2 ^ 21) (leBytes 8 0x1F)) }
    (match s.walk 0 0 0x10000 with | (.leaf p n, _) => (p, n) | _ => (0, 0)) = (0x1F, 2 ^ 30) := by decide +kernel
def ticked (lt cycle : Nat) : State := { (roomy.setCore 0 { Core.empty with lt := lt, tickAt := 0 }) with cycle := cycle }
theorem witness_LogicalTime : (ticked 5 16).cycle = ((ticked 5 16).core 0).tickAt + 16 ∧ 2 ^ 31 ≤ ((ticked (2 ^ 31 - 1) 16).core 0).lt + 1
    ∧ ((ticked (2 ^ 31 - 2) 16).core 0).lt + 1 < 2 ^ 31 ∧ (∃ h ∈ leased.homes.holdings, h.2.isSome = true)
    ∧ (∀ h ∈ roomy.homes.holdings, h.2 = none) ∧ (∀ p ∈ roomy.cores, ∀ c ∈ p.2.copies, c.dirty = 0)
    ∧ State.reset.coreIdle 191 = true ∧ roomy.coreIdle 0 = false ∧ (State.reset.core 191).snap = none := by decide +kernel
theorem witness_Safelight : let s := State.reset.setCore 5 { Core.empty with snap := some 0 }
    (s.core 5).snap = some 0 ∧ (s.pkg.flips - 0) % 2 ^ 32 < 2 ∧ 2 ≤ (({ s with pkg := { s.pkg with flips := 2 } } : State).pkg.flips - 0) % 2 ^ 32 := by
  decide +kernel
theorem witness_HoldingEnd : leased.holding 7 = some ⟨0, 0, 0, 0⟩ ∧ isHbm (7 * 128) = true ∧ leased.inFilter 7 = false
    ∧ wouldFlip (leased.nextWts 7 (some 0)) = false ∧ leased.homes.tags = [] ∧ leased.reg 0xA34 = 0
    ∧ (∀ w ∈ ([(7 * 128, 1#8), (7 * 128 + 127, 2#8)] : List (Nat × Byte)), w.1 / 128 = 7 ∧ leased.isProtected w.1 = false)
    ∧ (([(7 * 128, 1#8), (7 * 128 + 127, 2#8)] : List (Nat × Byte)).map Prod.fst).Nodup := by decide +kernel

/-! The host and the package. -/
theorem witness_Host : isHostMem (2 ^ 44 * 128) = true ∧ roomy.snoopWaits (2 ^ 44) = false ∧ leased.snoopWaits 7 = true ∧ roomy.homes.poison = []
    ∧ roomy.homes.tags = [] ∧ (2 ^ 39 - 2 : Nat) + 2 ≤ 2 ^ 39 ∧ (∀ l ∈ linesOf (2 ^ 39 - 2) 2, roomy.writeBlocked l none none false true = false)
    ∧ (∃ l ∈ linesOf (7 * 128) 1, leased.writeBlocked l none none false true = true)
    ∧ privListed 0xA10 = true ∧ privListed 0x802 = false := by decide +kernel
theorem witness_Registers : roomy.pkg.dtsetUsed = false ∧ roomy.pkg.launched = false ∧ roomy.fwFull = false ∧ roomy.pkg.uzoipWait = []
    ∧ (((roomy.setReg 0xA1A 2).setReg 0xA1B 0).setReg 0xA1C 1).fwFull = true
    ∧ (roomy.setReg 0xA11 (3 * 2 ^ 62 + 1)).fwGranted (2 ^ 24 - 8) false = true ∧ (roomy.setReg 0xA11 (3 * 2 ^ 62 + 1)).fwGranted (2 ^ 24 - 7) true = false
    ∧ (roomy.nonceSet 7 1).pkg.atBusy = true ∧ roomy.pkg.atBusy = false := by decide +kernel
def later (n : Nat) : State := { roomy with time := 47 * n }
theorem witness_Records : stackOf 0 = 0 ∧ isHbm 0 = true ∧ roomy.pkg.topupAt < (later 100000).ns / 100000
    ∧ (later 99999).ns / 100000 ≤ roomy.pkg.topupAt ∧ (later 3600000000000).pkg.lifeHour < (later 3600000000000).hours := by decide +kernel
def sheeted (area : Nat) : State := (((later 1000).setReg 0xA30 1).setReg 0xA37 area).setRegion 7
  { Region.empty with state := 2, sheeting := true, rcb := { Rcb.empty with dbg := true } }
theorem witness_Sheets : (sheeted 64).pkg.lastSheet < (sheeted 64).sheetTime ∧ (sheeted 64).sheetReady 7 = true ∧ (sheeted 63).reg 0xA37 < 64
    ∧ 64 ≤ (sheeted 64).reg 0xA37 ∧ (sheeted 64).reg 0xA32 = 0 ∧ roomy.sheetReady 7 = false
    ∧ (7, (sheeted 64).region 7) ∈ (sheeted 64).allRegions := by decide +kernel
theorem witness_SheetRuns : let s := (sheeted 64).setCohort 3 { Cohort.empty with alive := true, rid := 7 }
    (s.region 7).rcb.dbg = true ∧ (s.region 7).state = 2 ∧ (s.region 7).ending = none ∧ s.liveCohorts 7 ≠ [] := by decide +kernel

/-! The fabric. -/
def flit (kind : Nat) (payload : List Byte) : Flit := flitSealed ⟨11, 0, 0, 0, 4095, kind, 0, 1, 0, 0, payload⟩
def reading (pa n : Nat) : Flit := flit 1 (leBytes 8 pa ++ leBytes 8 n ++ leBytes 8 9)
/-- CRC-64/ECMA-182 of the nine digits, from its published check value. -/
theorem test_crc64_check : crc64 0 [0x31#8, 0x32#8, 0x33#8, 0x34#8, 0x35#8, 0x36#8, 0x37#8, 0x38#8, 0x39#8] = 0x6C40DF5F0B497347 := by
  decide +kernel
theorem witness_Link : (flit 1 []).port < 12 ∧ flitCrcOk (flit 1 []) = true ∧ (flit 1 []).seq = (roomy.port 11).rxSeq
    ∧ { flit 1 [] with seq := 1 }.seq ≠ (roomy.port 11).rxSeq ∧ roomy.tooOld (flit 1 []) = false ∧ (later 250001).tooOld (flit 1 []) = true
    ∧ (later 250000).tooOld (flit 1 []) = false ∧ flitCrcOk { flit 1 [] with crc := 0 } = false := by decide +kernel
theorem witness_Retrain : 16 ≤ ((roomy.setPort 3 { Port.empty with naks := List.replicate 16 0 }).port 3).naks.length ∧ (roomy.port 3).naks.length < 16 := by decide +kernel
theorem witness_Peers : roomy.portBusy 1 = false ∧ flitInHbm (reading (2 ^ 39 - 200) 200) = true ∧ flitInHbm (reading (2 ^ 39 - 199) 200) = false
    ∧ flitInHbm (reading 0 201) = false ∧ (∀ l ∈ linesOf (2 ^ 39 - 200) 200, roomy.leaseBlocks l none false = false ∧
        roomy.writeBlocked l none none false false = false)
    ∧ (reading 0 2).payload.length = 24 ∧ (∀ i < 2, roomy.isProtected (0 + i) = false) ∧ (∀ x ∈ [2 ^ 32 - 1, 0], x < 2 ^ 32)
    ∧ roomy.currentGen (flit 0x11 (leBytes 8 0)) = false := by decide +kernel
/-- Group 0 of two ranks, this device being rank 0, and its peer 0x22 rank 1. -/
def grouped : State := ({ roomy with mem := roomy.mem.put (cellsOf (2 ^ 20) (leBytes 8 (1 + 2 ^ 7)) ++ [(2 ^ 20 + 39, 128#8), (2 ^ 20 + 130, 0x22#8)]) } : State).setReg 0x9A1 (2 ^ 20)
theorem witness_Groups : grouped.groups = [0] ∧ bit (grouped.grp 0) 0 = true
    ∧ (grpRanks (grouped.grp 0)).filter (fun q => q != grpRank (grouped.grp 0) && grpMember (grouped.grp 0) q == 0x22) = [1]
    ∧ kvGet 0 grouped.fabric.rebuildAt 0 ≤ grouped.ns ∧ grouped.deliverable [grouped.grpAt 0 / 128] (grouped.grp 0) = true
    ∧ grouped.grpAt 0 + 256 ≤ 2 ^ 39 ∧ grouped.grpAt 0 % 256 = 0 ∧ isHbm (grpCsig (grouped.grp 0) / 8 * 8) = false := by decide +kernel
theorem witness_Rebuilds : let s : State := { roomy with fabric := { roomy.fabric with rebuilds := [(0, 1)], rebuildAt := [(0, 1)] } }
    s.fabric.rebuilds.find? (fun r => r.1 == 0) = some (0, 1) ∧ s.ns < kvGet 0 s.fabric.rebuildAt 0
    ∧ (roomy.setPort 11 { Port.empty with ptp := 1 }).port 11 = { Port.empty with ptp := 1 } := by decide +kernel

/-! ## Single steps: the instruction's word is placed where the next step fetches it, and one or two fields of the result are looked at -/

/-- What a fact about the next state is worth: false where the step has none. -/
def after (s : State) (nbits w : Nat) (p : State → Bool) : Bool :=
  match step (s.withFetchWord nbits w) with
  | .next t => p t
  | _ => false
/-- R102: MOVI v2, 5 writes 5 in every thread, and the PC goes on by 4. -/
theorem test_step_movi : after s0 32 0x014139E0 (fun t => t.me.v 2 63 == 5 && t.me.v 2 0 == 5 && t.me.pc == 0x400004) = true := by decide +kernel
/-- R94: ADD v3, v3, v2 wraps modulo 2^32. -/
theorem test_step_add_wraps : after (on (fun st => (st.setV 3 7 (2 ^ 32 - 1)).setV 2 7 2)) 32 0x0081B900 (fun t => t.me.v 3 7 == 1) = true := by
  decide +kernel
/-- R96: -7 DIV 2 is -3, and DIV by 0 is all ones; the operands are signed (i32). -/
theorem test_div_truncates : divElem false true 32 (2 ^ 32 - 7) 2 = 2 ^ 32 - 3 ∧ divElem false true 32 5 0 = 2 ^ 32 - 1
    ∧ divElem true true 32 (2 ^ 32 - 7) 2 = 2 ^ 32 - 1 := by decide +kernel
/-- R91, R20: MOVI.U s63, 2 writes a uniform register; to s0 it writes nothing. -/
theorem test_step_movi_uniform : after s0 32 0x009FB9E4 (fun t => t.me.s 63 == 2) = true := by decide +kernel
theorem test_step_s0_discards : after s0 32 0x008039E4 (fun t => t.me.s 0 == 0 && t.me.pc == 0x400004) = true := by decide +kernel
/-- R104: 1 + 2^-24 in FP32 rounds to even, and up with RUP; NX is set. -/
theorem test_float_rounds : floatElem 0x60 fmtF32 0 0x3F800000 0x33800000 0 = ⟨0x3F800000, flNX, 0⟩
    ∧ (floatElem 0x60 fmtF32 3 0x3F800000 0x33800000 0).bits = 0x3F800001 := by decide +kernel
/-- R121: NOP moves the PC; the all-zero word traps (R66): with no mapped frame the region ends with a fault (R202, R363). -/
theorem test_step_nop : after s0 32 0x00003800 (fun t => t.me.pc == 0x400004 && t.me.vregs == s0.me.vregs) = true := by decide +kernel
theorem test_step_zero_word : after s0 32 0 (fun t => (t.strand 0).life == .ended && (t.region 0).state == 6) = true := by decide +kernel
/-- R206: TRAP 5 with a handler enters it: class 18 in s61, the PC at HANDLER, handler mode on; the frame holds the address of
the trapping instruction and the next one's as the resume PC (R204). -/
def handled : State := mapped.setRegion 0 { mapped.region 0 with rcb := { (mapped.region 0).rcb with handler := 0x500000, dmask := 2 ^ 18 } }
theorem test_step_trap : after handled 32 0x01403868 (fun t => t.me.pc == 0x500000 && t.me.hmode && t.me.s 61 % 32 == 18
    && t.numAt (t.me.s 60) 8 == 0x400004 && t.numAt (t.me.s 60 + 8) 8 == 0x400000) = true := by decide +kernel
/-- R122: CALL by its offset writes s62. BRA back by 2^15 words. -/
theorem test_step_bra : after s0 32 0xFFE03808 (fun t => t.me.pc == 0x400000 - 4 * 64) = true := by decide +kernel
/-- R158, R160: STL of v5 by thread index, then the scratchpad holds the highest thread's byte of an address. -/
theorem test_step_stl : after (ron (fun st => (st.setP 2 0).setV 5 3 0xA1B2C3D4)) 64 (two 0x0002D489 0)
    (fun t => t.me.pc == 0x400008) = true := by decide +kernel
/-- R34, R103: CSRR of TIME reads device time in ns; CSRW of FRM with a reserved mode stores 000. -/
theorem test_step_time : after (later 1234) 64 (two 0x0003B9F1 0x010) (fun t => t.me.s 7 == 1234) = true := by decide +kernel
theorem test_step_frm : after (on (fun st => st.setS 7 6)) 64 (two 0x01C039F9 0) (fun t => t.me.frm == 0) = true := by decide +kernel
/-- R119: MATCH over equal values gives the mask of all threads. -/
theorem test_step_match : after s0 64 (two 0x00823C29 0x40000) (fun t => t.me.v 4 63 == 2 ^ 32 - 1 && t.me.v 5 0 == 2 ^ 32 - 1) = true := by
  decide +kernel
/-- R411: a write at the home stamps the line one past its rts. -/
theorem test_home_write_stamps : (roomy.homeWrite [(5, 7#8)] (some 0)).wr 0 = (1, 1) ∧ (roomy.homeWrite [(5, 7#8)] (some 0)).byteAt 5 = 7#8 := by
  decide +kernel
/-- R454: Uzoip sets bits of MODESEL and clears none; the host writes it. -/
theorem test_modesel : ((roomy.modeselSet (.host 0) 5).modeselSet (.uzoip 0) 2).reg 0xA10 = 7 := by decide +kernel
/-- R414, R452: stored values of LEASELEN, VSET and BUDGET. -/
theorem test_field_rules : (roomy.leaselenSet 15).reg 0x969 = 256 ∧ (roomy.leaselenSet 4096).reg 0x969 = 4096 ∧ (roomy.vsetSet 1023).reg 0xA02 = 520
    ∧ (roomy.budgetSet 1901).reg 0xA00 = 1600 ∧ (roomy.budgetSet 1900).reg 0xA00 = 1900 := by decide +kernel

/-! ## The hash of R457 -/

/-- The first 8 bytes of SHA-512 of "abc", as FIPS 180-4 prints them. -/
theorem test_sha512_abc :
    (sha512 [0x61#8, 0x62#8, 0x63#8]).take 8 = [0xDD#8, 0xAF#8, 0x35#8, 0xA1#8, 0x93#8, 0x61#8, 0x7A#8, 0xBA#8] := by
  decide +kernel

/-! ## Witnesses for the statements of completion -/

theorem unburdened_of (s : State) (h : (s.me.log.isEmpty && s.me.leases.isEmpty && s.me.waiting == .nothing && s.me.life == .resident
    && s.strands.all (fun p => match p.2 with
      | some x => x.log.all (fun q => q.2.raw.op != 0x9D#8)
      | none => true)) = true) : Unburdened s := by
  simp only [Bool.and_eq_true, List.isEmpty_iff, beq_iff_eq] at h
  exact ⟨h.1.1.1.1, h.1.1.1.2, h.1.1.2, h.1.2, undisturbed_of s h.2⟩
theorem witness_Unburdened : Unburdened roomy := unburdened_of _ (by decide +kernel)
/-- The one thread of a strand-wide access at S(1); strong where it says so. -/
def lone (f a d ty kind : Nat) : MOps := { me f a d 7 ty with u := 1, kind := BitVec.ofNat 2 kind }
/-- The home of a line in package HBM stands free. -/
def quiet (s : State) (va need n : Nat) : Bool :=
  (match s.access (s.who s.cur) va need 0 with
    | (.hit pa _, _) => pa == va && isHbm pa && (s.l1Of s.me.core (pa / 128)).isNone && (s.holding (pa / 128)).isNone && !s.goPending (pa / 128)
        && !s.writeBlocked (pa / 128) none (some s.me.core) true false
    | _ => false) && decide (va % 128 + n ≤ 128) && s.homes.poison.isEmpty && s.homes.hbmBad.isEmpty && s.homes.tags.isEmpty && s.reg 0xA34 == 0
theorem homeIsQuiet_of (s : State) (va need n : Nat) (h : quiet s va need n = true) : HomeIsQuiet s va need n va := by
  simp only [quiet, Bool.and_eq_true, decide_eq_true_eq, List.isEmpty_iff, beq_iff_eq] at h
  obtain ⟨⟨⟨⟨⟨h1, h2⟩, h3⟩, h6⟩, h4⟩, h5⟩ := h
  split at h1
  case h_1 pa perms u he =>
    simp only [Bool.and_eq_true, Bool.not_eq_true', Option.isNone_iff_eq_none, beq_iff_eq] at h1
    obtain ⟨⟨⟨⟨⟨e, a⟩, b⟩, c⟩, d⟩, f⟩ := h1
    subst e
    exact ⟨⟨perms, u, he⟩, h2, h2, a, b, c, d, f, h3, h6, noTagLost_of_nil s h4, h5⟩
  case h_2 => simp at h1
theorem witness_HomeIsQuiet : HomeIsQuiet roomy 64 needRW 8 64 := homeIsQuiet_of _ _ _ _ (by decide +kernel)
theorem witness_LoadsComplete : (goes cached (rawM 0x90 (byThread 7 8)) && goes roomy (rawM 0x90 (lone 0 1 4 8 1)) && goes roomy (rawM 0x92 (byThread 7 8))
      && goes roomy (rawM 0x91 (lone 0 1 4 8 1)) && goes roomy (rawM 0x99 (lone 0 1 4 1 0))) = true
    ∧ (∀ th ∈ cached.me.memThreads (rawM 0x90 (byThread 7 8)), cached.me.ea (rawM 0x90 (byThread 7 8)) th % (rawM 0x90 (byThread 7 8)).accAlign = 0
        ∧ cached.me.ea (rawM 0x90 (byThread 7 8)) th % 128 + 4 ≤ 128
        ∧ ((cached.copyOf 0 (fun c => c.isAt (cached.me.loadCache (rawM 0x90 (byThread 7 8))) 0 (cached.me.ea (rawM 0x90 (byThread 7 8)) th / 128))).map
            (fun c => (permFault c.perms needR true 0).isNone && cached.copyValid 0 c && !cached.leasedAway 0 c.pline (some 0))) = some true)
    ∧ cached.me.around = false ∧ roomy.me.memThreads (rawM 0x90 (lone 0 1 4 8 1)) = [0] ∧ roomy.me.guardThreads (rawM 0x91 (lone 0 1 4 8 1)) = [0]
    ∧ (rawM 0x90 (lone 0 1 4 8 1)).kind = 1 ∧ (∀ th < 64, roomy.spadStruck 0 (roomy.me.offset (rawM 0x92 (byThread 7 8)) th).toNat 4 = false)
    ∧ roomy.isProtected 0 = false := by decide +kernel
def holder : State := { leased with cycle := 0 }
theorem witness_LeasesAndWaitsComplete : (goes roomy (rawM 0x9B (me 0 1 4 7 0)) && goes holder (rawM 0x9C (me 0 1 4 7 0)) && goes roomy (rawM 0x9D (lone 0 1 4 1 0))
      && goes roomy (rawM 0x9D (lone 4 1 4 1 0))) = true
    ∧ quiet roomy 0 needRW 1 = true ∧ roomy.pkg.flipping = false ∧ roomy.slotFree 0 0 0 = true ∧ roomy.readBlocked 0 (some 0) 0 = false
    ∧ (match holder.access (holder.who 0) 0 needRW 0 with | (.hit pa _, _) => pa == 0 | _ => false) = true ∧ holder.me.log = []
    ∧ roomy.me.memThreads (rawM 0x9D (lone 0 1 4 1 0)) = [0] ∧ waitHolds (rawM 0x9D (lone 0 1 4 1 0)) (roomy.numAt 0 4) 0 = true
    ∧ roomy.spadCheck 0 0 4 4 = none ∧ roomy.spadStruck 0 0 4 = false := by decide +kernel
/-- Thread 0 alone is active. -/
def single : State := ron (fun st => { st with amask := 1 })
theorem witness_LinesComplete : ([0x95, 0x96] : List Nat).all (fun op => goes (dirtied 0) (rawM op (me 0 1 0 7 0)) && goes (dirtied 0) (rawM op (me 1 1 0 7 0))) = true
    ∧ (dirtied 0).me.lineThreads (rawM 0x95 (me 0 1 0 7 0)) = [0] ∧ ((dirtied 0).l1Of 0 0).isSome = true
    ∧ (dirtied 0).copyOf 0 (fun c => c.isAt 0 0 0) = (dirtied 0).l1Of 0 0 ∧ permFault 7 needW true 0 = none ∧ (dirtied 0).holding 0 = none
    ∧ (dirtied 0).writeBlocked 0 none (some 0) false false = false ∧ (∀ i < 128, (dirtied 0).isProtected i = false) ∧ (dirtied 0).homes.tags = []
    ∧ goes single (rawM 0x97 (me 0 1 4 7 0)) = true ∧ goes single (rawM 0x98 (me 0 1 4 7 0)) = true ∧ single.me.active = [0] := by decide +kernel

/-! Cursors: a level table at 2^21 with a BLOCK level, whose heads stand at 2^22 and blocks at 2^23, and a HASHED level of four slots at
2^22, its count at 2^22 + 512 and its values at 2^22 + 1024. -/
def blockLevel : Nat := kBlock + 2 * 2 ^ 6 + 0xFFFF * 2 ^ 16 + 1000 * 2 ^ 64 + 2 ^ 22 * 2 ^ 128 + 2 ^ 23 * 2 ^ 256 + 2 ^ 20 * 2 ^ 448
def hashLevel : Nat := kHashed + 0xFFFF * 2 ^ 16 + 2 * 2 ^ 32 + 1000 * 2 ^ 64 + 2 ^ 22 * 2 ^ 128 + (2 ^ 22 + 512) * 2 ^ 192 + (2 ^ 22 + 1024) * 2 ^ 320
def tabled (level : Nat) (c : Cursor) (lines : List Nat) : State :=
  let s := (single.setRegion 0 { single.region 0 with rcb := { (single.region 0).rcb with ltbase := 2 ^ 21, ltlen := 1 } }).modStrand 0
    (fun st => { st with curs := [(2 * 64, c)] })
  ({ s with mem := s.mem.put (cellsOf (2 ^ 21) (leBytes 64 level)) } : State).modCore 0 (fun k => { k with copies := lines.map (fun l =>
    { cache := 0, asid := 0, vline := l, pline := l, perms := 7, data := List.replicate 128 0#8, dirty := 0, dirtySince := 0, wts := 0, rts := 0,
      epoch := 0, hostMem := false, authors := [], poison := 0 }) })
/-- An append cursor with one entry in block 0, and one on the hashed level. -/
def appending : Cursor := { Cursor.zero with valid := true, append := true, kind := 5#3, pos := 1, boundhi := 2 ^ 40 - 1, ttag := 0 }
def merging : Cursor := { Cursor.zero with valid := true, append := true, kind := 3#3, boundhi := 4 }
/-- A cursor of a DENSE level at position 5 of 10. -/
def dense : Cursor := { Cursor.zero with valid := true, pos := 5, boundhi := 10, lev := 10 * 2 ^ 64 + 0xFFFF * 2 ^ 16 }
def walking : State := tabled (10 * 2 ^ 64 + 0xFFFF * 2 ^ 16) dense []
theorem witness_CursorWalks : ([0xB9, 0xBA, 0xBB, 0xBE, 0xBF] : List Nat).all (fun op =>
      let o : KOps := { ku 2 3 with b := 4, imm := none }
      let r := rawK op o
      goes walking r && !walking.me.invalidSource r && walking.me.cursorThreads r == [0]
        && (match runWalk (walkThread (walking.walker 0 walking.seq) r ⟨dense, Cursor.zero, walking.me.cursorX r 0, walking.me.cursorY r 0⟩) walking with
            | (.ok _, _) => true
            | _ => false)) = true
    ∧ (cursorDests (rawK 0xB9 (ku 2 3))).length = 1 ∧ cursorPreds (rawK 0xB9 (ku 2 3)) = [7] ∧ ((walking.core 0).copies.all (fun c => c.dirty == 0)) = true := by
  decide +kernel
theorem witness_Kapp : let s := tabled blockLevel appending [2 ^ 16]
    let r := rawK 0xC2 { ku 2 0 with c := 4, b := 3 }
    goes s r = true ∧ s.me.invalidSource r = false ∧ s.me.cursorThreads r = [0] ∧ s.kappMisuse 0 r = none
    ∧ (match runWalk (wkOf (s.walker 0 s.seq) appending) s with
        | (.ok l, u) =>
          let app := appendWrites l appending 0 (s.me.cursorX r 0) (s.me.cursorY r 0) none
          decide (l.n = 1000) && app.2.length == 3 && app.2.all (fun a => app.2.all (fun b => a == b || !sameBytes a b))
            && app.2.all (fun a => a.va / 128 == 2 ^ 16 && decide (a.va % 128 + a.size ≤ 128) && !u.isProtected a.va)
            && (u.copyOf 0 (fun k => k.isAt 0 0 (2 ^ 16))).isSome && !u.leasedAway 0 (2 ^ 16) (some 0)
        | _ => false) = true := by decide +kernel
theorem witness_Kapm : let s := tabled hashLevel merging []
    let r := rawK 0xC3 { ku 2 4 with c := 4, b := 3 }
    goes s r = true ∧ s.me.invalidSource r = false ∧ s.me.cursorThreads r = [0]
    ∧ (match runWalk (wkMerge (s.walker 0 s.seq) merging) s with
        | (.ok l, u) => (match u.mergeHome (s.who 0) s.seq l (s.me.cursorX r 0) 1 with
            | (.ok k, _) => k == 0
            | _ => false)
        | _ => false) = true := by decide +kernel
theorem witness_Kclose : goes (cursored true) (rawK 0xC4 (ku 2 2)) = true ∧ (cursored true).me.invalidSource (rawK 0xC4 (ku 2 2)) = false
    ∧ (∀ th ∈ (cursored true).me.cursorThreads (rawK 0xC4 (ku 2 2)), ((cursored true).me.cur (curKey (rawK 0xC4 (ku 2 2)).qa 2 th)).kind.toNat ≠ kBlock)
    ∧ (rawK 0xC4 (ku 2 2)).mod % 4 = 0 := by decide +kernel

/-! Counters: the strand's allowance of a quantity counter at 0, and of a range counter. -/
def alone (s : State) (op : Nat) (o : MOps) : Bool :=
  goes s (rawM op o) && s.me.memThreads (rawM op o) == [0] && (match s.ctrGate 0 (rawM op o) 0 with
    | (.ok pa, _) => pa == 0
    | _ => false) && !s.isStill 0 0 && !s.ctrEarlier 0 0 s.seq
def richer : State := (allowed false).modStrand 0 (fun st => st.setS 4 3)
theorem witness_CountersComplete : (alone richer 0xB1 (take 0) && alone richer 0xB2 (take 0) && alone richer 0xB4 (take 0) && alone counter 0xB5 (take 0)
      && alone counter 0xB3 (take 0) && alone roomy 0xB0 (take 0)) = true
    ∧ richer.me.ctrUnit (rawM 0xB1 (take 0)) 0 0 = 3 ∧ counter.l1Of 0 0 = none ∧ counter.holding 0 = none ∧ counter.holdersBut 0 none = []
    ∧ counter.writeBlocked 0 (some 0) (some 0) true false = false ∧ blkKind (counter.blk 0) = 1 ∧ roomy.homes.ctrs = [] := by decide +kernel
/-- A quantity counter with CAP 100. -/
def capped : State := { richer with mem := roomy.mem.put (cellsOf 0 (leBytes 64 (initBlock false false (fun i => if i = 2 then 1 + 100 * 2 ^ 32 else 0) 0))) }
theorem witness_Give : alone capped 0xB2 (take 0) = true ∧ capped.me.ctrUnit (rawM 0xB2 (take 0)) 0 0 = 3 ∧ 10 + 3 ≤ blkCap (capped.blk 0) := by decide +kernel
/-- A range counter of which the core holds 5 to 9, and its END at 10. -/
def ranged : State := { roomy.modCore 0 (fun c => { c with allow := [⟨0, true, 5, 9, 0, 1, 0, false, false⟩] }) with
  mem := roomy.mem.put (cellsOf 0 (leBytes 64 (initBlock true false (fun i => if i = 1 then 10 else if i = 2 then 1 else 0) 0))),
  homes := { roomy.homes with ctrs := [(0, some ⟨1, none⟩)] } }
theorem witness_Ranges : (alone (ranged.modStrand 0 (fun st => st.setS 4 3)) 0xB1 (take 1) && alone (ranged.modStrand 0 (fun st => st.setS 4 20)) 0xB0 (take 2)) = true
    ∧ blkKind (ranged.blk 0) = 2 ∧ blkEnd (ranged.blk 0) ≤ 20 ∧ (20 : Nat) ≤ ctrMax
    ∧ initOk true (fun i => if i = 1 then 10 else if i = 2 then 1 else 0) = true := by decide +kernel

/-! Matrix instructions that complete. -/
/-- The cohort owns the top-k buffer, and a valid shadow plane of its context stands by. -/
def armed : State := (ron (fun st => st.setS 5 32)).modCore 0 (fun c => { c with weight :=
  { c.weight with topkOwner := some 0, asid := some 0, shadow := { c.weight.shadow with valid := true } } })
theorem witness_MatrixComplete : ([(0xD2, 0), (0xD4, 0), (0xD5, 0), (0xD6, 0), (0xD8, 0), (0xD8, 1), (0xD9, 2)] : List (Nat × Nat)).all (fun p =>
      goes armed (rawY p.1 { yo 0 9 0 with f := BitVec.ofNat 3 p.2, af := if p.1 = 0xD5 ∨ p.1 = 0xD6 then 8 else 0 })) = true
    ∧ goes armed (rawY 0xD0 { yo 0 9 5 with f := 2, af := 0 }) = true ∧ armed.me.amask = BitVec.allOnes 64 ∧ armed.cur ∈ (armed.cohort 0).strands
    ∧ (armed.core 0).mq = [] ∧ bit (armed.core 0).weight.minj.toNat 63 = false ∧ armed.pkg.overTemp = false
    ∧ State.planFill (rawY 0xD0 { yo 0 9 5 with f := 2, af := 0 }) armed armed.me = .enter (tilesOf 0 4096) 0 0 0
    ∧ State.planRows (rawY 0xD8 (yo 0 9 0)) 512 armed armed.me = .enter [] 0 1 0 ∧ armed.accStruck 0 0 1 = []
    ∧ armed.takeLeave 0 0 0 (armed.regionOf armed.me).pool = (true, armed) ∧ (armed.core 0).weight.topkOwner = some 0 := by decide +kernel

/-! Engines: XGATHER of one row of 16 bytes to offset 512 by a list at 256, and XDISP of one record at 512 of a layer at 2^22. -/
def gathering : State := ron (fun st => (st.setS 22 (256 * 2 ^ 38 + 2 ^ 20 + 16)).setS 21 512)
theorem witness_EngineInstructions : goes gathering (rawX 0xE2 xo) = true ∧ gathering.copyFull 0 = false ∧ gathering.reg 0xA34 = 0
    ∧ Raw.barAt (rawX 0xE2 xo) = none
    ∧ (match gathering.planGather gathering.me (rawX 0xE2 xo) with
        | .enter q => q.leave == 0 && q.abands.isEmpty && q.members.isEmpty && !gathering.tilesBusy 0 (q.own ++ q.theirs) && q.payload == 16
        | _ => false) = true := by decide +kernel
/-- An LCB with its least fields: one expert of one rank, one row of 32 bytes. -/
def lcb0 : Nat := 1 + 2 ^ 10 + 2 ^ 16 + 2 ^ 64 + 2 ^ 96 + 2 ^ 112 + 1000 * 2 ^ 160 + 2 ^ 288
def dispatching : State := { (ron (fun st => ((st.setS 20 (2 ^ 22)).setS 22 1).setS 21 512)) with mem := roomy.mem.put (cellsOf (2 ^ 22) (leBytes 128 lcb0)) }
theorem witness_ExpertInstructions : goes dispatching (rawX 0xE5 xo) = true ∧ dispatching.copyFull 0 = false
    ∧ (match dispatching.planExpert 0 (rawX 0xE5 xo) with
        | (some (.enter q, pa, _), u) => pa == 2 ^ 22 && q.leave == 0 && !u.tilesBusy 0 q.own && u.reg 0xA34 == 0 && u.layerOf pa == none
        | _ => false) = true := by decide +kernel
/-- A copy command of the strand, at a stage. -/
def ccmd (stage : Nat) : CCmd :=
  { ident := 1, sid := 0, cid := 0, rid := 0, asid := 0, raw := rawX 0xE2 xo, pc := 0x400000, seq := 0, stage := stage, dval := 0, regs := [],
    spadBase := 512, sigVal := 0, rm := 0, row := 0, list := [], tiles := [(2, 16)], bar := none, members := [], leave := 0, progress := 0, left := 16, code := 0,
    mask := 0, faddr := 0, stash := [], failed := false, events := (0, 0, 0), inbox := none, retryAt := 0, grant := none, wts := 0, byHost := false }
def copying (stage : Nat) : State := roomy.modCore 0 (fun c => { c with cq := [ccmd stage] })
theorem witness_CopyEvents : (copying 0).command 0 1 = some (ccmd 0) ∧ (copying 1).command 0 1 = some (ccmd 1) ∧ roomy.command 0 1 = none
    ∧ (ccmd 2).doneWith 2 = true ∧ kvFind (ccmd 2).tiles 2 = some 16 ∧ (ccmd 2).bar = none ∧ (ccmd 2).stage ≠ 3 := by decide +kernel
/-- A layer with its block, whose batch of expert 0 is open since time 0, and an instant queued for it. -/
def layer0 : Layer := ⟨0, 0, 0, 0, 2 ^ 22, 2 ^ 22, BitVec.ofNat 1024 (lcb0 + 2 ^ 15 + 2 ^ 192 + 2 ^ 20 * 2 ^ 960), 0, 0⟩
def layered : State := { (roomy.setRegion 0 { roomy.region 0 with state := 2 }) with
  time := 1000 * 47, mem := roomy.mem.put (cellsOf (2 ^ 20) (leBytes 64 (2 ^ 78 + 2 ^ 64 + 2 ^ 96))),
  experts := { roomy.experts with
    layers := [layer0], queues := [(0, [⟨0, none, 0, 0, 2 ^ 22, .instants 1, 0, 0⟩])],
    products := [⟨0, 0, key0, [1, 2, 3, 4], 2 ^ 22, 0, 0⟩] } }
theorem witness_ExpertEvents : layered.layerOf (2 ^ 22) = some layer0 ∧ roomy.layerOf (2 ^ 22) = none ∧ layered.windowOut layer0 0 = true
    ∧ ({ layered with time := 0 } : State).windowOut layer0 0 = false
    ∧ kvGet [] (roomy.arriveInstants 0 0).experts.queues 0 = [] ∧ (kvGet [] (layered.arriveInstants 0 0).experts.queues 0).length ≠ 0
    ∧ roomy.freshInstant 0 0 = false ∧ (layered.experts.products.find? (fun q => q.lcb == 2 ^ 22 && q.expert == 0)).map Product.retryAt = some 0 := by
  decide +kernel

/-! Functions: an append held for its heap at 0, whose pool has one block left. -/
def hungry : State :=
  let s := logs (rawK 0xC2 (ku 2 2)) [{ newAcc 0 0 0 0 false with status := 2, cls := clsHeap, byHost := true }]
  ({ s with mem := ranged.mem, homes := { s.homes with ctrs := ranged.homes.ctrs } } : State).modStrand 0 (fun st =>
    { st with log := st.log.map (fun p => (p.1, { p.2 with curs := [(slotA 0, { Cursor.zero with heapPa := 64 })] })) })
theorem witness_HeapGrowth : let s : State := { (hungry.setReg 0xA10 4).setRegion 0 { hungry.region 0 with rcb := { (hungry.region 0).rcb with heapb := 1 } } with
      mem := Memory.put [] (cellsOf 64 (leBytes 64 (initBlock true false (fun i => if i = 1 then 10 else if i = 2 then 1 else 0) 0))) }
    (match s.entry 0 0 with
      | some e => (e.accs.find? Acc.hungry).isSome && (match e.accs.find? Acc.hungry with
          | some a => s.heapOf 0 e a == some 64 && a.byHost
          | none => false)
      | none => false) = true ∧ blkKind (s.blk 64) = 2 ∧ blkGrain (s.blk 64) = 1 ∧ blkEnd (s.blk 64) = 10
    ∧ (s.region (s.regionOf (s.strand 0)).pool).heapused = 0 ∧ (s.ctrTurn 64 (.growth 0 0)).1 = true
    ∧ s.writeBlocked 0 none none true false = false ∧ (s.fnStores true 0 []).1 = [] := by decide +kernel
theorem witness_FunctionStores : isHbm (64 / 8 * 8) = true ∧ roomy.writeBlocked 0 none none false false = false
    ∧ ∃ pa, inFwArea pa = false ∧ roomy.fwReady 0 = true ∧ roomy.fwGranted pa true = false := by
  refine ⟨by decide +kernel, by decide +kernel, ?_⟩
  by_cases h : Config.fwArea.toNat ≤ 0
  · exact ⟨2 ^ 26, by unfold inFwArea; rw [Nat.le_zero.mp h]; decide, by decide +kernel, by decide +kernel⟩
  · exact ⟨0, by unfold inFwArea; rw [decide_eq_false h]; rfl, by decide +kernel, by decide +kernel⟩
theorem witness_RettCompletes : goes handling (rawW1 0x0E (w1 0 0)) = true ∧ handling.me.hmode = true
    ∧ (match handling.frameWords 0 0 24 with
      | (.ok ws, u) => (u.strand 0).frameLog == none && (u.strand 0).log.isEmpty && decide (bits (listAt 0 ws 8) 12 8 ≤ (u.strand 0).trapDepth)
          && decide (listAt 0 ws 8 % 8 ≤ 4)
      | _ => false) = true := by decide +kernel

/-! Guards, homes of counters, drains. -/
theorem witness_GuardRelease : let s := { (guarded 7).modStrand 0 (fun st => { st with guards := [0] }) with
      homes := { roomy.homes with guards := [0] } }
    (match s.reachGuard 0 0 with | (.at pa, u) => pa == 0 && (u.releaseGuard 0 u.seq 0 pa).1 == some 0 | _ => false) = true
    ∧ (s.strand 0).guards.contains 0 = true ∧ guardExcl ((guarded 2).numAt 0 64) = false := by decide +kernel
/-- An allowance on its way back. -/
def returned : State := counter.modCore 0 (fun c => { c with allow := [⟨0, false, 10, 0, 0, 1, 0, false, true⟩] })
theorem witness_CounterReturn : (returned.allowOf 0 0).map Allow.returning = some true ∧ returned.ctrSent 0 0 = false ∧ (returned.ctrTurn 0 (.back 0)).1 = true
    ∧ (returned.ctrTurn 0 (.back 0)).2.writeBlocked 0 none (some 0) true false = false ∧ returned.ctrInit 0 = 1
    ∧ (let s := (logs (rawM 0xB1 (take 0)) [{ newAcc 0 0 64 5 false with status := 5 }]).modCore 0 (fun c => { c with allow := returned.allowOf 0 0 |>.toList })
       let t : State := { s with homes := { s.homes with ctrs := [(0, some ⟨1, some (0, 0, 0)⟩)] } }
       t.ctrRecalling 0 = some (0, 0, 0) ∧ (t.entry 0 0).isSome = true) := by decide +kernel
theorem witness_ShutterFindsWork : let s := (draining 0).setCohort 3 { Cohort.empty with alive := true, rid := 7 }
    s.isDrained 7 = false ∧ (s.region 7).state = 3 ∧ (s.region 7).shutAt = some 0 ∧ 0 ≤ s.time ∧ (s.region 7).ending = none := by decide +kernel
theorem witness_EveryHomeWrite : (∀ l ∈ linesOf 126 4, roomy.writeBlocked l none none false true = false) ∧ counter.countsAt 63 = true ∧ counter.countsAt 64 = false := by decide +kernel

/-- The case of a delivery that this device makes to itself is met by a complete line of zeros. -/
theorem witness_OwnDelivery :
    let s : State := { roomy with fabric := { roomy.fabric with lines := [⟨0, 0, 0, [], true⟩] } }
    let f : Flit := ⟨12, 0, 0, 0, 0, 0x11, 0, 0, 0, 0, List.replicate 136 0⟩
    12 ≤ f.port ∧ s.combined f = true := by decide +kernel

/-- The case of a Uzoip that has not started is met after a device reset whose image fails the check. -/
theorem witness_UzoipOff :
    (match Sys2Proof.Machine.exec (.deviceReset false []) State.reset with
      | .next t => t.pkg.uzoipOff
      | _ => false) = true := by decide +kernel
theorem witness_TimeWaits : let s : State := { State.reset with cores := [(0, { Core.empty with acqts := 1 })], agenda := [.elapse 1] }
    s.pkg.halted = false ∧ s.due = none ∧ ({ s with cycle := 16 } : State).due = some (.ltTick 0) := by decide +kernel

/-! ## Witnesses for the clauses about what waits -/

/-- The scratchpad's and the memory's accesses of an earlier instruction of the strand that are still to be performed. -/
def earlier (r : Raw) (accs : List Acc) : State := { logs r accs with seq := 2 }
theorem witness_Behind : (earlier (rawM 0x9A (byThread 7 1)) [newAcc 0 spadVa 4 0 true]).me.behindBank [newAcc 0 (spadVa + 3) 1 0 true] = true
    ∧ roomy.me.behindBank [newAcc 0 spadVa 4 0 true] = false
    ∧ (earlier (rawM 0x91 (byThread 7 8)) [newAcc 0 60 4 0 true]).behind 0 2 (newAcc 0 0 64 0 true) = true
    ∧ (earlier (rawM 0x91 (byThread 7 8)) [newAcc 0 64 4 0 true]).behind 0 2 (newAcc 0 0 64 0 true) = false
    ∧ (earlier (rawM 0x91 (byThread 7 8)) [newAcc 0 60 4 0 true]).me.accessing = true ∧ roomy.me.accessing = false
    ∧ (earlier (rawM 0xB1 (take 0)) [newAcc 0 0 64 5 false]).me.accessing = false := by decide +kernel
/-- The line of the core's dirty byte stands in the host's snoop filter. -/
def filtered : State := { dirtied 7 with homes := { roomy.homes with filter := [(sliceOf 7, [7])] } }
/-- The dirty byte is the strand's own. -/
def ownDirty (s : State) : State := s.modCore 0 (fun c => { c with copies := c.copies.map (fun (x : Copy) => { x with authors := [⟨0, 0, 1, rawM 0x91 (byThread 7 8), 1, 0, 7 * 128, 0, 1, 0⟩] }) })
theorem witness_PerformCore : ((ownDirty filtered).performCore 0 [0]).1 = false ∧ ((dirtied 7).performCore 0 [0]).1 = true
    ∧ filtered.inFilter 7 = true := by decide +kernel
/-- A ring of the negative of two places, of which one is taken, in a debug region. -/
def ringed : State := (((roomy.setRegion 0 { roomy.region 0 with rcb := { (roomy.region 0).rcb with dbg := true } }).setReg 0xA34 2).setReg 0xA35 1).setReg 0xA36 0
theorem witness_NegativeFull : ringed.negBlocks 0 = true ∧ (ringed.setReg 0xA36 1).negBlocks 0 = false ∧ roomy.negBlocks 0 = false := by decide +kernel
/-- An epoch flip holds the homes. -/
def flipping : State := { roomy with pkg := { roomy.pkg with flipping := true } }
theorem witness_FlipHolds : flipping.flipHold = true ∧ roomy.flipHold = false ∧ (∀ h ∈ flipping.homes.holdings, h.2 = none) ∧ flipping.homes.dev = []
    ∧ ({ leased with pkg := { leased.pkg with flipping := true } } : State).flipHold = false := by decide +kernel
theorem witness_LeaveWaits : (roomy.takeLeave 0 1 0 0).1 = false ∧ (roomy.takeLeave 0 0 0 0).1 = true ∧ ((roomy.takeLeave 0 1 0 0).2.strand 0).stallUntil
    = roomy.cycle + 1024 := by decide +kernel
/-- A conversion of the strand stands in the matrix queue, and a rounding read. -/
def converting (op af : Nat) : State := roomy.modCore 0 (fun c => { c with mq := [{ mentry 0 with raw := rawY op { yo 0 9 0 with af := BitVec.ofNat 4 af } }] })
theorem witness_Queued : (converting 0xD7 9).queued 0 MEnt.converts = true ∧ (converting 0xD7 8).queued 0 MEnt.converts = false
    ∧ (converting 0xD5 8).queued 0 MEnt.setsFlags = true ∧ (converting 0xD5 14).queued 0 MEnt.setsFlags = false := by decide +kernel
/-- A region that ends, with nothing of it outstanding, and with an allowance on its way back. -/
def ending : State := roomy.setRegion 7 { Region.empty with state := 2, rcbVa := 0x200, ending := some (7, noClass, 0, 0) }
theorem witness_FinalState : (ending.region 7).ending = some (7, noClass, 0, 0) ∧ (ending.finalReady 7 7).1 = true
    ∧ (({ ending with xlate := { ending.xlate with cluster := [] } } : State).finalReady 7 7).1 = true
    ∧ (({ ending with homes := { ending.homes with dev := [.rcb 7 0x100 0] } } : State).finalReady 7 7).1 = false := by decide +kernel
/-- A CSRR of a sum over a die has read all slices but two, but one, and all. -/
def summing (n : Nat) : State := on (fun st => { st with waiting := .llc 7 { LlcSum.start with slices := n }, llcslsel := 0 })
theorem witness_LlcSums : ((summing 46).strand 0).waiting = .llc 7 { LlcSum.start with slices := 46 } ∧ (llcSlices 0x90F 0).2 = 48 ∧ (llcSlices 0x94F 95).2 = 1
    ∧ 46 + 1 < (llcSlices 0x90F 0).2 ∧ 47 + 1 = (llcSlices 0x90F 0).2 ∧ llcCsr 0x90F = true ∧ s0.flipHold = false := by decide +kernel
theorem witness_HostReply : let s : State := { roomy with homes := { roomy.homes with snooped := [7], stamps := [(7, ⟨2 ^ 31 - 1, 2 ^ 31 - 1, 0, 0⟩)] } }
    7 ∈ s.homes.snooped ∧ s.homes.dev = [] ∧ (s.countsAt (7 * 128)) = false ∧ wouldFlip (s.nextWts 7 none) = true ∧ s.pkg.flipping = false
    ∧ wouldFlip (roomy.nextWts 7 none) = false := by decide +kernel
theorem witness_Device : roomy.devWaits 0 = false ∧ counter.countsAt 0 = true ∧ counter.countsAt 64 = false ∧ roomy.homes.tags = [] ∧ 56 % 64 ≤ 56
    ∧ roomy.homes.hbmBad = [] := by decide +kernel
theorem witness_FwArea : inFwArea Config.fwArea.toNat = true ∧ inFwArea (Config.fwArea.toNat + 2 ^ 26 - 8) = true
    ∧ inFwArea (Config.fwArea.toNat + 2 ^ 26 - 7) = false := by
  simp only [inFwArea, Bool.and_eq_true, Bool.and_eq_false_iff, decide_eq_true_eq, decide_eq_false_iff_not]
  omega
/-- Fifteen corrected errors of row 0 of stack 0 stand within the hour. -/
def worn (n : Nat) : State := { roomy with pkg := { roomy.pkg with rowErr := [(rowOf 0 0, List.replicate n 0)] } }
theorem witness_Rows : ((kvGet [] (worn 15).pkg.rowErr (rowOf 0 0)).filter (fun t => decide ((worn 15).ns < t + 3600000000000))).length = 15
    ∧ ((kvGet [] (worn 14).pkg.rowErr (rowOf 0 0)).filter (fun t => decide ((worn 14).ns < t + 3600000000000))).length = 14 := by decide +kernel
/-- A sheet that can be written, and one that waits for an allowance of the region's core. -/
theorem witness_SheetWrites : let s := ((sheeted 64).setCohort 3 { Cohort.empty with rid := 7 })
    let u := s.returnRegionAllows 7
    let v := u.setRegion 7 { u.region 7 with drainAt := some ((u.region 7).drainAt.getD u.ns) }
    s.sheetReady 7 = true ∧ u.allowsOut 7 = false ∧ u.rcbWaits 7 = false ∧ (v.devFree 0 64).1 = true
    ∧ (v.sheetBody 7 [(add56 (v.region 7).rcbVa 0x100, 48)] []).1.isSome = true
    ∧ ({ s with homes := { s.homes with dev := [.rcb 7 0x100 0] } } : State).rcbWaits 7 = true := by decide +kernel
theorem witness_Acked : roomy.fabric.outbox = [] ∧ (flit 0x30 []).kind = 0x30 ∧ flitCrcOk (flit 0x30 []) = true := by decide +kernel
/-- A peer's atomic add of 1 to the last four bytes of HBM, and what this device has asked of a peer. -/
theorem witness_PeerAtomic : let f := flit 2 (leBytes 8 (2 ^ 39 - 4) ++ leBytes 8 (atomWord 4 0 0) ++ leBytes 8 9 ++ leBytes 8 1 ++ leBytes 8 0)
    flitWord f 1 = atomWord 4 0 0 ∧ flitWord f 0 % 4 = 0 ∧ isHbm (flitWord f 0) = true ∧ roomy.isProtected (flitWord f 0) = false
    ∧ roomy.writeBlocked (flitWord f 0 / 128) none none true false = false ∧ roomy.portBusy f.src = false
    ∧ (∀ l ∈ linesOf (2 ^ 39 - 200) 200, roomy.homeWaits l none false = false) := by decide +kernel
theorem witness_PeerAnswers : let s (slot : Nat) : State := { roomy with fabric := { roomy.fabric with peers := [⟨9, 0, slot, 0, false, 8⟩] } }
    let f := flit 3 (leBytes 8 9 ++ leBytes 8 0 ++ leBytes 8 5)
    ([0, 8, 199, 200, 255, 256].all (fun k => (s k).fabric.peers.find? (fun q => q.ident == flitWord f 0) == some ⟨9, 0, k, 0, false, 8⟩)) = true := by
  decide +kernel
theorem witness_MustIssue : let s : State := { (on (fun st => { st with readySince := some 0 })) with cycle := 255, agenda := [.elapse 1] }
    let now : State := { s with agenda := [], cores := [(0, { Core.empty with tickAt := 255 })] }
    now.noteReady.mustIssue = some 0 ∧ s0.noteReady.mustIssue = none := by decide +kernel
theorem witness_UzoipServes : (triaged false).byHost (.entry 0 0 (BitVec.allOnes 64)) = false
    ∧ ({ triaged false with pkg := { roomy.pkg with uzoipOff := true } } : State).pkg.uzoipOff = true := by decide +kernel
theorem witness_GuardsWait : (goes (earlier (rawM 0x91 (byThread 7 8)) [newAcc 0 60 4 0 true]) (rawM 0xA0 (me 0 1 20 7 0))) = true
    ∧ (earlier (rawM 0x91 (byThread 7 8)) [newAcc 0 60 4 0 true]).me.ea (rawM 0xA0 (me 0 1 20 7 0)) 0 = 0
    ∧ (goes (earlier (rawM 0x9A (byThread 7 1)) [newAcc 0 spadVa 4 0 true]) (rawM 0x93 (byThread 7 8))) = true := by decide +kernel
theorem witness_CloseWaits : ((cursored true).modStrand 0 (fun st => { st with log := [(0, ent (rawM 0x91 (byThread 7 8)) [newAcc 0 60 4 0 true])] })).me.accessing = true
    ∧ (rawK 0xC4 { ku 2 2 with b := 0 }).mod % 4 = 0 := by decide +kernel

end Sys2Proof.Tests
end

namespace Sys2Proof.Proofs

open Sys2Proof.Machine Sys2Proof.Laws

/-! ## Memory at reset -/

/-- Settles O7: no byte is listed at reset (log 4). -/
theorem resetMemoryIsCanonical : Obligations.ResetMemoryIsCanonical := reset_wf

/-! ## Integer and bit instructions -/

/-- Every row of R94 in one word is run by the one integer meaning, with its own opcode. -/
theorem exec_integerOneWord {p : (W1Ops → Instr) × Nat} (hp : p ∈ integerOneWord) (o : W1Ops) (s : State) :
    exec (p.1 o) s = s.runAlu (rawW1 p.2 o) := by
  fin_cases hp <;> rfl

/-- Every row of R94 in a longer form is run by the one integer meaning, with its own opcode. -/
theorem exec_integerLong {p : (AOps → Instr) × Nat} (hp : p ∈ integerLong) (o : AOps) (s : State) :
    exec (p.1 o) s = s.runAlu (rawA p.2 o) := by
  fin_cases hp <;> rfl

/-- Writing results to registers leaves FSTAT alone. -/
theorem putAll_fstat (x : Strand) (r : Raw) (w : Bool) (l : List (Nat × Nat)) : (x.putAll r w l).fstat = x.fstat := by
  unfold Strand.putAll
  refine forEach_same Strand.fstat l x _ (fun y p => ?_)
  unfold Strand.putRes
  split
  · simp
  · cases w <;> rfl

/-- An instruction that is ready, and whose effect is to write the results of its threads to D and go on, completes with
them (R13). -/
theorem issueStrand_completes (s : State) (r : Raw) (w : Bool) (f : Strand → Nat → Nat) (h : Ready s r) :
    CompletesWith (s.issueStrand r (fun st => st.putAll r w (st.results r (f st)))) s r w (f s.me) 0 := by
  refine ⟨_, issueStrand_go s r _ h, ⟨_, rfl⟩, ?_, ?_⟩
  · simp [State.me, putAll_fstat]
  · simpa [State.me] using putAll_delivers s.me r w (f s.me)

/-- The one meaning of the integer instructions of R94. -/
theorem runAlu_completes (s : State) (r : Raw) (h : Ready s r) :
    CompletesWith (s.runAlu r) s r r.wide (s.me.aluAt r) 0 :=
  issueStrand_completes s r r.wide (fun st => st.aluAt r) h

/-- Settles O14: each row is run by the one integer meaning, whose results are those of R94 element by element. -/
theorem integerResultsReachTheirDestination : Obligations.IntegerResultsReachTheirDestination := by
  refine ⟨fun p hp o s h => ?_, fun p hp o s h => ?_⟩
  · rw [exec_integerOneWord hp]
    exact runAlu_completes s _ h
  · rw [exec_integerLong hp]
    exact runAlu_completes s _ h

end Sys2Proof.Proofs

namespace Sys2Proof.Proofs

open Sys2Proof.Machine Sys2Proof.Laws

/- A proof here cites the lemmas of the functions that its own function calls, and grind waits for the proofs of what it
cites: elaborated one after another, no proof holds a thread while it waits for another. -/
set_option Elab.async false

/-! ## Every step keeps memory canonical

One law for each function of the model that an instruction, an event or the schedule can reach, in the order of the model's
files, proved once and cited by the laws of its callers:
* `f_mem`: f does not write memory;
* `f_wf`: f writes memory, or may, by what keeps its canonical form; for a function that answers with an outcome, its next
  state has the form (`NextOk`);
* `f_ok`: the same of a run of the walker or of a dispatch engine (`RunOk`).

What keeps the form at the bottom are the laws of the model's own writes (`homeWrite_wf`, `writeBack_wf`, `spill_wf` and the
like, with the rest of `Laws`). A law is by the cases of its function's definition: in each case the state that comes out is
made from the one that went in by field updates other than of memory, and by functions whose laws stand above. -/

/-- An answer whose next state, where there is one, has memory in its canonical form. -/
def NextOk (o : Res) : Prop := ∀ t, o = .next t → t.memoryOk

theorem next_ok {t : State} (h : t.memoryOk) : NextOk (.next t) := by
  rintro _ ⟨rfl⟩
  exact h

/-- A state with the memory of another has its canonical form. -/
theorem memoryOk_of_mem {s t : State} (e : t.mem = s.mem) (h : s.memoryOk) : t.memoryOk :=
  (congrArg Memory.wf e).trans h

theorem ite_wf {c : Prop} [Decidable c] {a b : State} (ha : a.memoryOk) (hb : b.memoryOk) :
    (if c then a else b).memoryOk := by
  split
  · exact ha
  · exact hb

theorem ite_next {c : Prop} [Decidable c] {a b : Res} (ha : NextOk a) (hb : NextOk b) :
    NextOk (if c then a else b) := by
  split
  · exact ha
  · exact hb

/-! ### Loops: what each round keeps, with the state alone, second or first in what is carried -/

theorem forEach_wf {α : Type} (l : List α) (s : State) (f : State → α → State)
    (hf : ∀ x a, x.memoryOk → (f x a).memoryOk) (h : s.memoryOk) : (forEach l s f).memoryOk :=
  forEach_keeps State.memoryOk l s f h hf

theorem forEach_snd_wf {α β : Type} (l : List α) (p : β × State) (f : β × State → α → β × State)
    (hf : ∀ x a, x.2.memoryOk → (f x a).2.memoryOk) (h : p.2.memoryOk) : (forEach l p f).2.memoryOk :=
  forEach_keeps (fun x => x.2.memoryOk) l p f h hf

theorem forEach_fst_wf {α β : Type} (l : List α) (p : State × β) (f : State × β → α → State × β)
    (hf : ∀ x a, x.1.memoryOk → (f x a).1.memoryOk) (h : p.1.memoryOk) : (forEach l p f).1.memoryOk :=
  forEach_keeps (fun x => x.1.memoryOk) l p f h hf

theorem forEach_mem {α : Type} (l : List α) (s : State) (f : State → α → State) (hf : ∀ x a, (f x a).mem = x.mem) :
    (forEach l s f).mem = s.mem :=
  forEach_same State.mem l s f hf

/-! ### Runs of the walker and of the dispatch engines -/

/-- A run that carries the state keeps memory canonical, whether it ends with a value or with an error. -/
def RunOk {ε α : Type} (m : ExceptT ε (StateM State) α) : Prop := ∀ s, s.memoryOk → (m.run.run s).2.memoryOk

section

variable {ε α β : Type}

theorem runOk_pure (a : α) : RunOk (pure a : ExceptT ε (StateM State) α) := fun _ h => h

theorem runOk_throw (e : ε) : RunOk (throw e : ExceptT ε (StateM State) α) := fun _ h => h

theorem runOk_get : RunOk (get : ExceptT ε (StateM State) State) := fun _ h => h

theorem runOk_bind (m : ExceptT ε (StateM State) α) (f : α → ExceptT ε (StateM State) β) (hm : RunOk m)
    (hf : ∀ a, RunOk (f a)) : RunOk (m >>= f) := by
  intro s h
  have h1 := hm s h
  show ((ExceptT.bindCont f (m.run.run s).1).run (m.run.run s).2).2.memoryOk
  cases (m.run.run s).1 with
  | ok a => exact hf a _ h1
  | error e => exact h1

/-- A step taken under a condition, before what follows in either case. -/
theorem runOk_ite_bind {c : Prop} [Decidable c] {m : ExceptT ε (StateM State) α} {a : α}
    {f : α → ExceptT ε (StateM State) β} (hm : RunOk m) (hf : ∀ a, RunOk (f a)) :
    RunOk (if c then m >>= f else pure a >>= f) := by
  split_ifs
  · exact runOk_bind m f hm hf
  · exact runOk_bind (pure a) f (runOk_pure a) hf

/-- A run that looks at the state it starts from. -/
theorem runOk_of_get (f : State → ExceptT ε (StateM State) α)
    (hf : ∀ s, s.memoryOk → ((f s).run.run s).2.memoryOk) : RunOk (get >>= f) := hf

theorem run_set (t : State) (f : PUnit → ExceptT ε (StateM State) α) (s : State) :
    ((set t >>= f).run.run s) = (f ⟨⟩).run.run t := rfl

/-- A run that goes on from a state of its own. -/
theorem runOk_at_set {t s : State} {f : PUnit → ExceptT ε (StateM State) α} (hf : RunOk (f ⟨⟩)) (ht : t.memoryOk) :
    ((set t >>= f).run.run s).2.memoryOk := hf t ht

end

/-! ### Memory: the homes and the last-level cache -/

theorem llcRead_wf (s : State) (line : Nat) (h : s.memoryOk) : (s.llcRead line).memoryOk := by
  unfold State.llcRead
  grind [recoverSet_wf, fillWith_mem]

theorem llcClean_wf (s : State) (line : Nat) (h : s.memoryOk) : (s.llcClean line).memoryOk := by
  unfold State.llcClean
  grind [setTag_mem, hbmSettle_mem, recoverSet_wf]

theorem llcDrop_wf (s : State) (line : Nat) (h : s.memoryOk) : (s.llcDrop line).memoryOk := by
  unfold State.llcDrop
  grind [dropTag_mem, recoverSet_wf]

@[simp] theorem stampRead_mem (s : State) (line core : Nat) : (s.stampRead line core).mem = s.mem := rfl

@[simp] theorem noteTime_mem (s : State) (core w : Nat) : (s.noteTime core w).mem = s.mem := rfl

@[simp] theorem setCvRec_mem (s : State) (pa : Nat) (x : Option Nat) : (s.setCvRec pa x).mem = s.mem := rfl

@[simp] theorem cvHold_mem (s : State) (pa : Nat) : (s.cvHold pa).mem = s.mem := by
  unfold State.cvHold
  grind [setCvRec_mem]

theorem cvRelease_wf (s : State) (pa : Nat) (h : s.memoryOk) : (s.cvRelease pa).memoryOk := by
  unfold State.cvRelease
  grind [devWrite_wf, setCvRec_mem]

theorem negFlush_wf (s : State) (h : s.memoryOk) : s.negFlush.memoryOk := by
  unfold State.negFlush
  grind [negPut_wf, forEach_wf]

theorem notifyGlobal_wf (s : State) (pa n : Nat) (h : s.memoryOk) : (s.notifyGlobal pa n).memoryOk := by
  unfold State.notifyGlobal
  grind [notify_wf]

theorem attendWrites_wf (s : State) (h : s.memoryOk) : s.attendWrites.memoryOk := by
  unfold State.attendWrites
  grind [notifyGlobal_wf, forEach_wf]

/-! ### Memory: translation -/

@[simp] theorem walkNote_mem (s : State) (die asid va level pte : Nat) :
    (s.walkNote die asid va level pte).mem = s.mem := rfl

theorem walkFrom_wf (s : State) (die asid va level table fuel : Nat) (seen : List (Nat × Nat)) (h : s.memoryOk) :
    (s.walkFrom die asid va level table fuel seen).2.memoryOk := by
  induction fuel generalizing s level table seen with
  | zero => exact h
  | succ fuel ih =>
    unfold State.walkFrom
    grind [llcRead_wf, walkNote_mem, forEach_mem]

theorem rootOf_wf (s : State) (asid : Nat) (h : s.memoryOk) : (s.rootOf asid).2.memoryOk := by
  unfold State.rootOf
  grind [llcRead_wf]

theorem walk_wf (s : State) (die asid va : Nat) (h : s.memoryOk) : (s.walk die asid va).2.memoryOk := by
  unfold State.walk
  grind [walkFrom_wf, rootOf_wf]

@[simp] theorem tlbNoteCluster_mem (s : State) (cl : Nat) (e : Tlb) : (s.tlbNoteCluster cl e).mem = s.mem := rfl

@[simp] theorem tlbNoteDie_mem (s : State) (die : Nat) (e : Tlb) : (s.tlbNoteDie die e).mem = s.mem := rfl

@[simp] theorem enterLeaf_mem (s : State) (die : Nat) (cl : Option Nat) (asid va pte size : Nat) :
    (s.enterLeaf die cl asid va pte size).mem = s.mem := by
  unfold State.enterLeaf
  grind [tlbNoteCluster_mem, tlbNoteDie_mem]

@[simp] theorem askHost_mem (s : State) (q : XAsk) : (s.askHost q).2.mem = s.mem := by
  unfold State.askHost
  grind [vector_mem]

@[simp] theorem dropAsks_mem (s : State) (sid : Nat) : (s.dropAsks sid).mem = s.mem := rfl

theorem translate_wf (s : State) (w : Who) (va : Nat) (h : s.memoryOk) : (s.translate w va).2.memoryOk := by
  unfold State.translate
  grind [walk_wf, tlbNoteCluster_mem, tlbNoteDie_mem, enterLeaf_mem, askHost_mem]

theorem access_wf (s : State) (w : Who) (va need p : Nat) (h : s.memoryOk) : (s.access w va need p).2.memoryOk := by
  unfold State.access
  grind [translate_wf]

/-! ### Memory: the caches of a core -/

@[simp] theorem expireCopies_mem (s : State) (core : Nat) : (s.expireCopies core).mem = s.mem := rfl

@[simp] theorem wake_mem (s : State) (core : Nat) : (s.wake core).mem = s.mem := by
  unfold State.wake
  grind [modCore_mem]

@[simp] theorem sift_mem (s : State) (c : Copy) (ws : List (Nat × Byte)) : (s.sift c ws).2.mem = s.mem := rfl

theorem makeSlot_wf (s : State) (core cache vline : Nat) (h : s.memoryOk) :
    (s.makeSlot core cache vline).2.memoryOk := by
  unfold State.makeSlot
  grind [dropCopies_mem, writeBack_wf]

theorem moveSlot_wf (s : State) (core : Nat) (c : Copy) (vline : Nat) (h : s.memoryOk) :
    (s.moveSlot core c vline).2.memoryOk := by
  unfold State.moveSlot
  grind [makeSlot_wf]

theorem renewCopy_wf (s : State) (core : Nat) (c : Copy) (h : s.memoryOk) : (s.renewCopy core c).1.memoryOk := by
  unfold State.renewCopy
  grind [llcRead_wf, stampRead_mem, setCopy_mem]

/-- A copy is looked for, moved or made: what is done with the copy that is found (`use`) first. -/
theorem ensure_wf (s : State) (w : Who) (cache va mask need p : Nat) (h : s.memoryOk) :
    (s.ensure w cache va mask need p).2.memoryOk := by
  unfold State.ensure
  extract_lets vline use
  have huse : ∀ s c, s.memoryOk → (use s c).2.memoryOk := by
    intro s c h
    grind [llcRead_wf, renewCopy_wf, setCopy_mem, noteBlocked_mem]
  clear_value use
  grind [access_wf, moveSlot_wf, makeSlot_wf, writeBack_wf, setCopy_mem, noteBlocked_mem, dropCopies_mem]

theorem readPieces_wf (f : State → Nat → Nat → MemR × State) (l : List (Nat × Nat)) (s : State) (got k : Nat)
    (hf : ∀ x a n, x.memoryOk → (f x a n).2.memoryOk) (h : s.memoryOk) : (readPieces f l s got k).2.memoryOk := by
  induction l generalizing s got k with
  | nil => exact h
  | cons p t ih =>
    unfold readPieces
    grind

theorem cacheServe_wf (s : State) (w : Who) (cache va n p : Nat) (h : s.memoryOk) :
    (s.cacheServe w cache va n p).2.memoryOk := by
  unfold State.cacheServe
  grind [ensure_wf]

theorem llcServe_wf (s : State) (w : Who) (cache va n p : Nat) (h : s.memoryOk) :
    (s.llcServe w cache va n p).2.memoryOk := by
  unfold State.llcServe
  grind [llcRead_wf, noteBlocked_mem, access_wf, cacheServe_wf]

theorem l1Access_wf (s : State) (w : Who) (va need p : Nat) (h : s.memoryOk) :
    (s.l1Access w va need p).2.memoryOk := by
  unfold State.l1Access
  grind [access_wf]

theorem weakRead_wf (s : State) (w : Who) (cache va n p : Nat) (h : s.memoryOk) :
    (s.weakRead w cache va n p).2.memoryOk := by
  unfold State.weakRead
  grind [readPieces_wf, cacheServe_wf, llcServe_wf]

theorem weakStorePiece_wf (s : State) (w : Who) (va : Nat) (bs : List Byte) (h : s.memoryOk) :
    (s.weakStorePiece w va bs).2.memoryOk := by
  unfold State.weakStorePiece
  grind [access_wf, setCopy_mem, dropCopies_mem, makeSlot_wf, moveSlot_wf]

@[simp] theorem signPiece_mem (s : State) (w : Who) (x : Author) (va n : Nat) :
    (s.signPiece w x va n).mem = s.mem := by
  unfold State.signPiece
  grind [setCopy_mem]

theorem weakStore_wf (s : State) (w : Who) (va : Nat) (bs : List Byte) (h : s.memoryOk) :
    (s.weakStore w va bs).2.memoryOk := by
  unfold State.weakStore
  grind [readPieces_wf, weakStorePiece_wf]

theorem noteRead_wf (s : State) (w : Who) (va n : Nat) (h : s.memoryOk) : (s.noteRead w va n).memoryOk := by
  unfold State.noteRead
  grind [noteWts_mem, forEach_wf]

theorem strongRead_wf (s : State) (w : Who) (va n p : Nat) (h : s.memoryOk) : (s.strongRead w va n p).2.memoryOk := by
  unfold State.strongRead
  grind [llcRead_wf, noteBlocked_mem, access_wf, writeBack_wf, readPieces_wf, weakRead_wf]

theorem writeOf_wf (s : State) (w : Who) (ws : List (Nat × Byte)) (h : s.memoryOk) : (s.writeOf w ws).memoryOk := by
  unfold State.writeOf
  grind [homeWriteFrom_wf]

theorem homeStore_wf (s : State) (w : Who) (va : Nat) (bs : List Byte) (p : Nat) (h : s.memoryOk) :
    (s.homeStore w va bs p).2.memoryOk := by
  unfold State.homeStore
  grind [noteBlocked_mem, access_wf, writeBack_wf, readPieces_wf, weakStorePiece_wf, writeOf_wf]

theorem strongWrite_wf (s : State) (w : Who) (va : Nat) (bs : List Byte) (h : s.memoryOk) :
    (s.strongWrite w va bs).2.memoryOk := by
  unfold State.strongWrite
  grind [homeStore_wf]

theorem atomicAt_wf (s : State) (w : Who) (va n need : Nat) (h : s.memoryOk) :
    (s.atomicAt w va n need).2.memoryOk := by
  unfold State.atomicAt
  grind [llcRead_wf, noteBlocked_mem, access_wf, writeBack_wf]

theorem writeBackAll_wf (s : State) (core : Nat) (sids : List Nat) (h : s.memoryOk) :
    (s.writeBackAll core sids).2.memoryOk := by
  unfold State.writeBackAll
  grind [forEach_snd_wf, writeBack_wf]

theorem devRead_wf (s : State) (core asid va n : Nat) (sys : Bool) (h : s.memoryOk) :
    (s.devRead core asid va n sys).2.memoryOk := by
  unfold State.devRead
  grind [strongRead_wf]

/-! ### Memory: counters and allowances at their home -/

theorem setBlk_wf (s : State) (pa x : Nat) (h : s.memoryOk) : (s.setBlk pa x).memoryOk := by
  unfold State.setBlk
  grind [homeWrite_wf]

@[simp] theorem setAllow_mem (s : State) (core pa : Nat) (a : Option Allow) :
    (s.setAllow core pa a).mem = s.mem := rfl

@[simp] theorem returnAllow_mem (s : State) (core : Nat) (a : Allow) : (s.returnAllow core a).mem = s.mem := by
  unfold State.returnAllow
  grind [modCore_mem, push_mem]

@[simp] theorem returnAllows_mem (s : State) (core : Nat) (p : Allow → Bool) :
    (s.returnAllows core p).mem = s.mem := by
  unfold State.returnAllows
  grind [returnAllow_mem, forEach_mem]

@[simp] theorem setCtrQueue_mem (s : State) (pa : Nat) (q : List CtrReq) : (s.setCtrQueue pa q).mem = s.mem := rfl

@[simp] theorem allowRoom_mem (s : State) (core pool : Nat) : (s.allowRoom core pool).2.mem = s.mem := by
  unfold State.allowRoom
  grind [returnAllow_mem]

@[simp] theorem entryReady_mem (s : State) (core pa pool : Nat) : (s.entryReady core pa pool).2.mem = s.mem := by
  unfold State.entryReady
  grind [allowRoom_mem]

@[simp] theorem needAllow_mem (s : State) (core pa : Nat) (range : Bool) (asid pool : Nat) :
    (s.needAllow core pa range asid pool).2.mem = s.mem := by
  unfold State.needAllow
  grind [setAllow_mem]

@[simp] theorem freeze_mem (s : State) (core pa : Nat) (b : Bool) : (s.freeze core pa b).mem = s.mem := rfl

@[simp] theorem modCtr_mem (s : State) (pa : Nat) (f : CtrHome → CtrHome) : (s.modCtr pa f).mem = s.mem := by
  unfold State.modCtr
  grind

@[simp] theorem setRecalling_mem (s : State) (pa : Nat) (r : Option (Nat × Nat × Nat)) :
    (s.setRecalling pa r).mem = s.mem := by
  unfold State.setRecalling
  grind [modCtr_mem]

@[simp] theorem thaw_mem (s : State) (core : Nat) (pas : List Nat) : (s.thaw core pas).mem = s.mem := by
  unfold State.thaw
  grind [freeze_mem, forEach_mem]

theorem endRequest_wf (s : State) (pa : Nat) (parts : List Nat) (h : s.memoryOk) :
    (s.endRequest pa parts).memoryOk := by
  unfold State.endRequest
  grind [setBlk_wf, setAllow_mem, freeze_mem, setRecalling_mem, forEach_wf]

@[simp] theorem ctrDrop_mem (s : State) (pa : Nat) (gone : CtrReq → Bool) : (s.ctrDrop pa gone).mem = s.mem := by
  unfold State.ctrDrop
  grind [setCtrQueue_mem, thaw_mem, forEach_mem]

theorem ctrTidy_wf (s : State) (pa : Nat) (h : s.memoryOk) : (s.ctrTidy pa).memoryOk := by
  unfold State.ctrTidy
  grind [setBlk_wf, endRequest_wf, ctrDrop_mem]

theorem ctrTurn_wf (s : State) (pa : Nat) (q : CtrReq) (h : s.memoryOk) : (s.ctrTurn pa q).2.memoryOk := by
  unfold State.ctrTurn
  grind [setCtrQueue_mem, ctrTidy_wf]

@[simp] theorem ctrLeave_mem (s : State) (pa : Nat) (q : CtrReq) : (s.ctrLeave pa q).mem = s.mem := by
  unfold State.ctrLeave
  grind [push_mem, setCtrQueue_mem]

theorem homeTurn_wf (s : State) (pa core : Nat) (q : CtrReq) (h : s.memoryOk) :
    (s.homeTurn pa core q).2.memoryOk := by
  unfold State.homeTurn
  grind [noteBlocked_mem, setCtrQueue_mem, freeze_mem, ctrTurn_wf]

theorem pull_wf (s : State) (pa core n : Nat) (h : s.memoryOk) : (s.pull pa core n).memoryOk := by
  unfold State.pull
  grind [setBlk_wf, setAllow_mem]

theorem quantityRound_wf (s : State) (pa need : Nat) (but : Option Nat) (h : s.memoryOk) :
    (s.quantityRound pa need but).memoryOk := by
  unfold State.quantityRound
  grind [setBlk_wf, pull_wf, forEach_wf]

theorem rangeRound_wf (s : State) (pa : Nat) (but : Option Nat) (h : s.memoryOk) :
    (s.rangeRound pa but).2.memoryOk := by
  unfold State.rangeRound
  grind [setBlk_wf, setAllow_mem]

theorem serveQuantity_wf (s : State) (core pa n asid pool : Nat) (h : s.memoryOk) :
    (s.serveQuantity core pa n asid pool).2.memoryOk := by
  unfold State.serveQuantity
  grind [setBlk_wf, setAllow_mem, needAllow_mem, endRequest_wf, quantityRound_wf]

theorem findPiece_wf (s : State) (core pa n : Nat) (h : s.memoryOk) : (s.findPiece core pa n).2.2.memoryOk := by
  unfold State.findPiece
  grind [llcRead_wf, setBlk_wf, rangeRound_wf]

theorem serveRange_wf (s : State) (core pa n asid pool : Nat) (h : s.memoryOk) :
    (s.serveRange core pa n asid pool).2.memoryOk := by
  unfold State.serveRange
  grind [setBlk_wf, setAllow_mem, needAllow_mem, endRequest_wf, findPiece_wf]

theorem applyReturn_wf (s : State) (pa lo hi : Nat) (range : Bool) (h : s.memoryOk) :
    (s.applyReturn pa lo hi range).memoryOk := by
  unfold State.applyReturn
  grind [devPut_wf, setBlk_wf]

theorem serveExact_wf (s : State) (pa : Nat) (h : s.memoryOk) : (s.serveExact pa).2.memoryOk := by
  unfold State.serveExact
  grind [setBlk_wf, setAllow_mem, endRequest_wf, pull_wf, forEach_wf]

theorem serveAdd_wf (s : State) (pa n : Nat) (h : s.memoryOk) : (s.serveAdd pa n).2.memoryOk := by
  unfold State.serveAdd
  grind [setBlk_wf]

theorem engineTake_wf (s : State) (q : CtrReq) (core pa n asid pool : Nat) (h : s.memoryOk) :
    (s.engineTake q core pa n asid pool).2.memoryOk := by
  unfold State.engineTake
  grind [setAllow_mem, entryReady_mem, ctrLeave_mem, homeTurn_wf, serveQuantity_wf]

theorem enginePick_wf (s : State) (q : CtrReq) (core pa asid pool : Nat) (h : s.memoryOk) :
    (s.enginePick q core pa asid pool).2.2.memoryOk := by
  unfold State.enginePick
  grind [setAllow_mem, entryReady_mem, ctrLeave_mem, homeTurn_wf, serveRange_wf]

theorem engineGive_wf (s : State) (q : CtrReq) (core pa n asid pool : Nat) (h : s.memoryOk) :
    (s.engineGive q core pa n asid pool).2.memoryOk := by
  unfold State.engineGive
  grind [setAllow_mem, entryReady_mem, needAllow_mem, endRequest_wf, ctrLeave_mem, homeTurn_wf, serveAdd_wf]

@[simp] theorem holdLeave_mem (s : State) (pool : Nat) (d : Int) : (s.holdLeave pool d).mem = s.mem := rfl

theorem takeLeave_wf (s : State) (sid n asid pool : Nat) (h : s.memoryOk) :
    (s.takeLeave sid n asid pool).2.memoryOk := by
  unfold State.takeLeave
  grind [modStrand_mem, ctrDrop_mem, engineTake_wf, holdLeave_mem]

theorem flushGives_wf (s : State) (core : Nat) (h : s.memoryOk) : (s.flushGives core).memoryOk := by
  unfold State.flushGives
  grind [modCore_mem, ctrDrop_mem, engineGive_wf, holdLeave_mem, forEach_wf]

theorem giveLeave_wf (s : State) (core n asid pool : Nat) (h : s.memoryOk) :
    (s.giveLeave core n asid pool).memoryOk := by
  unfold State.giveLeave
  grind [modCore_mem, flushGives_wf]

/-! ### Memory: records, guards, leases and the ends of strands, cohorts and regions -/

@[simp] theorem devFree_mem (s : State) (pa n : Nat) : (s.devFree pa n).2.mem = s.mem := by
  unfold State.devFree
  grind [noteDev_mem, forEach_mem]

theorem errorArea_wf (s : State) (rec_ : List Byte) (vec : Nat) (h : s.memoryOk) :
    (s.errorArea rec_ vec).2.memoryOk := by
  unfold State.errorArea
  grind [vector_mem, devPut_wf, devFree_mem]

theorem devPlace_wf (s : State) (w : Who) (va n : Nat) (h : s.memoryOk) : (s.devPlace w va n).2.memoryOk := by
  unfold State.devPlace
  grind [access_wf, devFree_mem]

theorem areaRecord_wf (s : State) (core asid area : Nat) (rec_ : List Byte) (vec : Nat) (h : s.memoryOk) :
    (s.areaRecord core asid area rec_ vec).2.memoryOk := by
  unfold State.areaRecord
  grind [vector_mem, devPut_wf, strongRead_wf, errorArea_wf, devPlace_wf]

theorem flushRecords_wf (s : State) (h : s.memoryOk) : s.flushRecords.memoryOk := by
  unfold State.flushRecords
  grind [areaRecord_wf, forEach_wf]

theorem record_wf (s : State) (rid state cls fpc faddr tile strandId vec : Nat) (h : s.memoryOk) :
    (s.record rid state cls fpc faddr tile strandId vec).memoryOk := by
  unfold State.record
  grind [flushRecords_wf]

theorem trapRecord_wf (s : State) (sid cls fpc faddr : Nat) (h : s.memoryOk) :
    (s.trapRecord sid cls fpc faddr).memoryOk := by
  unfold State.trapRecord
  grind [record_wf]

theorem errorRecord_wf (s : State) (rid : Option Nat) (cls addr : Nat) (h : s.memoryOk) :
    (s.errorRecord rid cls addr).memoryOk := by
  unfold State.errorRecord
  grind [laterRecord_mem, flushRecords_wf, record_wf]

@[simp] theorem endLease_mem (s : State) (sid line : Nat) : (s.endLease sid line).mem = s.mem := by
  unfold State.endLease
  grind [setStrand_mem, push_mem]

theorem dropGuard_wf (s : State) (sid pa : Nat) (stamped : Bool) (h : s.memoryOk) :
    (s.dropGuard sid pa stamped).memoryOk := by
  unfold State.dropGuard
  grind [modStrand_mem, push_mem, homeWrite_wf]

theorem performRanges_wf (s : State) (sid x : Nat) (h : s.memoryOk) : (s.performRanges sid x).2.memoryOk := by
  unfold State.performRanges
  grind [forEach_snd_wf, writeBack_wf]

theorem leaveGuard_wf (s : State) (sid pa : Nat) (stamped : Bool) (h : s.memoryOk) :
    (s.leaveGuard sid pa stamped).memoryOk := by
  unfold State.leaveGuard
  grind [noteBlocked_mem, dropGuard_wf]

theorem releaseEnded_wf (s : State) (sid : Nat) (h : s.memoryOk) : (s.releaseEnded sid).memoryOk := by
  unfold State.releaseEnded
  grind [dropAsks_mem, endLease_mem, performRanges_wf, leaveGuard_wf, forEach_wf]

@[simp] theorem joinWake_mem (s : State) : s.joinWake.mem = s.mem := by
  unfold State.joinWake
  grind [setStrand_mem, push_mem, expireCopies_mem, forEach_mem]

@[simp] theorem devLater_mem (s : State) (d : DevW) : (s.devLater d).mem = s.mem := rfl

theorem rcbPut_wf (s : State) (rid off v : Nat) (h : s.memoryOk) : (s.rcbPut rid off v).memoryOk := by
  unfold State.rcbPut
  grind [laterRecord_mem, devWrite_wf, translate_wf, devLater_mem]

theorem grantPut_wf (s : State) (pa : Nat) (writers up : Bool) (h : s.memoryOk) :
    (s.grantPut pa writers up).memoryOk := by
  unfold State.grantPut
  grind [devPut_wf]

theorem grantCount_wf (s : State) (rid : Nat) (up : Bool) (h : s.memoryOk) : (s.grantCount rid up).memoryOk := by
  unfold State.grantCount
  grind [noteDev_mem, devLater_mem, grantPut_wf]

theorem flushDev_wf (s : State) (h : s.memoryOk) : s.flushDev.memoryOk := by
  unfold State.flushDev
  grind [noteDev_mem, devWrite_wf, devLater_mem, rcbPut_wf, grantPut_wf, forEach_wf]

theorem performAsid_wf (s : State) (asid : Nat) (h : s.memoryOk) : (s.performAsid asid).2.memoryOk := by
  unfold State.performAsid
  grind [forEach_snd_wf, writeBack_wf]

@[simp] theorem pushPlacement_mem (s : State) : s.pushPlacement.mem = s.mem := by
  unfold State.pushPlacement
  grind [push_mem]

theorem writeFinal_wf (s : State) (rid f cls fpc faddr : Nat) (h : s.memoryOk) :
    (s.writeFinal rid f cls fpc faddr).memoryOk := by
  unfold State.writeFinal
  grind [setRegion_mem, cvRelease_wf, record_wf, joinWake_mem, rcbPut_wf, grantCount_wf, pushPlacement_mem]

theorem statusFree_wf (s : State) (rid : Nat) (h : s.memoryOk) : (s.statusFree rid).2.memoryOk := by
  unfold State.statusFree
  grind [translate_wf, devFree_mem]

theorem finalReady_wf (s : State) (rid f : Nat) (h : s.memoryOk) : (s.finalReady rid f).2.memoryOk := by
  unfold State.finalReady
  grind [performAsid_wf, statusFree_wf]

theorem settle_wf (s : State) (rid : Nat) (h : s.memoryOk) : (s.settle rid).memoryOk := by
  unfold State.settle
  grind [writeFinal_wf, finalReady_wf]

theorem regionCheck_wf (s : State) (rid : Nat) (h : s.memoryOk) : (s.regionCheck rid).memoryOk := by
  unfold State.regionCheck
  grind [setRegion_mem, push_mem, settle_wf]

@[simp] theorem forgetCohort_mem (s : State) (core cid : Nat) : (s.forgetCohort core cid).mem = s.mem := rfl

theorem cohortCheck_wf (s : State) (cid : Nat) (h : s.memoryOk) : (s.cohortCheck cid).memoryOk := by
  unfold State.cohortCheck
  grind [setCohort_mem, setRegion_mem, rcbPut_wf, pushPlacement_mem, regionCheck_wf, forgetCohort_mem]

@[simp] theorem openCount_mem (s : State) (sid heap : Nat) : (s.openCount sid heap).mem = s.mem := rfl

@[simp] theorem closeCount_mem (s : State) (sid heap : Nat) : (s.closeCount sid heap).mem = s.mem := by
  unfold State.closeCount
  grind [modStrand_mem, modCore_mem]

@[simp] theorem closeAll_mem (s : State) (sid : Nat) : (s.closeAll sid).mem = s.mem := by
  unfold State.closeAll
  grind [modStrand_mem, modCore_mem, forEach_mem]

theorem leftClasses_wf (s : State) (sid : Nat) (h : s.memoryOk) : (s.leftClasses sid).memoryOk := by
  unfold State.leftClasses
  grind [trapRecord_wf, forEach_wf]

theorem endStrand_wf (s : State) (sid : Nat) (h : s.memoryOk) : (s.endStrand sid).memoryOk := by
  unfold State.endStrand
  grind [modStrand_mem, releaseEnded_wf, regionCheck_wf, cohortCheck_wf, closeAll_mem, leftClasses_wf]

theorem destroyStrand_wf (s : State) (sid : Nat) (h : s.memoryOk) : (s.destroyStrand sid).memoryOk := by
  unfold State.destroyStrand
  grind [modStrand_mem, dropAsks_mem, thaw_mem, endLease_mem, leaveGuard_wf, closeAll_mem, forEach_wf]

theorem stopEngines_wf (s : State) (rid : Nat) (h : s.memoryOk) : (s.stopEngines rid).memoryOk := by
  unfold State.stopEngines
  grind [setCohort_mem, modCore_mem, giveLeave_wf, forEach_wf]

@[simp] theorem setBin_mem (s : State) (core b : Nat) (x : Bin) : (s.setBin core b x).mem = s.mem := rfl

@[simp] theorem closeBin_mem (s : State) (core b : Nat) : (s.closeBin core b).mem = s.mem := by
  unfold State.closeBin
  grind [push_mem, nextSeq_mem, setBin_mem]

@[simp] theorem placeEmptied_mem (s : State) (core b : Nat) : (s.placeEmptied core b).mem = s.mem := by
  unfold State.placeEmptied
  grind [closeBin_mem]

@[simp] theorem dropBins_mem (s : State) (rid : Nat) : (s.dropBins rid).mem = s.mem := by
  unfold State.dropBins
  grind [modCore_mem, placeEmptied_mem, forEach_mem]

@[simp] theorem returnRegionAllows_mem (s : State) (rid : Nat) : (s.returnRegionAllows rid).mem = s.mem := by
  unfold State.returnRegionAllows
  grind [returnAllows_mem, forEach_mem]

theorem terminateOne_wf (s : State) (rid f cls fpc faddr : Nat) (h : s.memoryOk) :
    (s.terminateOne rid f cls fpc faddr).memoryOk := by
  unfold State.terminateOne
  grind [setCohort_mem, setRegion_mem, writeFinal_wf, settle_wf, forgetCohort_mem, destroyStrand_wf, stopEngines_wf,
    dropBins_mem, returnRegionAllows_mem, forEach_wf]

theorem terminateUp_wf (s : State) (rid fdom fuel : Nat) (h : s.memoryOk) :
    (s.terminateUp rid fdom fuel).memoryOk := by
  induction fuel generalizing s rid with
  | zero => exact h
  | succ fuel ih =>
    unfold State.terminateUp
    grind [terminateOne_wf]

theorem terminate_wf (s : State) (rid f cls fpc faddr : Nat) (h : s.memoryOk) :
    (s.terminate rid f cls fpc faddr).memoryOk := by
  unfold State.terminate
  grind [terminateOne_wf, terminateUp_wf]

/-! ### Memory: log entries and trap frames -/

theorem endThreads_wf (s : State) (sid : Nat) (h : s.memoryOk) : (s.endThreads sid).memoryOk := by
  unfold State.endThreads
  grind [setStrand_mem, endStrand_wf]

@[simp] theorem moveEntry_mem (s : State) (sid slot k : Nat) (e : LogEnt) :
    (s.moveEntry sid slot k e).mem = s.mem := rfl

@[simp] theorem askTriage_mem (s : State) (cls : Nat) : (s.askTriage cls).mem = s.mem := by
  unfold State.askTriage
  grind [vector_mem]

@[simp] theorem wakeTrap_mem (s : State) (sid : Nat) : (s.wakeTrap sid).mem = s.mem := by
  unfold State.wakeTrap
  grind [push_mem]

@[simp] theorem logged_mem (s : State) (sid : Nat) (r : Raw) (accs : List Acc) (empty : List Nat) (block : Bool) :
    (s.logged sid r accs empty block).2.mem = s.mem := by
  unfold State.logged
  grind [setStrand_mem, nextSeq_mem, askTriage_mem]

@[simp] theorem again_mem (s : State) (sid d : Nat) : (s.again sid d).mem = s.mem := rfl

@[simp] theorem unissue_mem (s : State) (sid slot : Nat) (e : LogEnt) (keys : List Nat) :
    (s.unissue sid slot e keys).mem = s.mem := rfl

theorem finishEntry_wf (s : State) (sid slot : Nat) (h : s.memoryOk) : (s.finishEntry sid slot).memoryOk := by
  unfold State.finishEntry
  grind [modStrand_mem, releaseEnded_wf, pushPlacement_mem, regionCheck_wf, freeEntry_mem, wakeTrap_mem]

@[simp] theorem unlaunch_mem (s : State) (sid : Nat) : (s.unlaunch sid).mem = s.mem := by
  unfold State.unlaunch
  grind [unissue_mem]

theorem frameAt_wf (s : State) (sid va n : Nat) (h : s.memoryOk) : (s.frameAt sid va n).2.memoryOk := by
  unfold State.frameAt
  grind [noteBlocked_mem, access_wf, forEach_wf]

theorem holdForHost_wf (s : State) (sid : Nat) (ti : TrapInfo) (h : s.memoryOk) :
    (s.holdForHost sid ti).memoryOk := by
  unfold State.holdForHost
  grind [modStrand_mem, trapRecord_wf]

theorem enterTrap_wf (s : State) (sid : Nat) (ti : TrapInfo) (h : s.memoryOk) : (s.enterTrap sid ti).memoryOk := by
  unfold State.enterTrap
  extract_lets va
  have hf := frameAt_wf s sid va 512 h
  split
  · grind [modStrand_mem]
  · grind [terminate_wf]
  · rename_i t e
    rw [e] at hf
    extract_lets st img
    have hs := homeStore_wf t (t.who sid) va img 2 hf
    split <;> grind [terminate_wf, setStrand_mem, holdForHost_wf]

theorem takeTrap_wf (s : State) (sid : Nat) (ti : TrapInfo) (h : s.memoryOk) : (s.takeTrap sid ti).memoryOk := by
  unfold State.takeTrap
  grind [setStrand_mem, push_mem, holdForHost_wf, enterTrap_wf]

theorem precise_wf (s : State) (sid : Nat) (r : Raw) (cls info faddr : Nat) (thread : Option Nat) (fmask : Nat)
    (h : s.memoryOk) : (s.precise sid r cls info faddr thread fmask).memoryOk := by
  unfold State.precise
  grind [takeTrap_wf]

theorem fault_wf (s : State) (sid : Nat) (r : Raw) (cls faddr : Nat) (h : s.memoryOk) :
    (s.fault sid r cls faddr).memoryOk := by
  unfold State.fault
  grind [precise_wf]

theorem after_wf (s : State) (sid : Nat) (cls fpc faddr : Nat) (words : List (BitVec 32)) (h : s.memoryOk) :
    (s.after sid cls fpc faddr words).memoryOk := by
  unfold State.after
  grind [takeTrap_wf]

theorem laterClass_wf (s : State) (sid cls fpc faddr seq : Nat) (words : List (BitVec 32)) (h : s.memoryOk) :
    (s.laterClass sid cls fpc faddr seq words).memoryOk := by
  unfold State.laterClass
  grind [setStrand_mem, trapRecord_wf]

theorem readWords_wf (s : State) (w : Who) (va n p : Nat) (h : s.memoryOk) : (s.readWords w va n p).2.memoryOk := by
  induction n generalizing s va with
  | zero => exact h
  | succ n ih =>
    unfold State.readWords
    grind [strongRead_wf]

theorem frameWords_wf (s : State) (sid off n : Nat) (h : s.memoryOk) : (s.frameWords sid off n).2.memoryOk := by
  unfold State.frameWords
  grind [readWords_wf]

theorem restoreFrame_wf (s : State) (sid : Nat) (h : s.memoryOk) : (s.restoreFrame sid).2.memoryOk := by
  unfold State.restoreFrame
  grind [setStrand_mem, frameWords_wf]

/-! ### Memory: the issue of an instruction -/

/-- An instruction that issues keeps the form where its own effect does; held or faulting, it has no effect. -/
theorem issue_wf (s : State) (r : Raw) (effect : Nat → State → State) (h : s.memoryOk) (he :
    (effect s.cur s).memoryOk) : NextOk (s.issue r effect) := by
  unfold State.issue
  split <;> grind [NextOk, errorRecord_wf, lifeAdd_mem, fault_wf]

/-! ### Memory: counted events of conversions -/

@[simp] theorem countEvents_mem (s : State) (rid : Nat) (ev : Nat × Nat × Nat) :
    (s.countEvents rid ev).2.mem = s.mem := by
  unfold State.countEvents
  grind [setCvRec_mem]

/-! ### Memory: branches and loops -/

theorem issueStrand_wf (s : State) (r : Raw) (f : Strand → Strand) (h : s.memoryOk) : NextOk (s.issueStrand r f) := by
  unfold State.issueStrand
  grind [setStrand_mem, issue_wf]

theorem branch_wf (s : State) (r : Raw) (h : s.memoryOk) : NextOk (s.branch r) := by
  unfold State.branch
  grind [setStrand_mem, fault_wf, issue_wf, done_mem]

theorem execBrc_wf (o : BWOps) (s : State) (h : s.memoryOk) : NextOk (execBrc o s) := by
  unfold execBrc
  grind [setStrand_mem, fault_wf, issue_wf]

theorem execLoop_wf (o : BWOps) (s : State) (h : s.memoryOk) : NextOk (execLoop o s) := by
  unfold execLoop
  grind [setStrand_mem, fault_wf, issue_wf]

/-! ### Memory: integer instructions and late results -/

theorem runAlu_wf (s : State) (r : Raw) (h : s.memoryOk) : NextOk (s.runAlu r) := by
  unfold State.runAlu
  grind [issueStrand_wf]

@[simp] theorem later_mem (s : State) (sid : Nat) (r : Raw) (wide : Bool) (l : List (Nat × Nat)) (fl : Nat)
    (transc : Bool) : (s.later sid r wide l fl transc).mem = s.mem := by
  unfold State.later
  grind [setStrand_mem, push_mem, nextSeq_mem]

theorem runDiv_wf (s : State) (r : Raw) (rem : Bool) (h : s.memoryOk) : NextOk (s.runDiv r rem) := by
  unfold State.runDiv
  grind [issue_wf, later_mem]

theorem arrival_wf (s : State) (sid seq : Nat) (kind : FillKind) (h : s.memoryOk) :
    NextOk (s.arrival sid seq kind) := by
  unfold State.arrival
  grind [modStrand_mem, wakeTrap_mem, NextOk]

theorem execLea_wf (o : MOps) (s : State) (h : s.memoryOk) : NextOk (execLea o s) := by
  unfold execLea
  grind [issueStrand_wf]

theorem execCmp_wf (o : AOps) (s : State) (h : s.memoryOk) : NextOk (execCmp o s) := by
  unfold execCmp
  grind [issueStrand_wf]

theorem execSel_wf (o : AOps) (s : State) (h : s.memoryOk) : NextOk (execSel o s) := by
  unfold execSel
  grind [issueStrand_wf]

theorem runMov_wf (s : State) (r : Raw) (h : s.memoryOk) : NextOk (s.runMov r) := by
  unfold State.runMov
  grind [issueStrand_wf]

theorem execMoviW1i_wf (o : IOps) (s : State) (h : s.memoryOk) : NextOk (execMoviW1i o s) := by
  unfold execMoviW1i
  grind [issueStrand_wf]

theorem execMovi_wf (o : AOps) (s : State) (h : s.memoryOk) : NextOk (execMovi o s) := by
  unfold execMovi
  grind [issueStrand_wf]

theorem runMovs_wf (s : State) (r : Raw) (h : s.memoryOk) : NextOk (s.runMovs r) := by
  unfold State.runMovs
  grind [issueStrand_wf]

/-! ### Memory: floating-point instructions -/

theorem runFloat_wf (s : State) (r : Raw) (h : s.memoryOk) : NextOk (s.runFloat r) := by
  unfold State.runFloat
  grind [issueStrand_wf]

theorem runFcmp_wf (s : State) (r : Raw) (h : s.memoryOk) : NextOk (s.runFcmp r) := by
  unfold State.runFcmp
  grind [issueStrand_wf]

theorem runFclass_wf (s : State) (r : Raw) (h : s.memoryOk) : NextOk (s.runFclass r) := by
  unfold State.runFclass
  grind [issueStrand_wf]

theorem runTransc_wf (s : State) (r : Raw) (h : s.memoryOk) : NextOk (s.runTransc r) := by
  unfold State.runTransc
  grind [issue_wf, later_mem]

theorem raiseAfter_wf (s : State) (sid cls fpc faddr seq : Nat) (words : List (BitVec 32)) (h : s.memoryOk) :
    (s.raiseAfter sid cls fpc faddr seq words).memoryOk := by
  unfold State.raiseAfter
  grind [after_wf, laterClass_wf]

theorem runCvt_wf (s : State) (r : Raw) (h : s.memoryOk) : NextOk (s.runCvt r) := by
  unfold State.runCvt
  grind [setStrand_mem, nextSeq_mem, issue_wf, countEvents_mem, raiseAfter_wf]

/-! ### Memory: instructions across threads -/

theorem execShfl_wf (o : AOps) (s : State) (h : s.memoryOk) : NextOk (execShfl o s) := by
  unfold execShfl
  grind [issueStrand_wf]

theorem execVote_wf (o : AOps) (s : State) (h : s.memoryOk) : NextOk (execVote o s) := by
  unfold execVote
  grind [issueStrand_wf]

theorem execBallot_wf (o : AOps) (s : State) (h : s.memoryOk) : NextOk (execBallot o s) := by
  unfold execBallot
  grind [issueStrand_wf]

theorem execRedx_wf (o : AOps) (s : State) (h : s.memoryOk) : NextOk (execRedx o s) := by
  unfold execRedx
  grind [issueStrand_wf]

theorem execScan_wf (o : AOps) (s : State) (h : s.memoryOk) : NextOk (execScan o s) := by
  unfold execScan
  grind [issueStrand_wf]

theorem execMatch_wf (o : AOps) (s : State) (h : s.memoryOk) : NextOk (execMatch o s) := by
  unfold execMatch
  grind [issueStrand_wf]

/-! ### Memory: launches and placement -/

theorem launchWords_wf (s : State) (w : Who) (before : Option Nat) (va n : Nat) (h : s.memoryOk) :
    (s.launchWords w before va n).2.memoryOk := by
  unfold State.launchWords
  grind [noteRead_wf, readWords_wf]

theorem readRcb_wf (s : State) (w : Who) (rcb : Nat) (parent before : Option Nat) (h : s.memoryOk) :
    (s.readRcb w rcb parent before).2.memoryOk := by
  unfold State.readRcb
  grind [access_wf, launchWords_wf]

theorem enqueue_wf (s : State) (asid rcbVa : Nat) (l : LaunchInfo) (parent : Option Nat) (h : s.memoryOk) :
    (s.enqueue asid rcbVa l parent).2.memoryOk := by
  unfold State.enqueue
  grind [setRegion_mem, nextSeq_mem, nextId_mem, cvHold_mem, rcbPut_wf, grantCount_wf, pushPlacement_mem, settle_wf]

@[simp] theorem newStrand_mem (s : State) (rid cid core quad cidx entry allot : Nat) (spawned : Bool)
    (regs : KV Word) (amask s2 : Nat) :
    (s.newStrand rid cid core quad cidx entry allot spawned regs amask s2).2.mem = s.mem := by
  unfold State.newStrand
  grind [setStrand_mem, nextId_mem, wake_mem]

@[simp] theorem newStrands_mem (s : State) (rid cid core q i n s2 : Nat) :
    (s.newStrands rid cid core q i n s2).2.mem = s.mem := by
  induction n generalizing s i with
  | zero => rfl
  | succ n ih =>
    unfold State.newStrands
    grind [newStrand_mem]

theorem placeTile_wf (s : State) (rid core : Nat) (h : s.memoryOk) : (s.placeTile rid core).memoryOk := by
  unfold State.placeTile
  grind [setCohort_mem, setRegion_mem, nextSeq_mem, nextId_mem, expireCopies_mem, rcbPut_wf, newStrands_mem]

@[simp] theorem placeSpawned_mem (s : State) (core : Nat) (k : BinKey) (ts : List BinThread) :
    (s.placeSpawned core k ts).mem = s.mem := by
  unfold State.placeSpawned
  grind [setCohort_mem, nextId_mem, expireCopies_mem, newStrand_mem]

theorem performCore_wf (s : State) (core : Nat) (sids : List Nat) (h : s.memoryOk) :
    (s.performCore core sids).2.memoryOk := by
  unfold State.performCore
  grind [writeBackAll_wf]

/-! ### Memory: YIELD, SPAWN, LAUNCH and JOIN -/

theorem execYield_wf (o : W1Ops) (s : State) (h : s.memoryOk) : NextOk (execYield o s) := by
  unfold execYield
  grind [modStrand_mem, issue_wf]

theorem execYieldTimeout_wf (sid : Nat) (s : State) (h : s.memoryOk) : NextOk (execYieldTimeout sid s) := by
  unfold execYieldTimeout
  grind [modStrand_mem, NextOk]

@[simp] theorem enterBin_mem (s : State) (core b : Nat) (k : BinKey) (t : BinThread) :
    (s.enterBin core b k t).2.mem = s.mem := by
  unfold State.enterBin
  grind [setBin_mem, closeBin_mem]

@[simp] theorem enterAll_mem (s : State) (core b : Nat) (k : BinKey) (l : List (Nat × BinThread)) :
    (s.enterAll core b k l).2.mem = s.mem := by
  induction l generalizing s with
  | nil => rfl
  | cons x rest ih =>
    unfold State.enterAll
    grind [enterBin_mem]

theorem execSpawn_wf (o : AOps) (s : State) (h : s.memoryOk) : NextOk (execSpawn o s) := by
  unfold execSpawn
  grind [setStrand_mem, nextSeq_mem, fault_wf, issue_wf, enterAll_mem]

theorem execSpawnBinTimer_wf (core bin : Nat) (s : State) (h : s.memoryOk) :
    NextOk (execSpawnBinTimer core bin s) := by
  unfold execSpawnBinTimer
  grind [closeBin_mem, NextOk]

theorem execSpawnResidency_wf (core bin : Nat) (s : State) (h : s.memoryOk) :
    NextOk (execSpawnResidency core bin s) := by
  unfold execSpawnResidency
  grind [pushPlacement_mem, setBin_mem, placeEmptied_mem, placeSpawned_mem, performCore_wf, NextOk]

theorem launchAt_wf (s : State) (sid a before : Nat) (h : s.memoryOk) : (s.launchAt sid a before).2.memoryOk := by
  unfold State.launchAt
  grind [modStrand_mem, readRcb_wf, enqueue_wf, performCore_wf]

theorem execLaunch_wf (o : AOps) (s : State) (h : s.memoryOk) : NextOk (execLaunch o s) := by
  unfold execLaunch
  grind [modStrand_mem, putEntry_mem, logged_mem, again_mem, fault_wf, issue_wf, launchAt_wf]

theorem launchEntry_wf (s : State) (sid slot : Nat) (e : LogEnt) (h : s.memoryOk) :
    (s.launchEntry sid slot e).memoryOk := by
  unfold State.launchEntry
  grind [modStrand_mem, putEntry_mem, askTriage_mem, unissue_mem, finishEntry_wf, fault_wf, launchAt_wf]

theorem execJoin_wf (o : AOps) (s : State) (h : s.memoryOk) : NextOk (execJoin o s) := by
  unfold execJoin
  grind [setStrand_mem, expireCopies_mem, issue_wf]

theorem execJoinTimeout_wf (sid : Nat) (s : State) (h : s.memoryOk) : NextOk (execJoinTimeout sid s) := by
  unfold execJoinTimeout
  grind [setStrand_mem, push_mem, expireCopies_mem, NextOk]

/-! ### Memory: the fabric, as it is asked by a core -/

@[simp] theorem setPort_mem (s : State) (p : Nat) (x : Port) : (s.setPort p x).mem = s.mem := rfl

@[simp] theorem sendNow_mem (s : State) (o : OutFlit) : (s.sendNow o).mem = s.mem := rfl

@[simp] theorem sendOn_mem (s : State) (i kind peer gen addr : Nat) (payload : List Byte) :
    (s.sendOn i kind peer gen addr payload).mem = s.mem := by
  unfold State.sendOn
  grind [sendNow_mem]

@[simp] theorem flushOut_mem (s : State) : s.flushOut.mem = s.mem := by
  unfold State.flushOut
  grind [sendOn_mem, forEach_mem]

@[simp] theorem sendFlit_mem (s : State) (kind peer gen addr : Nat) (payload : List Byte) :
    (s.sendFlit kind peer gen addr payload).mem = s.mem := by
  unfold State.sendFlit
  grind [sendOn_mem]

@[simp] theorem putLine_mem (s : State) (old : Option McrLine) (l : McrLine) : (s.putLine old l).mem = s.mem := by
  unfold State.putLine
  grind [push_mem]

@[simp] theorem contribute_mem (s : State) (g w line rank : Nat) (cells : List (Nat × Byte)) :
    (s.contribute g w line rank cells).mem = s.mem := by
  unfold State.contribute
  grind [putLine_mem]

@[simp] theorem mcrStore_mem (s : State) (core pa ty : Nat) (bs : List Byte) :
    (s.mcrStore core pa ty bs).2.mem = s.mem := by
  unfold State.mcrStore
  grind [sendFlit_mem, contribute_mem, forEach_mem]

@[simp] theorem askPeer_mem (s : State) (sid slot thread pa n : Nat) (write : Bool) (data : List Byte) :
    (s.askPeer sid slot thread pa n write data).2.mem = s.mem := by
  unfold State.askPeer
  grind [sendFlit_mem]

@[simp] theorem windowAtomic_mem (s : State) (sid slot thread pa n f ty x y : Nat) :
    (s.windowAtomic sid slot thread pa n f ty x y).2.mem = s.mem := by
  unfold State.windowAtomic
  grind [askPeer_mem]

@[simp] theorem windowAccess_mem (s : State) (sid slot thread core pa n ty : Nat) (write : Option (List Byte)) :
    (s.windowAccess sid slot thread core pa n ty write).2.mem = s.mem := by
  unfold State.windowAccess
  grind [mcrStore_mem, askPeer_mem]

/-! ### Memory: the scratchpad -/

theorem spadWrite_wf (s : State) (cid off : Nat) (bs : List Byte) (h : s.memoryOk) :
    (s.spadWrite cid off bs).memoryOk := by
  unfold State.spadWrite
  grind [setCohort_mem, notify_wf]

theorem threadFault_wf (s : State) (sid : Nat) (r : Raw) (x : Nat × Nat × Nat × Nat) (h : s.memoryOk) :
    (s.threadFault sid r x).memoryOk := by
  unfold State.threadFault
  grind [precise_wf]

/-! ### Memory: loads, stores, cleaning, pins and atomics -/

theorem failed_wf (s : State) (sid : Nat) (a : Acc) (cls : Nat) (h : s.memoryOk) :
    (s.failed sid a cls).2.memoryOk := by
  unfold State.failed
  grind [errorRecord_wf, askTriage_mem]

theorem runAccs_wf (f : State → Acc → MemR × State) (sid seq : Nat) (l done : List Acc) (s : State)
    (hf : ∀ x a, x.memoryOk → (f x a).2.memoryOk) (h : s.memoryOk) : (runAccs f sid seq l done s).2.memoryOk := by
  induction l generalizing s done with
  | nil => exact h
  | cons a t ih =>
    unfold runAccs
    grind [failed_wf]

theorem entryFailed_wf (s : State) (sid slot : Nat) (h : s.memoryOk) : (s.entryFailed sid slot).memoryOk := by
  unfold State.entryFailed
  grind [trapRecord_wf, wakeTrap_mem, finishEntry_wf]

theorem keepEntry_wf (s : State) (sid slot : Nat) (e : LogEnt) (h : s.memoryOk) :
    (s.keepEntry sid slot e).memoryOk := by
  unfold State.keepEntry
  grind [putEntry_mem, moveEntry_mem, entryFailed_wf]

theorem settleEntry_wf (s : State) (sid slot : Nat) (e : LogEnt) (finish : Strand → LogEnt → Strand)
    (h : s.memoryOk) : (s.settleEntry sid slot e finish).memoryOk := by
  unfold State.settleEntry
  grind [modStrand_mem, finishEntry_wf, keepEntry_wf]

theorem runEntry_wf (s : State) (sid slot : Nat) (e : LogEnt) (f : State → Acc → MemR × State)
    (finish : Strand → LogEnt → Strand) (hf : ∀ x a, x.memoryOk → (f x a).2.memoryOk) (h : s.memoryOk) :
    (s.runEntry sid slot e f finish).memoryOk := by
  unfold State.runEntry
  grind [runAccs_wf, settleEntry_wf]

theorem runFirst_wf (s : State) (sid slot : Nat) (e : LogEnt) (f : State → Acc → MemR × State)
    (finish : Strand → LogEnt → Strand) (hf : ∀ x a, x.memoryOk → (f x a).2.memoryOk) (h : s.memoryOk) :
    (s.runFirst sid slot e f finish).memoryOk := by
  unfold State.runFirst
  grind [runAccs_wf, settleEntry_wf]

theorem orRemote_wf (x : MemR × State) (sid slot : Nat) (a : Acc) (ty : Nat) (write : Option (List Byte))
    (h : x.2.memoryOk) : (State.orRemote x sid slot a ty write).2.memoryOk := by
  unfold State.orRemote
  grind [windowAccess_mem]

theorem loadAcc_wf (r : Raw) (sid slot : Nat) (s : State) (a : Acc) (h : s.memoryOk) :
    (State.loadAcc r sid slot s a).2.memoryOk := by
  unfold State.loadAcc
  grind [negativeAt_wf, weakRead_wf, noteRead_wf, strongRead_wf, orRemote_wf]

@[simp] theorem signStore_mem (s : State) (sid slot : Nat) (a : Acc) : (s.signStore sid slot a).mem = s.mem := by
  unfold State.signStore
  grind [signPiece_mem, forEach_mem]

theorem storeAcc_wf (r : Raw) (sid slot : Nat) (s : State) (a : Acc) (h : s.memoryOk) :
    (State.storeAcc r sid slot s a).2.memoryOk := by
  unfold State.storeAcc
  grind [negativeAt_wf, weakStore_wf, strongWrite_wf, orRemote_wf, signStore_mem]

@[simp] theorem stillDue_mem (s : State) (sid slot : Nat) : (s.stillDue sid slot).mem = s.mem := by
  unfold State.stillDue
  grind [push_mem]

theorem execLd_wf (o : MOps) (s : State) (h : s.memoryOk) : NextOk (execLd o s) := by
  unfold execLd
  grind [push_mem, logged_mem, issue_wf, threadFault_wf]

theorem execSt_wf (o : MOps) (s : State) (h : s.memoryOk) : NextOk (execSt o s) := by
  unfold execSt
  grind [push_mem, logged_mem, issue_wf, threadFault_wf, runEntry_wf, storeAcc_wf, stillDue_mem]

theorem execLdl_wf (o : MOps) (s : State) (h : s.memoryOk) : NextOk (execLdl o s) := by
  unfold execLdl
  grind [push_mem, logged_mem, issue_wf, threadFault_wf]

@[simp] theorem arriveLdl_mem (s : State) (a : Acc) : (s.arriveLdl a).2.mem = s.mem := by
  unfold State.arriveLdl
  grind [lifeAdd_mem]

theorem execStl_wf (o : MOps) (s : State) (h : s.memoryOk) : NextOk (execStl o s) := by
  unfold execStl
  grind [issue_wf, done_mem, spadWrite_wf, threadFault_wf, forEach_wf]

theorem prefetch_wf (s : State) (sid : Nat) (r : Raw) (va : Nat) (llc : Bool) (h : s.memoryOk) :
    (s.prefetch sid r va llc).memoryOk := by
  unfold State.prefetch
  grind [llcRead_wf, ensure_wf]

theorem runPref_wf (s : State) (r : Raw) (llc : Bool) (h : s.memoryOk) : NextOk (s.runPref r llc) := by
  unfold State.runPref
  grind [issue_wf, done_mem, prefetch_wf, forEach_wf]

theorem cleanAcc_wf (r : Raw) (sid : Nat) (s : State) (a : Acc) (h : s.memoryOk) :
    (State.cleanAcc r sid s a).2.memoryOk := by
  unfold State.cleanAcc
  grind [llcClean_wf, llcDrop_wf, dropCopies_mem, writeBack_wf, l1Access_wf]

theorem runClean_wf (s : State) (r : Raw) (h : s.memoryOk) : NextOk (s.runClean r) := by
  unfold State.runClean
  grind [logged_mem, issue_wf, runEntry_wf, stillDue_mem, cleanAcc_wf]

@[simp] theorem pinLine_mem (s : State) (asid line : Nat) : (s.pinLine asid line).mem = s.mem := by
  unfold State.pinLine
  grind [setTag_mem, makeRoom_mem, fillWith_mem]

theorem lockLine_wf (s : State) (asid line : Nat) (h : s.memoryOk) : (s.lockLine asid line).2.memoryOk := by
  unfold State.lockLine
  grind [recoverSet_wf, pinLine_mem]

theorem unlockLine_wf (s : State) (asid line : Nat) (h : s.memoryOk) : (s.unlockLine asid line).2.memoryOk := by
  unfold State.unlockLine
  grind [setTag_mem, recoverSet_wf]

theorem pinAcc_wf (r : Raw) (sid : Nat) (s : State) (a : Acc) (h : s.memoryOk) :
    (State.pinAcc r sid s a).2.memoryOk := by
  unfold State.pinAcc
  grind [access_wf, lockLine_wf, unlockLine_wf]

theorem runPin_wf (s : State) (r : Raw) (h : s.memoryOk) : NextOk (s.runPin r) := by
  unfold State.runPin
  grind [logged_mem, issue_wf, runEntry_wf, pinAcc_wf]

theorem atomHome_wf (r : Raw) (sid slot : Nat) (s : State) (a : Acc) (h : s.memoryOk) :
    (State.atomHome r sid slot s a).2.memoryOk := by
  unfold State.atomHome
  grind [noteWts_mem, negativeAt_wf, homeWrite_wf, atomicAt_wf, windowAtomic_mem]

theorem execAtom_wf (o : MOps) (s : State) (h : s.memoryOk) : NextOk (execAtom o s) := by
  unfold execAtom
  grind [push_mem, logged_mem, issue_wf, threadFault_wf]

theorem atomBank_wf (r : Raw) (sid slot : Nat) (s : State) (a : Acc) (h : s.memoryOk) :
    (State.atomBank r sid slot s a).2.memoryOk := by
  unfold State.atomBank
  grind [lifeAdd_mem, negativeBank_wf, spadWrite_wf]

theorem execAtoml_wf (o : MOps) (s : State) (h : s.memoryOk) : NextOk (execAtoml o s) := by
  unfold execAtoml
  grind [logged_mem, issue_wf, threadFault_wf, runEntry_wf, atomBank_wf]

theorem memRun_wf (s : State) (sid slot : Nat) (e : LogEnt) (first : Bool) (h : s.memoryOk) :
    (s.memRun sid slot e first).memoryOk := by
  unfold State.memRun
  grind [runEntry_wf, runFirst_wf, loadAcc_wf, storeAcc_wf, arriveLdl_mem, cleanAcc_wf, pinAcc_wf, atomHome_wf,
    atomBank_wf]

theorem memEntry_wf (s : State) (sid slot : Nat) (e : LogEnt) (h : s.memoryOk) :
    (s.memEntry sid slot e).memoryOk := by
  unfold State.memEntry
  grind [memRun_wf]

theorem memEvent_wf (s : State) (sid slot : Nat) (ops : List Nat) (h : s.memoryOk) :
    NextOk (s.memEvent sid slot ops) := by
  unfold State.memEvent
  grind [memEntry_wf, NextOk]

theorem execLoadDataArrival_wf (sid slot : Nat) (s : State) (h : s.memoryOk) :
    NextOk (execLoadDataArrival sid slot s) := by
  unfold execLoadDataArrival
  grind [arrival_wf, memEvent_wf]

theorem migrating_wf (s : State) (w : Who) (va : Nat) (h : s.memoryOk) : (s.migrating w va).2.memoryOk := by
  unfold State.migrating
  grind [translate_wf]

/-! ### Memory: leases, waits, barriers, fences and guards -/

theorem giveStatus_wf (s : State) (sid slot d status : Nat) (h : s.memoryOk) :
    (s.giveStatus sid slot d status).memoryOk := by
  unfold State.giveStatus
  grind [modStrand_mem, finishEntry_wf]

theorem holdEntry_wf (s : State) (sid slot : Nat) (e : LogEnt) (cls : Nat) (h : s.memoryOk) :
    (s.holdEntry sid slot e cls).memoryOk := by
  unfold State.holdEntry
  grind [errorRecord_wf, putEntry_mem, askTriage_mem]

@[simp] theorem bumpVer_mem (s : State) (line : Nat) : (s.bumpVer line).mem = s.mem := rfl

theorem grantLease_wf (s : State) (w : Who) (sid va pa perms : Nat) (h : s.memoryOk) :
    (s.grantLease w sid va pa perms).memoryOk := by
  unfold State.grantLease
  grind [modStrand_mem, llcRead_wf, stampRead_mem, setCopy_mem, dropCopies_mem, bumpVer_mem]

theorem leaseEntry_wf (s : State) (sid slot : Nat) (e : LogEnt) (h : s.memoryOk) :
    (s.leaseEntry sid slot e).memoryOk := by
  unfold State.leaseEntry
  grind [noteBlocked_mem, access_wf, writeBack_wf, makeSlot_wf, moveSlot_wf, giveStatus_wf, holdEntry_wf,
    grantLease_wf]

@[simp] theorem oneEntry_mem (s : State) (sid : Nat) (r : Raw) (size : Nat) (block : Bool) :
    (s.oneEntry sid r size block).2.mem = s.mem := rfl

theorem execLease_wf (o : MOps) (s : State) (h : s.memoryOk) : NextOk (execLease o s) := by
  unfold execLease
  grind [push_mem, issue_wf, oneEntry_mem]

theorem execLeaseGrant_wf (sid slot : Nat) (s : State) (h : s.memoryOk) : NextOk (execLeaseGrant sid slot s) := by
  unfold execLeaseGrant
  grind [leaseEntry_wf, NextOk]

theorem joinLease_wf (s : State) (sid line seq : Nat) (h : s.memoryOk) : (s.joinLease sid line seq).memoryOk := by
  unfold State.joinLease
  grind [memEntry_wf, forEach_wf]

theorem unleaseEntry_wf (s : State) (sid slot : Nat) (e : LogEnt) (h : s.memoryOk) :
    (s.unleaseEntry sid slot e).memoryOk := by
  unfold State.unleaseEntry
  grind [access_wf, endLease_mem, giveStatus_wf, holdEntry_wf, joinLease_wf]

theorem execUnlease_wf (o : MOps) (s : State) (h : s.memoryOk) : NextOk (execUnlease o s) := by
  unfold execUnlease
  grind [issue_wf, oneEntry_mem, unleaseEntry_wf]

theorem execLeaseExpiry_wf (core line : Nat) (s : State) (h : s.memoryOk) : NextOk (execLeaseExpiry core line s) := by
  unfold execLeaseExpiry
  grind [endLease_mem, joinLease_wf, NextOk]

theorem waitOverflow_wf (s : State) (sid slot : Nat) (e : LogEnt) (h : s.memoryOk) :
    (s.waitOverflow sid slot e).memoryOk := by
  unfold State.waitOverflow
  grind [unissue_mem, fault_wf]

theorem waitAcc_wf (sid slot : Nat) (r : Raw) (s : State) (a : Acc) (h : s.memoryOk) :
    (State.waitAcc sid slot r s a).2.memoryOk := by
  unfold State.waitAcc
  grind [lifeAdd_mem, noteRead_wf, strongRead_wf, orRemote_wf]

theorem waitEntry_wf (s : State) (sid slot : Nat) (e : LogEnt) (h : s.memoryOk) :
    (s.waitEntry sid slot e).memoryOk := by
  unfold State.waitEntry
  grind [endWait_wf, putEntry_mem, wakeTrap_mem, runAccs_wf, entryFailed_wf, waitOverflow_wf, waitAcc_wf]

theorem execWait_wf (o : MOps) (s : State) (h : s.memoryOk) : NextOk (execWait o s) := by
  unfold execWait
  grind [modStrand_mem, push_mem, putEntry_mem, logged_mem, issue_wf, threadFault_wf, waitEntry_wf]

theorem execStrongReadAtHome_wf (sid slot : Nat) (s : State) (h : s.memoryOk) :
    NextOk (execStrongReadAtHome sid slot s) := by
  unfold execStrongReadAtHome
  grind [memEntry_wf, waitEntry_wf, NextOk]

theorem barWrite_wf (s : State) (sid cid off x : Nat) (h : s.memoryOk) : (s.barWrite sid cid off x).memoryOk := by
  unfold State.barWrite
  grind [modStrand_mem, negativeBank_wf, wakeTrap_mem, spadWrite_wf, forEach_wf]

theorem countIn_wf (s : State) (sid off x : Nat) (h : s.memoryOk) : (s.countIn sid off x).memoryOk := by
  unfold State.countIn
  grind [modStrand_mem, barWrite_wf]

@[simp] theorem waitBar_mem (s : State) (sid : Nat) (r : Raw) (off : Nat) : (s.waitBar sid r off).mem = s.mem := by
  unfold State.waitBar
  grind [setStrand_mem]

theorem runBar_wf (s : State) (r : Raw) (f : Nat → State → Nat → State) (hf : ∀ sid x off, x.memoryOk →
    (f sid x off).memoryOk) (h : s.memoryOk) : NextOk (s.runBar r f) := by
  refine issue_wf s r _ h ?_
  grind [fault_wf]

theorem execBarArrive_wf (o : MOps) (s : State) (h : s.memoryOk) : NextOk (execBarArrive o s) := by
  unfold execBarArrive
  grind [fault_wf, done_mem, countIn_wf, runBar_wf]

theorem execBarWait_wf (o : MOps) (s : State) (h : s.memoryOk) : NextOk (execBarWait o s) := by
  unfold execBarWait
  grind [waitBar_mem, runBar_wf]

theorem execBarSync_wf (o : MOps) (s : State) (h : s.memoryOk) : NextOk (execBarSync o s) := by
  unfold execBarSync
  grind [again_mem, fault_wf, countIn_wf, waitBar_mem, runBar_wf]

theorem execBarExpect_wf (o : MOps) (s : State) (h : s.memoryOk) : NextOk (execBarExpect o s) := by
  unfold execBarExpect
  grind [fault_wf, done_mem, barWrite_wf, runBar_wf]

@[simp] theorem expireRead_mem (s : State) (core : Nat) : (s.expireRead core).mem = s.mem := rfl

theorem runFence_wf (s : State) (r : Raw) (rel acq : Bool) (h : s.memoryOk) : NextOk (s.runFence r rel acq) := by
  unfold State.runFence
  grind [modCore_mem, issue_wf, done_mem, performCore_wf, expireRead_mem]

theorem reachGuard_wf (s : State) (sid va : Nat) (h : s.memoryOk) : (s.reachGuard sid va).2.memoryOk := by
  unfold State.reachGuard
  grind [atomicAt_wf, errorRecord_wf]

theorem bindGuard_wf (s : State) (sid pa : Nat) (vals : List Nat) (h : s.memoryOk) :
    (s.bindGuard sid pa vals).2.memoryOk := by
  unfold State.bindGuard
  grind [homeWrite_wf]

theorem runGuard_wf (s : State) (r : Raw) (block : Bool) (f : Nat → State → Nat → State)
    (hf : ∀ sid x pa, x.memoryOk → (f sid x pa).memoryOk) (h : s.memoryOk) : NextOk (s.runGuard r block f) := by
  refine issue_wf s r _ h ?_
  grind [again_mem, fault_wf, reachGuard_wf, oneEntry_mem, holdEntry_wf]

theorem execGbind_wf (o : MOps) (s : State) (h : s.memoryOk) : NextOk (execGbind o s) := by
  unfold execGbind
  grind [modStrand_mem, bindGuard_wf, runGuard_wf]

@[simp] theorem requestGuard_mem (s : State) (sid va pa dst : Nat) (excl : Bool) :
    (s.requestGuard sid va pa dst excl).2.mem = s.mem := by
  unfold State.requestGuard
  grind [modStrand_mem, push_mem]

theorem runAcq_wf (s : State) (r : Raw) (excl : Bool) (h : s.memoryOk) : NextOk (s.runAcq r excl) := by
  unfold State.runAcq
  grind [modStrand_mem, done_mem, runGuard_wf, requestGuard_mem]

theorem grantGuard_wf (s : State) (pa sid dst : Nat) (excl : Bool) (h : s.memoryOk) :
    (s.grantGuard pa sid dst excl).memoryOk := by
  unfold State.grantGuard
  grind [modStrand_mem, modCore_mem, push_mem, freeVal_mem, negativeAt_wf, homeWrite_wf, wakeTrap_mem]

theorem execGuardGrant_wf (pa : Nat) (s : State) (h : s.memoryOk) : NextOk (execGuardGrant pa s) := by
  unfold execGuardGrant
  grind [push_mem, noteBlocked_mem, grantGuard_wf, NextOk]

theorem releaseGuard_wf (s : State) (sid seq va pa : Nat) (h : s.memoryOk) :
    (s.releaseGuard sid seq va pa).2.memoryOk := by
  unfold State.releaseGuard
  grind [noteBlocked_mem, negativeAt_wf, dropGuard_wf, performRanges_wf]

theorem execRel_wf (o : MOps) (s : State) (h : s.memoryOk) : NextOk (execRel o s) := by
  unfold execRel
  grind [modStrand_mem, again_mem, runGuard_wf, releaseGuard_wf]

theorem guardEntry_wf (s : State) (sid slot : Nat) (e : LogEnt) (h : s.memoryOk) :
    (s.guardEntry sid slot e).memoryOk := by
  unfold State.guardEntry
  grind [freeEntry_mem, unissue_mem, fault_wf, giveStatus_wf, holdEntry_wf, reachGuard_wf, bindGuard_wf,
    requestGuard_mem, releaseGuard_wf]

theorem syncEntry_wf (s : State) (sid slot : Nat) (e : LogEnt) (h : s.memoryOk) :
    (s.syncEntry sid slot e).memoryOk := by
  unfold State.syncEntry
  grind [memEntry_wf, leaseEntry_wf, unleaseEntry_wf, waitEntry_wf, guardEntry_wf]

/-! ### Memory: the walker -/

theorem wkCheck_ok {α : Type} (addr : Nat) : RunOk (wkCheck addr : Wk α) := runOk_throw _

theorem wkRead_ok (w : Walker) (va n : Nat) : RunOk (wkRead w va n) := by
  unfold wkRead
  refine runOk_of_get _ (fun s h => ?_)
  extract_lets va' a late behind
  split_ifs
  · exact h
  · exact h
  · have hr := readPieces_wf (fun s a k => s.weakRead w.who (metaCache a) a k 0) (halves va' n) s 0 0
      (fun x a k hx => weakRead_wf x _ _ _ _ _ hx) h
    split
    rename_i r s' e
    rw [e] at hr
    rw [run_set]
    cases r <;> exact hr

theorem wkLevel_ok (w : Walker) (h : Nat) : RunOk (wkLevel w h) := by
  unfold wkLevel
  grind [wkCheck_ok, wkRead_ok, runOk_bind, runOk_pure]

theorem wkParent_ok (w : Walker) (l : Level) : RunOk (wkParent w l) := by
  unfold wkParent
  grind [wkCheck_ok, wkLevel_ok, runOk_bind, runOk_pure]

theorem wkMap_ok (w : Walker) (base n i skip k : Nat) : RunOk (wkMap w base n i skip k) := by
  induction n generalizing base i skip k with
  | zero =>
    unfold wkMap
    grind [wkCheck_ok]
  | succ n ih =>
    unfold wkMap
    grind [wkCheck_ok, wkRead_ok, runOk_bind, runOk_pure]

theorem wkTriple_ok (w : Walker) (l : Level) (i : Nat) (want : Option Nat) : RunOk (wkTriple w l i want) := by
  unfold wkTriple
  grind [wkCheck_ok, wkRead_ok, runOk_bind, runOk_pure]

theorem wkRp_ok (w : Walker) (l : Level) (p : Nat) : RunOk (wkRp w l p) := by
  unfold wkRp
  grind [wkRead_ok]

theorem wkFindRun_ok (w : Walker) (l : Level) (x n i : Nat) (want : Option Nat) (last : Nat) :
    RunOk (wkFindRun w l x n i want last) := by
  induction n generalizing x i want last with
  | zero =>
    unfold wkFindRun
    grind [wkCheck_ok]
  | succ n ih =>
    unfold wkFindRun
    grind [wkCheck_ok, wkTriple_ok, runOk_bind, runOk_pure]

theorem wkChain_ok (w : Walker) (l : Level) (x n i sum count last : Nat) :
    RunOk (wkChain w l x n i sum count last) := by
  induction n generalizing x i sum count last with
  | zero =>
    unfold wkChain
    grind [wkCheck_ok]
  | succ n ih =>
    unfold wkChain
    grind [wkCheck_ok, wkRead_ok, runOk_bind, runOk_pure]

theorem wkEntry_ok (w : Walker) (l : Level) (p x : Nat) : RunOk (wkEntry w l p x) := by
  unfold wkEntry
  grind [wkRead_ok, wkChain_ok, runOk_bind]

theorem wkSlot_ok (w : Walker) (l : Level) (x : Nat) : RunOk (wkSlot w l x) := by
  unfold wkSlot
  grind [wkRead_ok, runOk_bind, runOk_pure]

theorem wkRunEnd_ok (w : Walker) (l : Level) (q : Nat) (want : Option Nat) : RunOk (wkRunEnd w l q want) := by
  unfold wkRunEnd
  grind [wkTriple_ok, runOk_bind, runOk_pure]

theorem wkBounds_ok (w : Walker) (l : Level) (p : Nat) : RunOk (wkBounds w l p) := by
  unfold wkBounds
  grind [wkCheck_ok, wkRead_ok, wkRp_ok, wkRunEnd_ok, runOk_bind, runOk_pure]

theorem wkLocate_ok (w : Walker) (l : Level) (p x : Nat) : RunOk (wkLocate w l p x) := by
  unfold wkLocate
  grind [wkCheck_ok, wkRead_ok, wkMap_ok, wkRp_ok, wkFindRun_ok, wkEntry_ok, runOk_bind, runOk_pure]

theorem wkAt_ok (w : Walker) (l : Level) (x : Nat) (at_ : Place) : RunOk (wkAt w l x at_) := by
  unfold wkAt
  grind [wkRead_ok, wkSlot_ok, runOk_bind, runOk_pure]

theorem wkCoord_ok (w : Walker) (l : Level) (p x : Nat) : RunOk (wkCoord w l p x) := by
  unfold wkCoord
  grind [wkLocate_ok, wkAt_ok, runOk_bind]

theorem wkStep_ok (w : Walker) (l : Level) (p x : Nat) (at_ : Place) : RunOk (wkStep w l p x at_) := by
  unfold wkStep
  grind [wkCheck_ok, wkRead_ok, wkMap_ok, wkFindRun_ok, wkChain_ok, wkLocate_ok, wkAt_ok, runOk_bind, runOk_pure]

theorem wkFull_ok (w : Walker) (l : Level) (n x hi : Nat) : RunOk (wkFull w l n x hi) := by
  induction n generalizing x hi with
  | zero =>
    unfold wkFull
    grind [runOk_pure]
  | succ n ih =>
    unfold wkFull
    grind [wkSlot_ok, runOk_bind, runOk_pure]

theorem wkLand_ok (w : Walker) (l : Level) (x hi : Nat) : RunOk (wkLand w l x hi) := by
  unfold wkLand
  grind [wkFull_ok, runOk_pure]

theorem wkScan_ok (w : Walker) (l : Level) (p t n x hi : Nat) (at_ : Place) : RunOk (wkScan w l p t n x hi at_) := by
  induction n generalizing p t x hi at_ with
  | zero =>
    unfold wkScan
    grind [runOk_pure]
  | succ n ih =>
    unfold wkScan
    grind [wkAt_ok, wkStep_ok, runOk_bind, runOk_pure]

theorem wkScanRun_ok (w : Walker) (l : Level) (t n i x hi : Nat) (want : Option Nat) (last : Nat) :
    RunOk (wkScanRun w l t n i x hi want last) := by
  induction n generalizing t i x hi want last with
  | zero =>
    unfold wkScanRun
    grind [wkCheck_ok]
  | succ n ih =>
    unfold wkScanRun
    grind [wkCheck_ok, wkTriple_ok, runOk_bind, runOk_pure]

theorem wkProbe_ok (w : Walker) (l : Level) (c n x hi : Nat) : RunOk (wkProbe w l c n x hi) := by
  induction n generalizing c x hi with
  | zero =>
    unfold wkProbe
    grind [runOk_pure]
  | succ n ih =>
    unfold wkProbe
    grind [wkSlot_ok, runOk_bind, runOk_pure]

theorem wkSeek_ok (w : Walker) (l : Level) (p t x hi : Nat) : RunOk (wkSeek w l p t x hi) := by
  unfold wkSeek
  grind [wkRp_ok, wkLocate_ok, wkScan_ok, wkScanRun_ok, wkProbe_ok, runOk_bind, runOk_pure]

theorem wkAppend_ok (w : Walker) (l : Level) (h p : Nat) : RunOk (wkAppend w l h p) := by
  unfold wkAppend
  split_ifs
  · exact wkCheck_ok _
  · exact runOk_pure _
  · exact wkCheck_ok _
  · refine runOk_bind _ _ (wkRead_ok w _ _) (fun e => ?_)
    split_ifs
    · exact wkCheck_ok _
    · refine runOk_of_get _ (fun s hs => ?_)
      have ha := access_wf s w.who l.heapc needRW 0 hs
      split
      rename_i r t e
      rw [e] at ha
      rw [run_set]
      cases r <;> exact ha

theorem wkOpen_ok (w : Walker) (l : Level) (h p : Nat) (app : Bool) : RunOk (wkOpen w l h p app) := by
  unfold wkOpen
  grind [wkBounds_ok, wkLand_ok, wkAppend_ok, runOk_bind, runOk_pure]

theorem wkKopen_ok (w : Walker) (h p : Nat) (app : Bool) : RunOk (wkKopen w h p app) := by
  unfold wkKopen
  grind [wkLevel_ok, wkParent_ok, wkOpen_ok, runOk_bind]

theorem wkKdesc_ok (w : Walker) (a : Cursor) (h : Nat) (app : Bool) : RunOk (wkKdesc w a h app) := by
  unfold wkKdesc
  grind [wkCheck_ok, wkLevel_ok, wkSlot_ok, wkOpen_ok, runOk_bind, runOk_pure]

theorem wkOf_ok (w : Walker) (c : Cursor) : RunOk (wkOf w c) := by
  unfold wkOf
  grind [wkLevel_ok]

theorem wkSeen_ok (w : Walker) (c : Cursor) : RunOk (wkSeen w c) := by
  unfold wkSeen
  grind [wkOf_ok, runOk_pure]

theorem wkNext_ok (w : Walker) (c : Cursor) : RunOk (wkNext w c) := by
  unfold wkNext
  grind [wkStep_ok, wkLand_ok, runOk_bind, runOk_pure]

theorem wkMove_ok (w : Walker) (c : Cursor) (t : Nat) : RunOk (wkMove w c t) := by
  unfold wkMove
  grind [wkSeek_ok, wkSeen_ok, runOk_bind, runOk_pure]

theorem wkHere_ok (w : Walker) (c : Cursor) : RunOk (wkHere w c) := by
  unfold wkHere
  grind [wkCoord_ok, wkSeen_ok, runOk_bind, runOk_pure]

theorem wkSetp_ok (w : Walker) (c : Cursor) (x : Nat) : RunOk (wkSetp w c x) := by
  unfold wkSetp
  grind [wkLocate_ok, wkLand_ok, wkOf_ok, runOk_bind, runOk_pure]

theorem wkSplit_ok (w : Walker) (c : Cursor) : RunOk (wkSplit w c) := by
  unfold wkSplit
  grind [wkLand_ok, wkOf_ok, runOk_bind, runOk_pure]

theorem wkVal_ok (w : Walker) (c : Cursor) : RunOk (wkVal w c) := by
  unfold wkVal
  grind [wkCheck_ok, wkRead_ok, wkEntry_ok, wkOf_ok, runOk_bind, runOk_pure]

theorem wkMeet_ok (w : Walker) (n : Nat) (a b : Cursor) (ca cb : Option Nat) : RunOk (wkMeet w n a b ca cb) := by
  induction n generalizing a b ca cb with
  | zero =>
    unfold wkMeet
    grind [runOk_pure]
  | succ n ih =>
    unfold wkMeet
    grind [wkMove_ok, wkHere_ok, runOk_bind, runOk_pure]

theorem wkCoit_ok (w : Walker) (a b : Cursor) (or adv : Bool) (old : Nat) : RunOk (wkCoit w a b or adv old) := by
  unfold wkCoit
  refine runOk_bind _ _ (wkHere_ok w a) (fun ca => runOk_bind _ _ (wkHere_ok w b) (fun cb => ?_))
  refine runOk_ite_bind (wkNext_ok w a) (fun a => runOk_ite_bind (wkNext_ok w b) (fun b => ?_))
  refine runOk_ite_bind (wkHere_ok w a) (fun ca => runOk_ite_bind (wkHere_ok w b) (fun cb => ?_))
  split_ifs
  · exact runOk_pure _
  · exact runOk_bind _ _ (wkMeet_ok w _ a b ca cb) (fun _ => runOk_pure _)

theorem fetchAhead_wf (s : State) (w : Walker) (va : Nat) (h : s.memoryOk) : (s.fetchAhead w va).2.memoryOk := by
  unfold State.fetchAhead
  grind [ensure_wf]

theorem chainAhead_wf (s : State) (w : Walker) (l : Level) (n i : Nat) (h : s.memoryOk) :
    (s.chainAhead w l n i).memoryOk := by
  induction n generalizing s i with
  | zero => exact h
  | succ n ih =>
    unfold State.chainAhead
    grind [fetchAhead_wf, weakRead_wf]

theorem walkAhead_wf (s : State) (sid key k : Nat) (h : s.memoryOk) : (s.walkAhead sid key k).memoryOk := by
  unfold State.walkAhead
  grind [fetchAhead_wf, chainAhead_wf, forEach_wf]

/-! ### Memory: cursor instructions -/

theorem walkThread_ok (w : Walker) (r : Raw) (i : WalkIn) : RunOk (walkThread w r i) := by
  unfold walkThread
  extract_lets op
  split_ifs
  · exact runOk_bind _ _ (wkKopen_ok w _ _ _) (fun _ => runOk_pure _)
  · exact runOk_pure _
  · exact runOk_bind _ _ (wkNext_ok w _) (fun _ => runOk_pure _)
  · exact runOk_bind _ _ (wkMove_ok w _ _) (fun c => runOk_bind _ _ (wkHere_ok w c) (fun _ => runOk_pure _))
  · exact runOk_bind _ _ (wkSetp_ok w _ _) (fun _ => runOk_pure _)
  · exact runOk_bind _ _ (wkKdesc_ok w _ _ _) (fun _ => runOk_pure _)
  · exact runOk_bind _ _ (wkCoit_ok w _ _ _ _ _) (fun _ => runOk_pure _)
  · exact runOk_bind _ _ (wkSplit_ok w _) (fun _ => runOk_pure _)
  · exact runOk_bind _ _ (wkHere_ok w _) (fun _ => runOk_pure _)
  · exact runOk_bind _ _ (wkVal_ok w _) (fun _ => runOk_pure _)

theorem runWalk_wf {α : Type} (m : Wk α) (s : State) (hm : RunOk m) (h : s.memoryOk) : (runWalk m s).2.memoryOk :=
  hm s h

theorem walkFailed_wf (s : State) (sid : Nat) (a : Acc) (x : WErr) (h : s.memoryOk) :
    (s.walkFailed sid a x).2.memoryOk := by
  unfold State.walkFailed
  grind [failed_wf]

theorem walkStep_wf (s : State) (sid : Nat) (e : LogEnt) (curs : KV Cursor) (a : Acc) (h : s.memoryOk) :
    (s.walkStep sid e curs a).2.memoryOk := by
  unfold State.walkStep
  grind [walkThread_ok, runWalk_wf, walkFailed_wf]

theorem heapTake_wf (s : State) (w : Who) (q : CtrReq) (seq pool heapc : Nat) (h : s.memoryOk) :
    (s.heapTake w q seq pool heapc).2.memoryOk := by
  unfold State.heapTake
  grind [access_wf, enginePick_wf]

theorem kappStep_wf (s : State) (sid slot : Nat) (e : LogEnt) (curs : KV Cursor) (a : Acc) (h : s.memoryOk) :
    (s.kappStep sid slot e curs a).2.memoryOk := by
  unfold State.kappStep
  grind [negativeAt_wf, wkOf_ok, runWalk_wf, walkFailed_wf, heapTake_wf]

theorem followAcc_wf (sid slot : Nat) (s : State) (a : Acc) (h : s.memoryOk) :
    (State.followAcc sid slot s a).2.memoryOk := by
  unfold State.followAcc
  grind [negativeAt_wf, weakStore_wf, strongWrite_wf, signStore_mem]

theorem kcloseStep_wf (s : State) (sid : Nat) (e : LogEnt) (curs : KV Cursor) (a : Acc) (h : s.memoryOk) :
    (s.kcloseStep sid e curs a).2.memoryOk := by
  unfold State.kcloseStep
  grind [wkOf_ok, runWalk_wf, walkFailed_wf]

theorem closeHeaps_wf (s : State) (sid : Nat) (e : LogEnt) (h : s.memoryOk) : (s.closeHeaps sid e).memoryOk := by
  unfold State.closeHeaps
  grind [negativeAt_wf, returnAllow_mem, closeCount_mem, forEach_wf]

@[simp] theorem openHeaps_mem (s : State) (sid : Nat) (e : LogEnt) : (s.openHeaps sid e).mem = s.mem := by
  unfold State.openHeaps
  grind [openCount_mem, forEach_mem]

theorem homeCells_wf (s : State) (w : Who) (seq va n : Nat) (h : s.memoryOk) :
    (s.homeCells w seq va n).2.memoryOk := by
  unfold State.homeCells
  grind [forEach_snd_wf, atomicAt_wf]

theorem putOf_wf (s : State) (core : Nat) (pas : List Nat) (x : Nat) (h : s.memoryOk) :
    (s.putOf core pas x).memoryOk := by
  unfold State.putOf
  grind [homeWrite_wf, forEach_wf]

theorem probeHome_wf (s : State) (w : Who) (seq : Nat) (l : Level) (c n x : Nat) (h : s.memoryOk) :
    (s.probeHome w seq l c n x).2.memoryOk := by
  induction n generalizing s x with
  | zero => exact h
  | succ n ih =>
    unfold State.probeHome
    grind [homeCells_wf]

theorem mergeHome_wf (s : State) (w : Who) (seq : Nat) (l : Level) (c v : Nat) (h : s.memoryOk) :
    (s.mergeHome w seq l c v).2.memoryOk := by
  unfold State.mergeHome
  grind [noteWts_mem, homeCells_wf, putOf_wf, probeHome_wf, forEach_wf]

theorem wkMerge_ok (w : Walker) (c : Cursor) : RunOk (wkMerge w c) := by
  unfold wkMerge
  grind [wkCheck_ok, wkOf_ok, runOk_bind, runOk_pure]

theorem kapmStep_wf (s : State) (sid : Nat) (e : LogEnt) (curs : KV Cursor) (a : Acc) (h : s.memoryOk) :
    (s.kapmStep sid e curs a).2.memoryOk := by
  unfold State.kapmStep
  grind [negativeAt_wf, runWalk_wf, walkFailed_wf, mergeHome_wf, wkMerge_ok]

theorem cursorStep_wf (s : State) (sid slot : Nat) (e : LogEnt) (curs : KV Cursor) (a : Acc) (h : s.memoryOk) :
    (s.cursorStep sid slot e curs a).2.memoryOk := by
  unfold State.cursorStep
  grind [walkStep_wf, kappStep_wf, kcloseStep_wf, kapmStep_wf]

theorem runCursorAccs_wf (s : State) (sid slot : Nat) (e : LogEnt) (curs : KV Cursor) (l done : List Acc)
    (h : s.memoryOk) : (s.runCursorAccs sid slot e curs l done).2.2.memoryOk := by
  induction l generalizing s curs done with
  | nil => exact h
  | cons a t ih =>
    unfold State.runCursorAccs
    grind [runAccs_wf, followAcc_wf, cursorStep_wf]

theorem cursorEntry_wf (s : State) (sid slot : Nat) (e : LogEnt) (h : s.memoryOk) :
    (s.cursorEntry sid slot e).memoryOk := by
  unfold State.cursorEntry
  grind [modStrand_mem, putEntry_mem, settleEntry_wf, closeHeaps_wf, openHeaps_mem, runCursorAccs_wf]

theorem startCursor_wf (s : State) (sid : Nat) (r : Raw) (h : s.memoryOk) : (s.startCursor sid r).memoryOk := by
  unfold State.startCursor
  grind [modStrand_mem, logged_mem, cursorEntry_wf]

theorem issueCursor_wf (s : State) (r : Raw) (f : Nat → State → State) (h : s.memoryOk) (hf : (f s.cur s).memoryOk) :
    NextOk (s.issueCursor r f) := by
  refine issue_wf s r _ h ?_
  split_ifs
  · exact precise_wf _ _ _ _ _ _ _ _ h
  · exact hf

theorem walkInstr_wf (s : State) (r : Raw) (h : s.memoryOk) : NextOk (s.walkInstr r) := by
  unfold State.walkInstr
  grind [startCursor_wf, issueCursor_wf]

theorem execKapp_wf (o : KOps) (s : State) (h : s.memoryOk) : NextOk (execKapp o s) := by
  unfold execKapp
  grind [precise_wf, startCursor_wf, issueCursor_wf]

theorem execKpos_wf (o : KOps) (s : State) (h : s.memoryOk) : NextOk (execKpos o s) := by
  unfold execKpos
  grind [setStrand_mem, issueCursor_wf]

theorem execKclose_wf (o : KOps) (s : State) (h : s.memoryOk) : NextOk (execKclose o s) := by
  unfold execKclose
  grind [performCore_wf, startCursor_wf, issueCursor_wf]

theorem execKmov_wf (o : KOps) (s : State) (h : s.memoryOk) : NextOk (execKmov o s) := by
  unfold execKmov
  grind [setStrand_mem, issueCursor_wf]

/-! ### Memory: counter instructions -/

theorem ctrGate_wf (s : State) (sid : Nat) (r : Raw) (va : Nat) (h : s.memoryOk) :
    (s.ctrGate sid r va).2.memoryOk := by
  unfold State.ctrGate
  grind [access_wf, errorRecord_wf]

theorem ctrGates_wf (s : State) (sid : Nat) (r : Raw) (l : List (Nat × Nat)) (h : s.memoryOk) :
    (s.ctrGates sid r l).2.memoryOk := by
  induction l generalizing s with
  | nil => exact h
  | cons p rest ih =>
    unfold State.ctrGates
    grind [ctrGate_wf]

@[simp] theorem ctrTake_mem (s : State) (core pool pa n : Nat) (range : Bool) :
    (s.ctrTake core pool pa n range).2.mem = s.mem := by
  unfold State.ctrTake
  grind [setAllow_mem, allowRoom_mem, freeze_mem]

@[simp] theorem ctrGive_mem (s : State) (core asid pool pa n : Nat) :
    (s.ctrGive core asid pool pa n).2.mem = s.mem := by
  unfold State.ctrGive
  grind [setAllow_mem, entryReady_mem, needAllow_mem]

@[simp] theorem ctrLocal_mem (s : State) (sid seq : Nat) (r : Raw) (a : Acc) :
    (s.ctrLocal sid seq r a).2.mem = s.mem := by
  unfold State.ctrLocal
  grind [returnAllow_mem, ctrTake_mem, ctrGive_mem]

theorem ctrDone_wf (s : State) (sid slot : Nat) (e : LogEnt) (a : Acc) (x y : Nat) (h : s.memoryOk) :
    (s.ctrDone sid slot e a x y).2.memoryOk := by
  unfold State.ctrDone
  grind [negativeAt_wf, putEntry_mem]

theorem ctrThreads_wf (s : State) (sid slot : Nat) (e : LogEnt) (l : List Acc) (h : s.memoryOk) :
    (s.ctrThreads sid slot e l).2.memoryOk := by
  induction l generalizing s e with
  | nil => exact h
  | cons a t ih =>
    unfold State.ctrThreads
    grind [push_mem, putEntry_mem, ctrLocal_mem, ctrDone_wf]

theorem ctrRegate_wf (s : State) (sid : Nat) (g : Regate) (l : List Acc) (h : s.memoryOk) :
    (s.ctrRegate sid g l).2.memoryOk := by
  induction l generalizing s g with
  | nil => exact h
  | cons a t ih =>
    unfold State.ctrRegate
    grind [askTriage_mem, ctrGate_wf]

theorem ctrEntry_wf (s : State) (sid slot : Nat) (e : LogEnt) (h : s.memoryOk) :
    (s.ctrEntry sid slot e).memoryOk := by
  unfold State.ctrEntry
  grind [modStrand_mem, unissue_mem, threadFault_wf, settleEntry_wf, ctrThreads_wf, ctrRegate_wf]

theorem runCtr_wf (s : State) (r : Raw) (h : s.memoryOk) : NextOk (s.runCtr r) := by
  unfold State.runCtr
  grind [logged_mem, issue_wf, threadFault_wf, ctrGates_wf, ctrEntry_wf]

theorem initCtr_wf (s : State) (pa x : Nat) (h : s.memoryOk) : (s.initCtr pa x).memoryOk := by
  unfold State.initCtr
  grind [nextId_mem, setBlk_wf, setAllow_mem, forEach_wf]

theorem extendCtr_wf (s : State) (pa x : Nat) (h : s.memoryOk) : (s.extendCtr pa x).2.memoryOk := by
  unfold State.extendCtr
  grind [setBlk_wf]

theorem parkOf_wf (s : State) (w : Who) (va : Nat) (h : s.memoryOk) : (s.parkOf w va).2.memoryOk := by
  unfold State.parkOf
  grind [access_wf]

theorem serveInit_wf (s : State) (sid pa : Nat) (r : Raw) (u : Nat → Nat) (h : s.memoryOk) :
    (s.serveInit sid pa r u).2.memoryOk := by
  have he := extendCtr_wf s pa (u 0) h
  have hp := parkOf_wf s (s.who sid) (u 3) h
  unfold State.serveInit
  split
  · rcases hx : s.extendCtr pa (u 0) with ⟨k, t⟩
    rw [hx] at he
    exact he
  · extract_lets range
    split
    · exact h
    · split_ifs
      · rcases hx : s.parkOf (s.who sid) (u 3) with ⟨_ | _ | park, t⟩ <;> rw [hx] at hp
        · exact hp
        · exact hp
        · exact initCtr_wf t pa _ hp
      · exact initCtr_wf s pa _ h

theorem ctrServe_wf (s : State) (sid slot : Nat) (e : LogEnt) (a : Acc) (h : s.memoryOk) :
    (s.ctrServe sid slot e a).2.memoryOk := by
  unfold State.ctrServe
  grind [setBlk_wf, endRequest_wf, serveQuantity_wf, serveRange_wf, serveExact_wf, serveAdd_wf, putEntry_mem,
    ctrDone_wf, ctrEntry_wf, serveInit_wf]

theorem ctrArrive_wf (s : State) (sid slot : Nat) (e : LogEnt) (a : Acc) (h : s.memoryOk) :
    (s.ctrArrive sid slot e a).memoryOk := by
  unfold State.ctrArrive
  grind [push_mem, noteBlocked_mem, writeBack_wf, setBlk_wf, setRecalling_mem, ctrTurn_wf, ctrLeave_mem, ctrEntry_wf,
    ctrServe_wf, forEach_wf]

theorem ctrHome_wf (s : State) (sid slot t op : Nat) (range : Option Bool) (h : s.memoryOk) :
    NextOk (s.ctrHome sid slot t op range) := by
  unfold State.ctrHome
  grind [ctrArrive_wf, NextOk]

theorem execCounterRecall_wf (core pa : Nat) (s : State) (h : s.memoryOk) : NextOk (execCounterRecall core pa s) := by
  unfold execCounterRecall
  grind [freeze_mem, ctrTidy_wf, ctrArrive_wf, NextOk]

theorem execCounterReturn_wf (core pa init : Nat) (piece : Bool) (s : State) (h : s.memoryOk) :
    NextOk (execCounterReturn core pa init piece s) := by
  unfold execCounterReturn
  grind [noteBlocked_mem, setAllow_mem, endRequest_wf, ctrTurn_wf, ctrLeave_mem, applyReturn_wf, NextOk]

theorem takeBy_wf (s : State) (pa n : Nat) (h : s.memoryOk) : (s.takeBy pa n).memoryOk := by
  unfold State.takeBy
  grind [setBlk_wf, serveExact_wf]

theorem ctrAct_wf (s : State) (pa ident : Nat) (op : CtrOp) (h : s.memoryOk) : (s.ctrAct pa ident op).2.memoryOk := by
  unfold State.ctrAct
  grind [noteBlocked_mem, endRequest_wf, ctrTurn_wf, ctrLeave_mem, serveAdd_wf, initCtr_wf, extendCtr_wf, takeBy_wf]

theorem ctrActs_wf (s : State) (pa ident : Nat) (op : CtrOp) (h : s.memoryOk) : (s.ctrActs pa ident op).memoryOk := by
  unfold State.ctrActs
  grind [park_mem, ctrAct_wf]

/-! ### Memory: the matrix unit -/

theorem accReport_wf (s : State) (cid row n : Nat) (h : s.memoryOk) : (s.accReport cid row n).memoryOk := by
  unfold State.accReport
  grind [lifeAdd_mem, errorRecord_wf, forEach_wf]

@[simp] theorem accPut_mem (s : State) (cid row : Nat) (l : List Nat) : (s.accPut cid row l).mem = s.mem := rfl

@[simp] theorem pokeMatrix_mem (s : State) (core : Nat) : (s.pokeMatrix core).mem = s.mem := by
  unfold State.pokeMatrix
  grind [push_mem, forEach_mem]

@[simp] theorem putMEntry_mem (s : State) (core : Nat) (e : MEnt) : (s.putMEntry core e).mem = s.mem := rfl

@[simp] theorem ownTiles_mem (s : State) (cid ident : Nat) (tiles : List Nat) :
    (s.ownTiles cid ident tiles).mem = s.mem := rfl

@[simp] theorem freeTiles_mem (s : State) (cid ident : Nat) : (s.freeTiles cid ident).mem = s.mem := rfl

@[simp] theorem modWeight_mem (s : State) (core : Nat) (f : Weight → Weight) : (s.modWeight core f).mem = s.mem := rfl

@[simp] theorem enterMatrix_mem (s : State) (sid : Nat) (r : Raw) (tiles : List Nat) (row0 rows leave : Nat) :
    (s.enterMatrix sid r tiles row0 rows leave).mem = s.mem := by
  unfold State.enterMatrix
  grind [modStrand_mem, modCore_mem, nextSeq_mem, nextId_mem, logged_mem, pokeMatrix_mem, ownTiles_mem, modWeight_mem]

theorem issueMatrix_wf (s : State) (r : Raw) (plan : State → Strand → MPlan) (h : s.memoryOk) :
    NextOk (s.issueMatrix r plan) := by
  unfold State.issueMatrix
  grind [modCore_mem, takeLeave_wf, fault_wf, issue_wf, enterMatrix_mem]

@[simp] theorem flip_mem (s : State) (core cid : Nat) : (s.flip core cid).mem = s.mem := rfl

theorem completeMatrix_wf (s : State) (core : Nat) (e : MEnt) (h : s.memoryOk) :
    (s.completeMatrix core e).memoryOk := by
  unfold State.completeMatrix
  grind [modStrand_mem, modCore_mem, giveLeave_wf, cohortCheck_wf, finishEntry_wf, laterClass_wf, countEvents_mem,
    pokeMatrix_mem, freeTiles_mem, flip_mem]

theorem engineSpad_wf (s : State) (cid off n : Nat) (h : s.memoryOk) : (s.engineSpad cid off n).2.2.memoryOk := by
  unfold State.engineSpad
  grind [forEach_snd_wf, freeVal_mem, lifeAdd_mem, errorRecord_wf]

theorem fillRead_wf (s : State) (core : Nat) (e : MEnt) (x : Nat) (h : s.memoryOk) :
    (s.fillRead core e x).2.memoryOk := by
  unfold State.fillRead
  grind [lifeAdd_mem, strongRead_wf, errorRecord_wf, windowAccess_mem]

theorem fillLoop_wf (s : State) (core n : Nat) (e : MEnt) (h : s.memoryOk) : (s.fillLoop core n e).2.2.memoryOk := by
  induction n generalizing s e with
  | zero => exact h
  | succ n ih =>
    unfold State.fillLoop
    grind [fillRead_wf, modWeight_mem]

@[simp] theorem fillGone_mem (s : State) (core ident sid slot : Nat) :
    (s.fillGone core ident sid slot).mem = s.mem := by
  unfold State.fillGone
  grind [modCore_mem]

theorem fillHeld_wf (s : State) (core : Nat) (e : MEnt) (status : Nat) (h : s.memoryOk) :
    (s.fillHeld core e status).memoryOk := by
  unfold State.fillHeld
  grind [putEntry_mem, askTriage_mem, entryFailed_wf, fillGone_mem]

@[simp] theorem fillMark_mem (s : State) (e : MEnt) : (s.fillMark e).mem = s.mem := by
  unfold State.fillMark
  grind [putEntry_mem]

theorem startFill_wf (s : State) (core : Nat) (e : MEnt) (h : s.memoryOk) : (s.startFill core e).memoryOk := by
  unfold State.startFill
  grind [laterClass_wf, putMEntry_mem, modWeight_mem, fillLoop_wf, fillHeld_wf, fillMark_mem]

theorem startLoad_wf (s : State) (core : Nat) (e : MEnt) (h : s.memoryOk) : (s.startLoad core e).memoryOk := by
  unfold State.startLoad
  grind [lifeAdd_mem, errorRecord_wf, putMEntry_mem, modWeight_mem, engineSpad_wf]

@[simp] theorem startSwap_mem (s : State) (core : Nat) (e : MEnt) : (s.startSwap core e).mem = s.mem := by
  unfold State.startSwap
  grind [putMEntry_mem, modWeight_mem]

@[simp] theorem streamRow_mem (s : State) (cid row : Nat) (lns : Bool) (a : List Elem) (cols : List (List Elem)) :
    (s.streamRow cid row lns a cols).mem = s.mem := rfl

@[simp] theorem checksumLane_mem (s : State) (core : Nat) (e : MEnt) (p : Plane) (rows : List (List Elem)) :
    (s.checksumLane core e p rows).mem = s.mem := rfl

theorem startMul_wf (s : State) (core : Nat) (e : MEnt) (h : s.memoryOk) : (s.startMul core e).memoryOk := by
  unfold State.startMul
  grind [accReport_wf, putMEntry_mem, engineSpad_wf, streamRow_mem, checksumLane_mem, forEach_wf]

@[simp] theorem startWrite_mem (s : State) (core : Nat) (e : MEnt) : (s.startWrite core e).mem = s.mem := by
  unfold State.startWrite
  grind [accPut_mem, putMEntry_mem, forEach_mem]

theorem readHeld_wf (s : State) (core : Nat) (e : MEnt) (h : s.memoryOk) : (s.readHeld core e).memoryOk := by
  unfold State.readHeld
  grind [putEntry_mem, entryFailed_wf, accReport_wf, putMEntry_mem]

theorem startRead_wf (s : State) (core : Nat) (e : MEnt) (h : s.memoryOk) : (s.startRead core e).memoryOk := by
  unfold State.startRead
  grind [laterClass_wf, accReport_wf, putMEntry_mem, readHeld_wf]

theorem execMatrixCompletion_wf (core ident : Nat) (s : State) (h : s.memoryOk) :
    NextOk (execMatrixCompletion core ident s) := by
  unfold execMatrixCompletion
  grind [completeMatrix_wf, NextOk]

theorem execPowerLeaveRetry_wf (core sid : Nat) (s : State) (h : s.memoryOk) :
    NextOk (execPowerLeaveRetry core sid s) := by
  unfold execPowerLeaveRetry
  grind [modStrand_mem, NextOk]

/-! ### Memory: epilogues, routing and top-k -/

theorem startEpi_wf (s : State) (core : Nat) (e : MEnt) (h : s.memoryOk) : (s.startEpi core e).memoryOk := by
  unfold State.startEpi
  grind [forEach_fst_wf, engineSpad_wf, accReport_wf, spadWrite_wf, putMEntry_mem]

@[simp] theorem topkPut_mem (s : State) (cid row : Nat) (l : List Nat) : (s.topkPut cid row l).mem = s.mem := rfl

theorem saveTop_wf (s : State) (core own base n i : Nat) (e : MEnt) (h : s.memoryOk) :
    (s.saveTop core own base n i e).2.2.memoryOk := by
  induction n generalizing s i e with
  | zero => exact h
  | succ n ih =>
    unfold State.saveTop
    grind [strongWrite_wf, errorRecord_wf, setCohort_mem]

theorem restoreTop_wf (s : State) (core cid base n i : Nat) (e : MEnt) (h : s.memoryOk) :
    (s.restoreTop core cid base n i e).2.2.memoryOk := by
  induction n generalizing s i e with
  | zero => exact h
  | succ n ih =>
    unfold State.restoreTop
    grind [strongRead_wf, errorRecord_wf, topkPut_mem]

theorem evictTop_wf (s : State) (core own : Nat) (e : MEnt) (h : s.memoryOk) :
    (s.evictTop core own e).2.2.memoryOk := by
  unfold State.evictTop
  grind [setCohort_mem, modWeight_mem, saveTop_wf]

theorem claimTop_wf (s : State) (core : Nat) (e : MEnt) (h : s.memoryOk) : (s.claimTop core e).2.2.memoryOk := by
  unfold State.claimTop
  grind [setCohort_mem, modWeight_mem, restoreTop_wf, evictTop_wf]

theorem startRoute_wf (s : State) (core : Nat) (e : MEnt) (h : s.memoryOk) : (s.startRoute core e).memoryOk := by
  unfold State.startRoute
  grind [forEach_fst_wf, claimTop_wf, spadWrite_wf, putMEntry_mem]

theorem startTopk_wf (s : State) (core : Nat) (e : MEnt) (h : s.memoryOk) : (s.startTopk core e).memoryOk := by
  unfold State.startTopk
  grind [spadWrite_wf, accReport_wf, putMEntry_mem, topkPut_mem, claimTop_wf, forEach_wf]

@[simp] theorem clearSums_mem (s : State) (core : Nat) (e : MEnt) : (s.clearSums core e).mem = s.mem := rfl

theorem startCheck_wf (s : State) (core : Nat) (e : MEnt) (h : s.memoryOk) : (s.startCheck core e).memoryOk := by
  unfold State.startCheck
  grind [spadWrite_wf, accReport_wf, putMEntry_mem, modWeight_mem, clearSums_mem]

theorem execMepiRoute_wf (o : YOps) (s : State) (h : s.memoryOk) : NextOk (execMepiRoute o s) := by
  unfold execMepiRoute
  grind [issueMatrix_wf]

theorem execMtopkAcc_wf (o : YOps) (s : State) (h : s.memoryOk) : NextOk (execMtopkAcc o s) := by
  unfold execMtopkAcc
  grind [issueMatrix_wf]

theorem execMtopkOut_wf (o : YOps) (s : State) (h : s.memoryOk) : NextOk (execMtopkOut o s) := by
  unfold execMtopkOut
  grind [issueMatrix_wf]

theorem startMatrix_wf (s : State) (core : Nat) (e : MEnt) (h : s.memoryOk) : (s.startMatrix core e).memoryOk := by
  unfold State.startMatrix
  grind [startFill_wf, startLoad_wf, startSwap_mem, startMul_wf, startWrite_mem, startRead_wf, startEpi_wf,
    startRoute_wf, startTopk_wf, startCheck_wf]

theorem execMatrixEntryStart_wf (core ident : Nat) (s : State) (h : s.memoryOk) :
    NextOk (execMatrixEntryStart core ident s) := by
  unfold execMatrixEntryStart
  grind [push_mem, startMatrix_wf, NextOk]

/-! ### Memory: the copy engine -/

theorem barAdd_wf (s : State) (sid cid off n : Nat) (h : s.memoryOk) : (s.barAdd sid cid off n).memoryOk := by
  unfold State.barAdd
  grind [barWrite_wf]

theorem barAband_wf (s : State) (sid cid off : Nat) (h : s.memoryOk) : (s.barAband sid cid off).memoryOk := by
  unfold State.barAband
  grind [barWrite_wf]

theorem barSub_wf (s : State) (sid cid off n : Nat) (aband : Bool) (h : s.memoryOk) :
    (s.barSub sid cid off n aband).2.memoryOk := by
  unfold State.barSub
  grind [barWrite_wf]

theorem cmdSub_wf (s : State) (e : CCmd) (cid n : Nat) (aband : Bool) (h : s.memoryOk) :
    (s.cmdSub e cid n aband).2.memoryOk := by
  unfold State.cmdSub
  grind [barSub_wf]

@[simp] theorem putCommand_mem (s : State) (core : Nat) (e : CCmd) : (s.putCommand core e).mem = s.mem := rfl

@[simp] theorem pokeCopy_mem (s : State) (core : Nat) : (s.pokeCopy core).mem = s.mem := by
  unfold State.pokeCopy
  grind [push_mem, forEach_mem]

@[simp] theorem pokeTiles_mem (s : State) (core : Nat) (e : CCmd) : (s.pokeTiles core e).mem = s.mem := by
  unfold State.pokeTiles
  grind [push_mem, forEach_mem]

theorem enterCopy_wf (s : State) (sid : Nat) (r : Raw) (p : CEntry) (h : s.memoryOk) :
    (s.enterCopy sid r p).memoryOk := by
  unfold State.enterCopy
  grind [modStrand_mem, modCore_mem, nextSeq_mem, nextId_mem, ownTiles_mem, barAdd_wf, barAband_wf, pokeCopy_mem,
    pokeTiles_mem, forEach_wf]

theorem enterPlan_wf (s : State) (sid : Nat) (r : Raw) (p : CPlan) (h : s.memoryOk) :
    (s.enterPlan sid r p).memoryOk := by
  unfold State.enterPlan
  grind [takeLeave_wf, fault_wf, enterCopy_wf]

theorem issueCopy_wf (s : State) (r : Raw) (plan : State → Strand → CPlan) (h : s.memoryOk) :
    NextOk (s.issueCopy r plan) := by
  unfold State.issueCopy
  grind [issue_wf, enterPlan_wf]

@[simp] theorem cmdPeer_mem (s : State) (core : Nat) (e : CCmd) (pa n : Nat) (write : Option (List Byte)) :
    (s.cmdPeer core e pa n write).2.mem = s.mem := by
  unfold State.cmdPeer
  grind [windowAccess_mem]

@[simp] theorem cmdAtomic_mem (s : State) (core : Nat) (e : CCmd) (pa f ty x : Nat) :
    (s.cmdAtomic core e pa f ty x).2.mem = s.mem := by
  unfold State.cmdAtomic
  grind [windowAtomic_mem]

theorem cmdRead_wf (s : State) (core : Nat) (e : CCmd) (a n : Nat) (h : s.memoryOk) :
    (s.cmdRead core e a n).2.memoryOk := by
  unfold State.cmdRead
  grind [lifeAdd_mem, strongRead_wf, cmdPeer_mem]

theorem cmdWrite_wf (s : State) (core : Nat) (e : CCmd) (a : Nat) (bs : List Byte) (h : s.memoryOk) :
    (s.cmdWrite core e a bs).2.memoryOk := by
  unfold State.cmdWrite
  grind [homeStore_wf, cmdPeer_mem]

@[simp] theorem cmdSpad_mem (s : State) (cid off n : Nat) : (s.cmdSpad cid off n).2.mem = s.mem := by
  unfold State.cmdSpad
  grind [lifeAdd_mem]

theorem cmdPut_wf (s : State) (e : CCmd) (off : Nat) (bs : List Byte) (h : s.memoryOk) :
    (s.cmdPut e off bs).memoryOk := by
  unfold State.cmdPut
  grind [spadWrite_wf, forEach_wf]

@[simp] theorem rowBytes_mem (s : State) (e : CCmd) (l : List Nat) : (s.rowBytes e l).2.mem = s.mem := by
  unfold State.rowBytes
  grind [freeVal_mem]

theorem stopCommand_wf (s : State) (core : Nat) (e : CCmd) (code cls addr : Nat) (h : s.memoryOk) :
    (s.stopCommand core e code cls addr).memoryOk := by
  unfold State.stopCommand
  grind [record_wf, cmdSub_wf, putCommand_mem, forEach_wf]

theorem finishCommand_wf (s : State) (core : Nat) (e : CCmd) (h : s.memoryOk) :
    (s.finishCommand core e).memoryOk := by
  unfold State.finishCommand
  grind [modCore_mem, noteTime_mem, giveLeave_wf, cohortCheck_wf, laterClass_wf, countEvents_mem, spadWrite_wf,
    pokeCopy_mem, forEach_wf]

theorem returnTiles_wf (s : State) (core : Nat) (e : CCmd) (h : s.memoryOk) : (s.returnTiles core e).memoryOk := by
  unfold State.returnTiles
  grind [pokeTiles_mem, finishCommand_wf]

theorem execCopyTileReturn_wf (core ident tile : Nat) (s : State) (h : s.memoryOk) :
    NextOk (execCopyTileReturn core ident tile s) := by
  unfold execCopyTileReturn
  grind [NextOk, forEach_mem, forEach_snd_wf, setCohort_mem, cmdSub_wf, putCommand_mem, stopCommand_wf,
    returnTiles_wf]

theorem delivered_wf (s : State) (e : CCmd) (n : Nat) (h : s.memoryOk) : (s.delivered e n).2.2.memoryOk := by
  unfold State.delivered
  grind [modCore_mem, cmdSub_wf]

@[simp] theorem cmdFault_mem (s : State) (core : Nat) (e : CCmd) (cls addr : Nat) :
    (s.cmdFault core e cls addr).mem = s.mem := by
  unfold State.cmdFault
  grind [vector_mem, putCommand_mem]

/-- One step of a copy command: the law of each of its local continuations first, then the kinds of command. -/
theorem stepCommand_wf (s : State) (core : Nat) (e : CCmd) (h : s.memoryOk) : (s.stepCommand core e).2.memoryOk := by
  unfold State.stepCommand
  extract_lets waits fails lost sent read write spad on
  have hwaits : ∀ x, x.memoryOk → (waits x).2.memoryOk := by
    grind [putCommand_mem]
  have hfails : ∀ x c a, x.memoryOk → (fails x c a).2.memoryOk := by
    grind [cmdFault_mem]
  have hlost : ∀ x a, x.memoryOk → (lost x a).2.memoryOk := by
    grind [stopCommand_wf]
  have hsent : ∀ x e n, x.memoryOk → (sent x e n).2.memoryOk := by
    grind [delivered_wf, stopCommand_wf]
  have hread : ∀ a n f, (∀ bs x, x.memoryOk → (f bs x).2.memoryOk) → (read a n f).2.memoryOk := by
    grind [cmdRead_wf]
  have hwrite : ∀ x a bs f, (∀ e x, x.memoryOk → (f e x).2.memoryOk) → x.memoryOk → (write x a bs f).2.memoryOk := by
    grind [cmdWrite_wf]
  have hspad : ∀ off n f, (∀ bs x, x.memoryOk → (f bs x).2.memoryOk) → (spad off n f).2.memoryOk := by
    grind [cmdSpad_mem]
  clear_value waits fails lost sent read write spad
  split
  · grind [putCommand_mem]
  · exact hread _ _ _ (by grind [cmdPut_wf])
  · exact hspad _ _ _ (fun bs x hx => hwrite _ _ _ _ (fun e y hy => hsent _ _ _ hy) hx)
  · exact hread _ _ _ (fun bs x hx => hx)
  · exact hwrite _ _ _ _ (by grind) h
  · grind [cmdPut_wf]
  · exact hsent _ _ _ h
  · exact hspad _ _ _ (by grind [atomicAt_wf, writeOf_wf, cmdAtomic_mem])
  · grind [rowBytes_mem, cmdPut_wf]
  · exact hspad _ _ _ (by grind [rowBytes_mem])
  · grind [cmdPut_wf]
  · exact hspad _ _ _ (fun bs x hx => hx)
  · grind [stopCommand_wf]

theorem runCommand_wf (s : State) (core fuel : Nat) (e : CCmd) (h : s.memoryOk) :
    (s.runCommand core fuel e).memoryOk := by
  induction fuel generalizing s e with
  | zero => exact h
  | succ fuel ih =>
    unfold State.runCommand
    grind [stepCommand_wf]

theorem startCopy_wf (s : State) (core fuel : Nat) (e : CCmd) (h : s.memoryOk) :
    (s.startCopy core fuel e).memoryOk := by
  unfold State.startCopy
  grind [putCommand_mem, pokeCopy_mem, stopCommand_wf, returnTiles_wf, runCommand_wf]

@[simp] theorem copyRepaired_mem (s : State) (core ident : Nat) : (s.copyRepaired core ident).mem = s.mem := by
  unfold State.copyRepaired
  grind [push_mem, putCommand_mem]

theorem copyReturned_wf (s : State) (core ident : Nat) (h : s.memoryOk) : (s.copyReturned core ident).memoryOk := by
  unfold State.copyReturned
  grind [migrating_wf, stopCommand_wf, returnTiles_wf]

theorem execMldt_wf (o : MOps) (s : State) (h : s.memoryOk) : NextOk (execMldt o s) := by
  unfold execMldt
  grind [setStrand_mem, push_mem, nextSeq_mem, lifeAdd_mem, errorRecord_wf, fault_wf, issue_wf]

/-! ### Memory: the dispatch engines -/

theorem prepare_wf (s : State) (w : Who) (va n : Nat) (h : s.memoryOk) : (s.prepare w va n).memoryOk := by
  unfold State.prepare
  grind [noteBlocked_mem, translate_wf, writeBack_wf, forEach_wf]

@[simp] theorem setAnswers_mem (s : State) (key : Nat) (l : List (Option (List Byte))) :
    (s.setAnswers key l).mem = s.mem := rfl

/-- What comes out is the state of the run itself, or the one it started from with the access that stopped it begun. -/
theorem runEng_wf {α : Type} (j : Job) (m : Eng α) (s : State) (hm : RunOk m) (h : s.memoryOk) :
    (runEng j m s).2.memoryOk := by
  have hr := hm s h
  unfold runEng
  split
  · rename_i e
    rw [e] at hr
    exact hr
  · exact prepare_wf s _ _ _ h
  · rename_i e
    rw [e] at hr
    split <;> exact hr
  · split
    · split_ifs
      · exact h
      · exact memoryOk_of_mem (askPeer_mem ..) h
    · exact h
  · exact translate_wf s _ _ h
  · exact h

theorem egAnswer_ok (r : MemR) (va n : Nat) : RunOk (egAnswer r va n) := by
  unfold egAnswer
  grind [runOk_pure, runOk_throw]

theorem egRemote_ok (j : Job) (va pa n : Nat) (write : Bool) (data : List Byte) :
    RunOk (egRemote j va pa n write data) := by
  unfold egRemote
  refine runOk_of_get _ (fun s h => ?_)
  extract_lets ww
  split_ifs
  · exact h
  · split
    · exact h
    · split <;> exact h

theorem egAfter_ok (j : Job) (a n : Nat) (write : Bool) : RunOk (egAfter j a n write) := by
  unfold egAfter
  refine runOk_of_get _ (fun s h => ?_)
  split
  · split_ifs <;> exact h
  · exact h

theorem egPieces_ok (j : Job) (l : List (Nat × Nat)) : RunOk (egPieces j l) := by
  induction l with
  | nil => exact runOk_pure _
  | cons p rest ih =>
    unfold egPieces
    refine runOk_of_get _ (fun s h => ?_)
    have hr := strongRead_wf s j.who p.1 p.2 0 h
    split
    rename_i r t e
    rw [e] at hr
    refine runOk_at_set ?_ hr
    cases r <;> grind [runOk_bind, runOk_pure, egRemote_ok, egAnswer_ok]

theorem egRead_ok (j : Job) (va n : Nat) : RunOk (egRead j va n) := by
  unfold egRead
  grind [egAfter_ok, egPieces_ok, runOk_bind, runOk_pure]

theorem egPut_ok (j : Job) (va : Nat) (bs : List Byte) (l : List (Nat × Nat)) : RunOk (egPut j va bs l) := by
  induction l with
  | nil => exact runOk_pure _
  | cons p rest ih =>
    unfold egPut
    extract_lets mine
    refine runOk_of_get _ (fun s h => ?_)
    have hr := strongWrite_wf s j.who p.1 mine h
    split
    rename_i r t e
    rw [e] at hr
    refine runOk_at_set ?_ hr
    refine runOk_bind _ _ ?_ (fun _ => ih)
    cases r with
    | remote pa => exact runOk_bind _ _ (egRemote_ok j _ _ _ _ _) (fun _ => runOk_pure _)
    | ok | wait | fault => exact runOk_bind _ _ (egAnswer_ok _ _ _) (fun _ => runOk_pure _)

theorem egWrite_ok (j : Job) (va : Nat) (bs : List Byte) : RunOk (egWrite j va bs) := by
  unfold egWrite
  grind [egAfter_ok, egPut_ok, runOk_bind]

theorem egMod_ok (f : State → State) (hf : ∀ s, s.memoryOk → (f s).memoryOk) : RunOk (egMod f) := hf

theorem egCounter_ok (j : Job) (va kind : Nat) : RunOk (egCounter j va kind) := by
  unfold egCounter
  refine runOk_of_get _ (fun s h => ?_)
  extract_lets a
  have hr := atomicAt_wf s j.who a 64 needRW h
  split
  rename_i r t e
  rw [e] at hr
  refine runOk_at_set (runOk_bind _ _ (egAnswer_ok r _ 64) (fun pa => runOk_of_get _ (fun s h => ?_))) hr
  split_ifs <;> exact h

theorem egTake_ok (j : Job) (e : Nat) : RunOk (egTake j e) := by
  unfold egTake
  refine runOk_bind _ _ (egCounter_ok j _ 1) (fun pa => runOk_of_get _ (fun s h => ?_))
  have hr := engineTake_wf s (engineReq j e) j.who.core pa 1 j.who.asid j.pool h
  split
  rename_i r t e
  rw [e] at hr
  rw [run_set]
  cases r <;> exact hr

theorem egSlot_ok (j : Job) (e : Nat) : RunOk (egSlot j e) := by
  unfold egSlot
  refine runOk_bind _ _ (egCounter_ok j _ 2) (fun pa => runOk_of_get _ (fun s h => ?_))
  have hp := enginePick_wf s (engineReq j e) j.who.core pa j.who.asid j.pool h
  split
  rename_i r base t e
  rw [e] at hp
  rw [run_set]
  cases r <;> exact hp

theorem egInit_ok (j : Job) (e pa blk : Nat) : RunOk (egInit j e pa blk) := by
  unfold egInit
  refine runOk_of_get _ (fun s h => ?_)
  have hr := homeTurn_wf s pa j.who.core (engineReq j e) h
  split
  rename_i turn t e'
  rw [e'] at hr
  rw [run_set]
  split_ifs
  · exact (egMod_ok _ (fun s h => by grind [initCtr_wf, ctrLeave_mem])) _ hr
  · exact hr

theorem egRefill_ok (j : Job) (e v : Nat) : RunOk (egRefill j e v) := by
  unfold egRefill
  grind [egCounter_ok, egInit_ok, runOk_bind]

theorem egState_ok (j : Job) (e : Nat) : RunOk (egState j e) := by
  unfold egState
  grind [egRead_ok]

theorem egPutState_ok (j : Job) (e b : Nat) : RunOk (egPutState j e b) := by
  unfold egPutState
  grind [egWrite_ok]

theorem egRows_ok (j : Job) (u z scores n q : Nat) : RunOk (egRows j u z scores n q) := by
  induction n generalizing u z scores q with
  | zero =>
    unfold egRows
    grind [runOk_pure]
  | succ n ih =>
    unfold egRows
    grind [egRead_ok, runOk_bind, runOk_pure]

theorem egCheckDone_ok (j : Job) (u : Nat) : RunOk (egCheckDone j u) := by
  unfold egCheckDone
  grind [egRead_ok, egWrite_ok, egRows_ok, runOk_bind, runOk_pure]

theorem egMarker_ok (j : Job) (u q : Nat) : RunOk (egMarker j u q) := by
  unfold egMarker
  grind [egRead_ok, egWrite_ok, egCheckDone_ok, runOk_bind]

@[simp] theorem tryProduct_mem (s : State) (p : Product) : (s.tryProduct p).2.mem = s.mem := by
  unfold State.tryProduct
  grind [enterAll_mem]

@[simp] theorem spawnProduct_mem (s : State) (p : Product) : (s.spawnProduct p).mem = s.mem := by
  unfold State.spawnProduct
  grind [tryProduct_mem]

theorem egClose_ok (j : Job) (e b : Nat) : RunOk (egClose j e b) := by
  unfold egClose
  split_ifs
  · exact runOk_pure _
  · refine runOk_bind _ _ (egCounter_ok j _ 2) (fun slots => runOk_bind _ _ runOk_get (fun s => ?_))
    refine runOk_bind _ _ (egInit_ok j e slots _) (fun _ => runOk_bind _ _ ?_ (fun _ => runOk_pure _))
    exact egMod_ok _ (fun s h => by grind [spawnProduct_mem])

theorem egCloseIf_ok (j : Job) (e : Nat) (p : Nat → Bool) : RunOk (egCloseIf j e p) := by
  unfold egCloseIf
  grind [egState_ok, egPutState_ok, egClose_ok, runOk_bind, runOk_pure]

theorem egPlace_ok (j : Job) (e r : Nat) (late : Bool) : RunOk (egPlace j e r late) := by
  unfold egPlace
  grind [egRead_ok, egWrite_ok, egSlot_ok, egState_ok, egPutState_ok, runOk_bind, runOk_get, runOk_throw]

theorem egRecord_ok (j : Job) (r stage : Nat) : RunOk (egRecord j r stage) := by
  unfold egRecord
  extract_lets u q e
  split
  · exact runOk_bind _ _ (egState_ok j _) (fun b => runOk_bind _ _ (egPutState_ok j _ _) (fun _ => runOk_pure _))
  split
  · exact runOk_bind _ _ (egMarker_ok j u q) (fun _ => runOk_pure _)
  · split
    · refine runOk_bind _ _ (egTake_ok j e) (fun ok => ?_)
      split_ifs
      · exact runOk_pure _
      · refine runOk_bind _ _ (egState_ok j e) (fun b => ?_)
        split_ifs
        · refine runOk_bind _ _ (egWrite_ok j _ _) (fun _ => runOk_bind _ _ (egPutState_ok j e _) (fun _ => ?_))
          exact runOk_bind _ _ (egMod_ok _ (fun s h => h)) (fun _ => runOk_pure _)
        · refine runOk_bind _ _ (egPutState_ok j e _) (fun _ => ?_)
          exact runOk_bind _ _ (egMarker_ok j u q) (fun _ => runOk_pure _)
    · exact runOk_bind _ _ (egPlace_ok j e r false) (fun _ => runOk_pure _)
    · exact runOk_bind _ _ (egCloseIf_ok j e _) (fun _ => runOk_pure _)

theorem egDrain_ok (j : Job) (e stage : Nat) : RunOk (egDrain j e stage) := by
  unfold egDrain
  grind [egRead_ok, egTake_ok, egState_ok, egCloseIf_ok, egPlace_ok, runOk_bind, runOk_pure, runOk_get]

@[simp] theorem putLayer_mem (s : State) (l : Layer) : (s.putLayer l).mem = s.mem := rfl

@[simp] theorem noteBlock_mem (s : State) (l : Layer) (x : Nat) : (s.noteBlock l x).mem = s.mem := rfl

theorem egSweep_ok (j : Job) (op : SweepOp) (stage : Nat) : RunOk (egSweep j op stage) := by
  unfold egSweep
  grind [egRefill_ok, egCloseIf_ok, egDrain_ok, runOk_bind, runOk_pure]

/-- Work of an engine: what follows a run keeps the form, and each kind of work is such a run. -/
theorem runWork_wf (s : State) (j : Job) (engine : Nat) (d : DRec) (h : s.memoryOk) :
    (s.runWork j engine d).2.memoryOk := by
  unfold State.runWork
  extract_lets follow
  have hf : ∀ r done, r.2.memoryOk → (follow r done).2.memoryOk := by grind
  clear_value follow
  have hsweep (op : SweepOp) : (runEng j (egSweep j op d.stage) s).2.memoryOk := runEng_wf j _ s (egSweep_ok j op _) h
  split
  · exact hf _ _ (runEng_wf j _ s (egRecord_ok j _ _) h)
  · exact hf _ _ (runEng_wf j _ s (runOk_bind _ _ (egCloseIf_ok j _ _) (fun _ => runOk_pure _)) h)
  · split
    · exact hf _ _ (hsweep _)
    · exact h
  · split
    · exact hf _ _ (hsweep _)
    · exact h

@[simp] theorem setQueue_mem (s : State) (die engine : Nat) (l : List DRec) :
    (s.setQueue die engine l).mem = s.mem := rfl

@[simp] theorem arriveInstants_mem (s : State) (die engine : Nat) : (s.arriveInstants die engine).mem = s.mem := by
  unfold State.arriveInstants
  grind [putLayer_mem, setQueue_mem, forEach_mem]

@[simp] theorem enqueueWork_mem (s : State) (die engine : Nat) (d : DRec) :
    (s.enqueueWork die engine d).mem = s.mem := by
  unfold State.enqueueWork
  grind [setQueue_mem, arriveInstants_mem]

@[simp] theorem pokeEngines_mem (s : State) (die : Nat) : (s.pokeEngines die).mem = s.mem := by
  unfold State.pokeEngines
  grind [push_mem]

theorem execDispatchInstant_wf (die engine : Nat) (s : State) (h : s.memoryOk) :
    NextOk (execDispatchInstant die engine s) := by
  unfold execDispatchInstant
  grind [push_mem, arriveInstants_mem, NextOk]

theorem execBatchCloseWindow_wf (lcb expert : Nat) (s : State) (h : s.memoryOk) :
    NextOk (execBatchCloseWindow lcb expert s) := by
  unfold execBatchCloseWindow
  grind [push_mem, enqueueWork_mem, NextOk]

theorem execProductSpawnRetry_wf (lcb expert : Nat) (s : State) (h : s.memoryOk) :
    NextOk (execProductSpawnRetry lcb expert s) := by
  unfold execProductSpawnRetry
  grind [spawnProduct_mem, NextOk]

theorem recordDone_wf (s : State) (core : Nat) (e : CCmd) (bytes : Nat) (h : s.memoryOk) :
    (s.recordDone core e bytes).memoryOk := by
  unfold State.recordDone
  grind [putCommand_mem, stopCommand_wf, returnTiles_wf, delivered_wf]

theorem workFailed_wf (s : State) (core : Nat) (e : CCmd) (x : EErr) (h : s.memoryOk) :
    (s.workFailed core e x).memoryOk := by
  unfold State.workFailed
  grind [putCommand_mem, stopCommand_wf, returnTiles_wf, cmdFault_mem]

theorem workDone_wf (s : State) (die engine : Nat) (j : Job) (e : Option CCmd) (d : DRec) (rest : List DRec)
    (left : Option DRec) (h : s.memoryOk) : (s.workDone die engine j e d rest left).memoryOk := by
  unfold State.workDone
  grind [push_mem, setQueue_mem, recordDone_wf]

@[simp] theorem engineForget_mem (s : State) (die engine : Nat) : (s.engineForget die engine).mem = s.mem := by
  unfold State.engineForget
  grind [ctrDrop_mem, setAnswers_mem, forEach_mem]

theorem execDispatchRecord_wf (die engine : Nat) (s : State) (h : s.memoryOk) :
    NextOk (execDispatchRecord die engine s) := by
  unfold execDispatchRecord
  have hs := memoryOk_of_mem (arriveInstants_mem s die engine) h
  extract_lets s'
  split
  · grind [NextOk]
  · extract_lets e
    split
    · grind [NextOk, engineForget_mem, setQueue_mem]
    · split_ifs <;> grind [NextOk, engineForget_mem, setQueue_mem, push_mem, runWork_wf, workDone_wf, workFailed_wf]

theorem readLcb_wf (s : State) (sid a : Nat) (h : s.memoryOk) : (s.readLcb sid a).2.memoryOk := by
  unfold State.readLcb
  grind [errorRecord_wf, runEng_wf, egRead_ok]

theorem slotsBad_wf (s : State) (sid x cx : Nat) (h : s.memoryOk) : (s.slotsBad sid x cx).2.memoryOk := by
  unfold State.slotsBad
  grind [runEng_wf, egRead_ok]

theorem planExpert_wf (s : State) (sid : Nat) (r : Raw) (h : s.memoryOk) : (s.planExpert sid r).2.memoryOk := by
  unfold State.planExpert
  grind [readLcb_wf, slotsBad_wf]

@[simp] theorem noteLayer_mem (s : State) (sid pa x lcb : Nat) : (s.noteLayer sid pa x lcb).mem = s.mem := by
  unfold State.noteLayer
  grind [putLayer_mem]

theorem issueExpert_wf (s : State) (r : Raw) (h : s.memoryOk) : NextOk (s.issueExpert r) := by
  unfold State.issueExpert
  grind [issue_wf, enterPlan_wf, planExpert_wf, noteLayer_mem]

theorem commandJob_wf (s : State) (core : Nat) (e : CCmd) (h : s.memoryOk) : (s.commandJob core e).2.memoryOk := by
  unfold State.commandJob
  grind [runEng_wf, egRead_ok, noteBlock_mem]

theorem egCombine_ok (j : Job) (cx i : Nat) (row : List Byte) : RunOk (egCombine j cx i row) := by
  unfold egCombine
  grind [egRead_ok, egWrite_ok, egState_ok, egPutState_ok, egCheckDone_ok, runOk_bind]

theorem egBack_ok (j : Job) (cx i : Nat) : RunOk (egBack j cx i) := by
  unfold egBack
  grind [egRead_ok, runOk_bind, runOk_pure]

theorem egAdd_ok (j : Job) (cx i k word : Nat) : RunOk (egAdd j cx i k word) := by
  unfold egAdd
  refine runOk_bind _ _ (egRead_ok j _ 8) (fun tag => runOk_bind _ _ (egAfter_ok j _ 4 true) (fun _ => ?_))
  refine runOk_of_get _ (fun s h => ?_)
  have hr := atomicAt_wf s j.who ((lcbGin j.x + lcbIndex j.x (recToken tag) * lcbTb j.x + 4 * k) % 2 ^ 56) 4 needRW h
  split
  rename_i r t e
  rw [e] at hr
  refine runOk_at_set ?_ hr
  cases r <;> grind [runOk_bind, runOk_pure, runOk_get, runOk_throw, egRemote_ok, egAnswer_ok, egMod_ok, writeOf_wf]

theorem stepSlots_wf (s : State) (core : Nat) (j : Job) (e : CCmd) (h : s.memoryOk) :
    (s.stepSlots core j e).2.memoryOk := by
  unfold State.stepSlots
  grind [putCommand_mem, cmdSpad_mem, cmdPut_wf, stopCommand_wf, delivered_wf, runEng_wf, workFailed_wf, egCombine_ok,
    egBack_ok, egAdd_ok]

theorem runSlots_wf (s : State) (core fuel : Nat) (j : Job) (e : CCmd) (h : s.memoryOk) :
    (s.runSlots core fuel j e).memoryOk := by
  induction fuel generalizing s e with
  | zero => exact h
  | succ fuel ih =>
    unfold State.runSlots
    grind [stepSlots_wf]

@[simp] theorem startRecords_mem (s : State) (core : Nat) (j : Job) (e : CCmd) :
    (s.startRecords core j e).mem = s.mem := by
  unfold State.startRecords
  grind [putCommand_mem, enqueueWork_mem, pokeEngines_mem, forEach_mem]

theorem startExpert_wf (s : State) (core fuel : Nat) (e : CCmd) (h : s.memoryOk) :
    (s.startExpert core fuel e).memoryOk := by
  unfold State.startExpert
  grind [putCommand_mem, stopCommand_wf, returnTiles_wf, pokeEngines_mem, workFailed_wf, commandJob_wf, runSlots_wf,
    startRecords_mem]

theorem goCommand_wf (s : State) (core fuel ident : Nat) (h : s.memoryOk) :
    (s.goCommand core fuel ident).memoryOk := by
  unfold State.goCommand
  grind [pokeCopy_mem, startCopy_wf, startExpert_wf]

theorem execCopyCommandStart_wf (core ident : Nat) (s : State) (h : s.memoryOk) :
    NextOk (execCopyCommandStart core ident s) := by
  unfold execCopyCommandStart
  grind [goCommand_wf, NextOk]

/-! ### Memory: replay, RETT and the triage of faults -/

@[simp] theorem modMatrixAt_mem (s : State) (sid slot : Nat) (f : MEnt → MEnt) :
    (s.modMatrixAt sid slot f).mem = s.mem := rfl

theorem ctrAgain_wf (s : State) (sid slot : Nat) (e : LogEnt) (h : s.memoryOk) :
    (s.ctrAgain sid slot e).memoryOk := by
  unfold State.ctrAgain
  grind [push_mem, ctrEntry_wf]

theorem redo_wf (s : State) (sid slot : Nat) (h : s.memoryOk) : (s.redo sid slot).memoryOk := by
  unfold State.redo
  grind [launchEntry_wf, syncEntry_wf, cursorEntry_wf, pokeMatrix_mem, modMatrixAt_mem, ctrAgain_wf]

theorem reissue_wf (s : State) (sid slot : Nat) (h : s.memoryOk) : (s.reissue sid slot).memoryOk := by
  unfold State.reissue
  grind [putEntry_mem, redo_wf]

theorem dropMatrix_wf (s : State) (sid slot op : Nat) (h : s.memoryOk) : (s.dropMatrix sid slot op).memoryOk := by
  unfold State.dropMatrix
  grind [finishEntry_wf, completeMatrix_wf, modMatrixAt_mem]

theorem completeEntry_wf (s : State) (sid slot : Nat) (h : s.memoryOk) : (s.completeEntry sid slot).memoryOk := by
  unfold State.completeEntry
  grind [modStrand_mem, finishWait_mem, wakeTrap_mem, finishEntry_wf, settleEntry_wf, giveStatus_wf, cursorEntry_wf,
    dropMatrix_wf]

@[simp] theorem rearm_mem (s : State) (sid : Nat) : (s.rearm sid).mem = s.mem := by
  unfold State.rearm
  grind [setStrand_mem]

theorem afterFrame_wf (s : State) (sid : Nat) (replay : Bool) (h : s.memoryOk) :
    (s.afterFrame sid replay).memoryOk := by
  unfold State.afterFrame
  grind [setStrand_mem, reissue_wf, completeEntry_wf, rearm_mem]

theorem execRett_wf (o : W1Ops) (s : State) (h : s.memoryOk) : NextOk (execRett o s) := by
  unfold execRett
  grind [fault_wf, restoreFrame_wf, issue_wf, afterFrame_wf]

theorem resumeHeld_wf (s : State) (sid : Nat) (h : s.memoryOk) : (s.resumeHeld sid).2.memoryOk := by
  unfold State.resumeHeld
  grind [restoreFrame_wf, afterFrame_wf]

theorem execTrap_wf (o : IOps) (s : State) (h : s.memoryOk) : NextOk (execTrap o s) := by
  unfold execTrap
  grind [after_wf, issue_wf, done_mem]

theorem execDbg_wf (o : IOps) (s : State) (h : s.memoryOk) : NextOk (execDbg o s) := by
  unfold execDbg
  grind [after_wf, issue_wf, done_mem]

theorem execTrapEntry_wf (sid : Nat) (s : State) (h : s.memoryOk) : NextOk (execTrapEntry sid s) := by
  unfold execTrapEntry
  grind [enterTrap_wf, NextOk]

theorem fwEntry_wf (s : State) (act target value : Nat) (h : s.memoryOk) : (s.fwEntry act target value).memoryOk := by
  unfold State.fwEntry
  grind [setReg_mem, devWrite_wf]

theorem fnStore_wf (s : State) (host : Bool) (die : Nat) (p : Nat × DWord) (h : s.memoryOk) :
    (s.fnStore host die p).2.memoryOk := by
  unfold State.fnStore
  grind [noteBlocked_mem, homeWrite_wf, fwEntry_wf]

theorem fnStores_wf (s : State) (host : Bool) (die : Nat) (ws : List (Nat × DWord)) (h : s.memoryOk) :
    (s.fnStores host die ws).2.memoryOk := by
  induction ws generalizing s with
  | nil => exact h
  | cons p rest ih =>
    unfold State.fnStores
    grind [fnStore_wf]

theorem repair_wf (s : State) (who : FaultOf) (ws : List (Nat × DWord)) (h : s.memoryOk) :
    (s.repair who ws).memoryOk := by
  unfold State.repair
  grind [park_mem, putEntry_mem, copyRepaired_mem, redo_wf, fnStores_wf]

theorem giveFaults_wf (s : State) (sid : Nat) (ts : BitVec 64) (accs : List Acc) (h : s.memoryOk) :
    (s.giveFaults sid ts accs).2.memoryOk := by
  induction accs generalizing s with
  | nil => exact h
  | cons a rest ih =>
    unfold State.giveFaults
    grind [migrating_wf]

theorem execTriageReturn_wf (who : FaultOf) (s : State) (h : s.memoryOk) : NextOk (execTriageReturn who s) := by
  unfold execTriageReturn
  split
  · split
    · grind [NextOk, giveFaults_wf, putEntry_mem, entryFailed_wf, fillGone_mem, push_mem]
    · grind [NextOk]
  · grind [NextOk, copyReturned_wf]

theorem feedHeap_wf (s : State) (pa : Nat) (h : s.memoryOk) : (s.feedHeap pa).memoryOk := by
  unfold State.feedHeap
  grind [putEntry_mem, redo_wf, forEach_wf]

theorem starve_wf (s : State) (sid slot : Nat) (e : LogEnt) (heap : Option Nat) (h : s.memoryOk) :
    (s.starve sid slot e heap).memoryOk := by
  unfold State.starve
  grind [putEntry_mem, entryFailed_wf]

theorem growHeap_wf (s : State) (sid slot blocks : Nat) (ws : List (Nat × DWord)) (h : s.memoryOk) :
    (s.growHeap sid slot blocks ws).memoryOk := by
  unfold State.growHeap
  split
  · exact h
  · split
    · exact h
    · split_ifs
      · exact h
      · split
        · exact starve_wf _ _ _ _ _ h
        · grind [starve_wf, ctrLeave_mem, fnStores_wf, park_mem, ctrTurn_wf, noteBlocked_mem, fwEntry_wf,
          extendCtr_wf, setRegion_mem, rcbPut_wf, feedHeap_wf]

/-! ### Memory: regions and contexts -/

theorem execCohortPlacement_wf (die : Nat) (s : State) (h : s.memoryOk) : NextOk (execCohortPlacement die s) := by
  unfold execCohortPlacement
  grind [push_mem, placeTile_wf, NextOk]

theorem execAgeingStep_wf (rid : Nat) (s : State) (h : s.memoryOk) : NextOk (execAgeingStep rid s) := by
  unfold execAgeingStep
  grind [setRegion_mem, nextSeq_mem, pushPlacement_mem, NextOk]

theorem drainDone_wf (s : State) (rid : Nat) (h : s.memoryOk) : (s.drainDone rid).memoryOk := by
  unfold State.drainDone
  grind [setRegion_mem, settle_wf, returnRegionAllows_mem]

theorem execShutterExpiry_wf (rid : Nat) (s : State) (h : s.memoryOk) : NextOk (execShutterExpiry rid s) := by
  unfold execShutterExpiry
  grind [setRegion_mem, terminate_wf, drainDone_wf, NextOk]

theorem preempt_wf (s : State) (rid : Nat) (h : s.memoryOk) : (s.preempt rid).memoryOk := by
  unfold State.preempt
  grind [setRegion_mem, rcbPut_wf, regionCheck_wf, drainDone_wf]

@[simp] theorem windowCode_mem (s : State) (page code : Nat) : (s.windowCode page code).mem = s.mem := rfl

theorem launchFrom_wf (s : State) (page rcb : Nat) (h : s.memoryOk) : (s.launchFrom page rcb).2.memoryOk := by
  unfold State.launchFrom
  grind [readRcb_wf, enqueue_wf]

theorem resumeRegion_wf (s : State) (rid : Nat) (h : s.memoryOk) : (s.resumeRegion rid).2.memoryOk := by
  unfold State.resumeRegion
  grind [forEach_snd_wf, resumeHeld_wf]

theorem regionCmd_wf (s : State) (cmd rid : Nat) (h : s.memoryOk) : (s.regionCmd cmd rid).2.memoryOk := by
  unfold State.regionCmd
  grind [terminate_wf, preempt_wf, resumeRegion_wf]

theorem windowApply_wf (s : State) (page cmd rcb : Nat) (h : s.memoryOk) : (s.windowApply page cmd rcb).memoryOk := by
  unfold State.windowApply
  grind [park_mem, windowCode_mem, launchFrom_wf, regionCmd_wf]

theorem windowWrite_wf (s : State) (page cmd rcb : Nat) (h : s.memoryOk) : (s.windowWrite page cmd rcb).memoryOk := by
  unfold State.windowWrite
  grind [windowApply_wf]

theorem flushAsid_wf (s : State) (asid : Nat) (h : s.memoryOk) : (s.flushAsid asid).2.memoryOk := by
  unfold State.flushAsid
  grind [forEach_snd_wf, writeBack_wf, dropCopies_mem]

@[simp] theorem dropTlbs_mem (s : State) (keep : Tlb → Bool) (dies : List Nat) :
    (s.dropTlbs keep dies).mem = s.mem := rfl

@[simp] theorem dropPins_mem (s : State) (asid : Nat) : (s.dropPins asid).mem = s.mem := rfl

theorem killContext_wf (s : State) (asid : Nat) (h : s.memoryOk) : (s.killContext asid).memoryOk := by
  unfold State.killContext
  grind [park_mem, devPut_wf, noteDev_mem, returnAllows_mem, settle_wf, terminate_wf, flushAsid_wf, dropTlbs_mem,
    dropPins_mem, forEach_wf]

/-! ### Memory: registers -/

@[simp] theorem cvWrite_mem (s : State) (rid n x : Nat) : (s.cvWrite rid n x).mem = s.mem := by
  unfold State.cvWrite
  grind [setCvRec_mem]

@[simp] theorem csrWrite_mem (s : State) (sid n x : Nat) : (s.csrWrite sid n x).mem = s.mem := by
  unfold State.csrWrite
  grind [modStrand_mem, cvWrite_mem]

@[simp] theorem hbmRead_mem (s : State) (stack : Nat) : (s.hbmRead stack).2.mem = s.mem := rfl

@[simp] theorem privTake_mem (s : State) (who : Writer) (n : Nat) : (s.privTake who n).2.mem = s.mem := by
  unfold State.privTake
  grind [hbmRead_mem]

@[simp] theorem minjSet_mem (s : State) (who : Writer) (x : Nat) : (s.minjSet who x).mem = s.mem := rfl

@[simp] theorem modeselSet_mem (s : State) (who : Writer) (x : Nat) : (s.modeselSet who x).mem = s.mem := by
  unfold State.modeselSet
  grind [setReg_mem]

@[simp] theorem budgetSet_mem (s : State) (x : Nat) : (s.budgetSet x).mem = s.mem := rfl

@[simp] theorem vsetSet_mem (s : State) (x : Nat) : (s.vsetSet x).mem = s.mem := rfl

@[simp] theorem leaselenSet_mem (s : State) (x : Nat) : (s.leaselenSet x).mem = s.mem := rfl

@[simp] theorem dtsetSet_mem (s : State) (x : Nat) : (s.dtsetSet x).mem = s.mem := by
  unfold State.dtsetSet
  grind [setReg_mem]

@[simp] theorem nonceSet_mem (s : State) (word x : Nat) : (s.nonceSet word x).mem = s.mem := by
  unfold State.nonceSet
  grind [setReg_mem]

theorem ctxkillSet_wf (s : State) (x : Nat) (h : s.memoryOk) : (s.ctxkillSet x).memoryOk := by
  unfold State.ctxkillSet
  grind [setReg_mem, killContext_wf]

/-- One register after another: only CTXKILL can reach memory. -/
theorem privWrite_wf (s : State) (who : Writer) (n x : Nat) (h : s.memoryOk) : (s.privWrite who n x).memoryOk := by
  have keep {t : State} (e : t.mem = s.mem) : t.memoryOk := memoryOk_of_mem e h
  unfold State.privWrite
  refine ite_wf h <| ite_wf (ctxkillSet_wf s x h) <| ite_wf (keep (minjSet_mem s who x)) ?_
  refine ite_wf (by split <;> exact h) <| ite_wf (by split <;> exact h) <| ite_wf (keep (leaselenSet_mem s x)) ?_
  refine ite_wf h <| ite_wf h <| ite_wf (keep (dtsetSet_mem s x)) <| ite_wf (keep (budgetSet_mem s x)) ?_
  refine ite_wf (keep (vsetSet_mem s x)) <| ite_wf (keep (modeselSet_mem s who x)) <| ite_wf h <| ite_wf h ?_
  exact ite_wf (keep (nonceSet_mem s _ x)) h

/-! ### Memory: CSRs and invalidation -/

theorem execCsrr_wf (o : SOps) (s : State) (h : s.memoryOk) : NextOk (execCsrr o s) := by
  unfold execCsrr
  grind [modStrand_mem, push_mem, precise_wf, issue_wf, privTake_mem]

theorem execCsrw_wf (o : SOps) (s : State) (h : s.memoryOk) : NextOk (execCsrw o s) := by
  unfold execCsrw
  grind [precise_wf, issue_wf, done_mem, csrWrite_mem, privWrite_wf]

@[simp] theorem llcReturn_mem (s : State) (sid dst x : Nat) : (s.llcReturn sid dst x).mem = s.mem := rfl

theorem execLlcProbe_wf (sid dst : Nat) (s : State) (h : s.memoryOk) : NextOk (execLlcProbe sid dst s) := by
  unfold execLlcProbe
  grind [push_mem, noteWts_mem, llcReturn_mem, NextOk]

theorem execLlcCounterRead_wf (sid csr dst : Nat) (s : State) (h : s.memoryOk) :
    NextOk (execLlcCounterRead sid csr dst s) := by
  unfold execLlcCounterRead
  grind [modStrand_mem, push_mem, llcReturn_mem, NextOk]

theorem leavesFrom_wf (s : State) (v : Inval) (level table base fuel : Nat) (h : s.memoryOk) :
    (s.leavesFrom v level table base fuel).2.memoryOk := by
  induction fuel generalizing s level table base with
  | zero => exact h
  | succ fuel ih =>
    unfold State.leavesFrom
    grind [forEach_wf, forEach_snd_wf, llcRead_wf]

theorem currentLeaves_wf (s : State) (v : Inval) (h : s.memoryOk) : (s.currentLeaves v).2.memoryOk := by
  unfold State.currentLeaves
  grind [rootOf_wf, leavesFrom_wf]

theorem flushLines_wf (s : State) (core : Nat) (hit : Nat → Nat → Nat → Bool) (h : s.memoryOk) :
    (s.flushLines core hit).2.memoryOk := by
  unfold State.flushLines
  grind [forEach_snd_wf, writeBack_wf, dropCopies_mem, modCore_mem]

theorem resubmit_wf (s : State) (v : Inval) (pages : List Tlb) (h : s.memoryOk) : (s.resubmit v pages).memoryOk := by
  unfold State.resubmit
  grind [copyRepaired_mem, repair_wf, forEach_wf]

@[simp] theorem putRun_mem (s : State) (w : Who) (v : Inval) (r : Option InvalRun) :
    (s.putRun w v r).mem = s.mem := rfl

theorem askPages_wf (s : State) (w : Who) (r : InvalRun) (fuel : Nat) (h : s.memoryOk) :
    (s.askPages w r fuel).2.memoryOk := by
  induction fuel generalizing s r with
  | zero => exact h
  | succ fuel ih =>
    unfold State.askPages
    grind [translate_wf, putRun_mem]

theorem sweepPages_wf (s : State) (v : Inval) (dies : List Nat) (pages : List Tlb) (h : s.memoryOk) :
    (s.sweepPages v dies pages).2.memoryOk := by
  unfold State.sweepPages
  grind [forEach_snd_wf, flushLines_wf, dropTlbs_mem]

theorem hostLeaves_wf (s : State) (w : Who) (v : Inval) (dies : List Nat) (h : s.memoryOk) :
    (s.hostLeaves w v dies).2.memoryOk := by
  unfold State.hostLeaves
  grind [currentLeaves_wf, putRun_mem, askPages_wf, sweepPages_wf]

theorem invalidate_wf (s : State) (w : Who) (v : Inval) (dies : List Nat) (h : s.memoryOk) :
    (s.invalidate w v dies).2.memoryOk := by
  unfold State.invalidate
  grind [resubmit_wf, putRun_mem, sweepPages_wf, hostLeaves_wf]

theorem runTlbinv_wf (s : State) (r : Raw) (kind : Nat) (h : s.memoryOk) : NextOk (s.runTlbinv r kind) := by
  unfold State.runTlbinv
  grind [modStrand_mem, again_mem, fault_wf, issue_wf, performCore_wf, invalidate_wf]

theorem hostInval_wf (s : State) (sel asid base len : Nat) (h : s.memoryOk) :
    (s.hostInval sel asid base len).memoryOk := by
  unfold State.hostInval
  grind [park_mem, invalidate_wf]

theorem execIcinv_wf (o : SOps) (s : State) (h : s.memoryOk) : NextOk (execIcinv o s) := by
  unfold execIcinv
  grind [modStrand_mem, modCore_mem, again_mem, issue_wf, performCore_wf, forEach_wf]

theorem execMark_wf (o : SOps) (s : State) (h : s.memoryOk) : NextOk (execMark o s) := by
  unfold execMark
  grind [nextSeq_mem, negative_wf, issue_wf, done_mem]

/-! ### Memory: events of cores, homes and the host -/

theorem execSwapOut_wf (sid : Nat) (s : State) (h : s.memoryOk) : NextOk (execSwapOut sid s) := by
  unfold execSwapOut
  grind [modStrand_mem, noteBlocked_mem, access_wf, endLease_mem, pushPlacement_mem, terminate_wf, joinLease_wf,
    spill_wf, forEach_wf, NextOk]

theorem execStrandRestore_wf (sid : Nat) (s : State) (h : s.memoryOk) : NextOk (execStrandRestore sid s) := by
  unfold execStrandRestore
  grind [setStrand_mem, wake_mem, joinWake_mem, NextOk]

theorem execPageWalk_wf (die asid vpage : Nat) (s : State) (h : s.memoryOk) :
    NextOk (execPageWalk die asid vpage s) := by
  unfold execPageWalk
  grind [walk_wf, enterLeaf_mem, NextOk]

theorem execHostTranslationAnswer_wf (die asid vpage : Nat) (leaf : Option (DWord × Nat)) (s : State)
    (h : s.memoryOk) : NextOk (execHostTranslationAnswer die asid vpage leaf s) := by
  unfold execHostTranslationAnswer
  grind [enterLeaf_mem, forEach_mem, NextOk]

theorem bring_wf (s : State) (core cache asid vline : Nat) (p : Nat → Bool) (h : s.memoryOk) :
    (s.bring core cache asid vline p).memoryOk := by
  unfold State.bring
  grind [access_wf, ensure_wf]

theorem execLtTick_wf (core : Nat) (s : State) (h : s.memoryOk) : NextOk (execLtTick core s) := by
  unfold execLtTick
  grind [setCore_mem, push_mem, NextOk]

theorem flipBack_wf (s : State) (core : Nat) (h : s.memoryOk) : (s.flipBack core).2.memoryOk := by
  unfold State.flipBack
  grind [forEach_snd_wf, noteBlocked_mem, sift_mem, setCopy_mem, homeWrite_wf, writeBack_wf]

@[simp] theorem newEpoch_mem (s : State) : s.newEpoch.mem = s.mem := rfl

theorem execEpochFlip_wf (s : State) (h : s.memoryOk) : NextOk (execEpochFlip s) := by
  unfold execEpochFlip
  grind [NextOk, forEach_snd_wf, flipBack_wf, newEpoch_mem, flushDev_wf]

theorem execSafelightEntry_wf (core : Nat) (s : State) (h : s.memoryOk) : NextOk (execSafelightEntry core s) := by
  unfold execSafelightEntry
  grind [modCore_mem, NextOk]

theorem execHoldingEndMessage_wf (core line ver : Nat) (bytes : List (Nat × Byte)) (s : State) (h : s.memoryOk) :
    NextOk (execHoldingEndMessage core line ver bytes s) := by
  unfold execHoldingEndMessage
  grind [push_mem, noteBlocked_mem, homeWrite_wf, setCopy_mem, sift_mem, flushDev_wf, bumpVer_mem, NextOk]

theorem snoop_wf (s : State) (line : Nat) (h : s.memoryOk) : (s.snoop line).memoryOk := by
  unfold State.snoop
  grind [homeWrite_wf, setCopy_mem, dropCopies_mem, forEach_wf]

theorem execHostSnoop_wf (line : Nat) (s : State) (h : s.memoryOk) : NextOk (execHostSnoop line s) := by
  unfold execHostSnoop
  grind [snoop_wf, NextOk]

@[simp] theorem enterFilter_mem (s : State) (line : Nat) : (s.enterFilter line).2.mem = s.mem := by
  unfold State.enterFilter
  grind

theorem hostLoad_wf (s : State) (addr len : Nat) (h : s.memoryOk) : (s.hostLoad addr len).memoryOk := by
  unfold State.hostLoad
  grind [park_mem, llcRead_wf, errorRecord_wf, enterFilter_mem, forEach_wf]

theorem hostStore_wf (s : State) (addr : Nat) (bytes : List Byte) (h : s.memoryOk) :
    (s.hostStore addr bytes).memoryOk := by
  unfold State.hostStore
  grind [push_mem, park_mem, homeWrite_wf, snoop_wf, forEach_wf]

theorem execHostGoReceipt_wf (s : State) (h : s.memoryOk) : NextOk (execHostGoReceipt s) := by
  unfold execHostGoReceipt
  grind [push_mem, homeWrite_wf, flushDev_wf, NextOk]

theorem hostReply_wf (s : State) (line : Nat) (bytes : List (Nat × Byte)) (h : s.memoryOk) :
    (s.hostReply line bytes).memoryOk := by
  unfold State.hostReply
  grind [push_mem, park_mem, homeWrite_wf, flushDev_wf]

theorem execMgmtWindowAccess_wf (die csr : Nat) (write : Option DWord) (s : State) (h : s.memoryOk) :
    NextOk (execMgmtWindowAccess die csr write s) := by
  unfold execMgmtWindowAccess
  grind [privTake_mem, privWrite_wf, NextOk]

/-! ### Memory: flits and rebuilds -/

@[simp] theorem sendLink_mem (s : State) (i kind peer : Nat) : (s.sendLink i kind peer).mem = s.mem := rfl

@[simp] theorem sendNak_mem (s : State) (i peer : Nat) : (s.sendNak i peer).mem = s.mem := by
  unfold State.sendNak
  grind [push_mem, setPort_mem, sendLink_mem]

@[simp] theorem acked_mem (s : State) (i ack : Nat) : (s.acked i ack).mem = s.mem := by
  unfold State.acked
  grind [setPort_mem, flushOut_mem]

@[simp] theorem takeAck_mem (s : State) (f : Flit) : (s.takeAck f).mem = s.mem := by
  unfold State.takeAck
  split_ifs
  · rfl
  · exact acked_mem s f.port f.ack

@[simp] theorem receive_mem (s : State) (f : Flit) : (s.receive f).2.mem = s.mem := by
  unfold State.receive
  grind [setPort_mem, sendLink_mem, sendNak_mem, takeAck_mem]

theorem passUp_wf (s : State) (f : Flit) (kind : Nat) (act : State → State) (ha : ∀ x, x.memoryOk →
    (act x).memoryOk) (h : s.memoryOk) : (s.passUp f kind act).memoryOk := by
  unfold State.passUp
  grind [receive_mem]

@[simp] theorem complete_mem (s : State) (f : Flit) (failed : Bool) (bs : List Byte) :
    (s.complete f failed bs).mem = s.mem := by
  unfold State.complete
  grind [sendFlit_mem]

theorem peerRead_wf (s : State) (f : Flit) (h : s.memoryOk) : (s.peerRead f).memoryOk := by
  unfold State.peerRead
  grind [park_mem, llcRead_wf, errorRecord_wf, complete_mem, forEach_wf]

theorem peerAtomic_wf (s : State) (f : Flit) (h : s.memoryOk) : (s.peerAtomic f).memoryOk := by
  unfold State.peerAtomic
  grind [park_mem, llcRead_wf, noteBlocked_mem, homeWrite_wf, errorRecord_wf, complete_mem]

theorem peerWrite_wf (s : State) (f : Flit) (h : s.memoryOk) : (s.peerWrite f).memoryOk := by
  unfold State.peerWrite
  grind [park_mem, noteBlocked_mem, homeWrite_wf, complete_mem, peerAtomic_wf, forEach_wf]

theorem peerNoted_wf (s : State) (q : PeerReq) (e : LogEnt) (a : Acc) (x : Nat) (h : s.memoryOk) :
    (s.peerNoted q e a x).memoryOk := by
  unfold State.peerNoted
  grind [noteTime_mem, negativeAt_wf]

theorem peerAnswer_wf (s : State) (q : PeerReq) (failed : Bool) (x : Nat) (h : s.memoryOk) :
    (s.peerAnswer q failed x).memoryOk := by
  unfold State.peerAnswer
  grind [putEntry_mem, failed_wf, entryFailed_wf, redo_wf, peerNoted_wf]

theorem peerFills_wf (s : State) (core ident : Nat) (failed : Bool) (bs : List Byte) (h : s.memoryOk) :
    (s.peerFills core ident failed bs).memoryOk := by
  unfold State.peerFills
  grind [modCore_mem, push_mem, fillHeld_wf]

@[simp] theorem peerTold_mem (s : State) (key : Nat) (failed : Bool) (bs : List Byte) :
    (s.peerTold key failed bs).mem = s.mem := rfl

theorem peerServes_wf (s : State) (core ident : Nat) (failed : Bool) (bs : List Byte) (h : s.memoryOk) :
    (s.peerServes core ident failed bs).memoryOk := by
  unfold State.peerServes
  grind [push_mem, putCommand_mem, cmdFault_mem, peerFills_wf, peerTold_mem]

theorem peerDone_wf (s : State) (f : Flit) (h : s.memoryOk) : (s.peerDone f).memoryOk := by
  unfold State.peerDone
  grind [push_mem, peerAnswer_wf, peerTold_mem, peerServes_wf]

@[simp] theorem peerContributes_mem (s : State) (f : Flit) : (s.peerContributes f).mem = s.mem := by
  unfold State.peerContributes
  grind [contribute_mem]

theorem csigAdd_wf (s : State) (x lo hi : Nat) (h : s.memoryOk) : (s.csigAdd x lo hi).memoryOk := by
  unfold State.csigAdd
  grind [homeWriteFrom_wf]

@[simp] theorem dropLine_mem (s : State) (g w line : Nat) : (s.dropLine g w line).mem = s.mem := rfl

theorem deliver_wf (s : State) (f : Flit) (h : s.memoryOk) : (s.deliver f).memoryOk := by
  unfold State.deliver
  grind [park_mem, noteBlocked_mem, homeWrite_wf, csigAdd_wf, dropLine_mem, forEach_wf]

theorem execFlitDelivery_wf (f : Flit) (s : State) (h : s.memoryOk) : NextOk (execFlitDelivery f s) := by
  unfold execFlitDelivery
  grind [passUp_wf, deliver_wf, NextOk]

theorem flitAgain_wf (s : State) (f : Flit) (h : s.memoryOk) : (s.flitAgain f).memoryOk := by
  unfold State.flitAgain
  grind [peerRead_wf, peerWrite_wf, deliver_wf]

@[simp] theorem resend_mem (s : State) (x : Nat) (l : McrLine) : (s.resend x l).mem = s.mem := by
  unfold State.resend
  grind [sendFlit_mem, forEach_mem]

theorem rebuild_wf (s : State) (g rank : Nat) (h : s.memoryOk) : (s.rebuild g rank).2.memoryOk := by
  unfold State.rebuild
  grind [vector_mem, noteBlocked_mem, homeWrite_wf, putLine_mem, csigAdd_wf, resend_mem, forEach_wf]

theorem rebuildOrWait_wf (s : State) (g rank : Nat) (h : s.memoryOk) : (s.rebuildOrWait g rank).memoryOk := by
  unfold State.rebuildOrWait
  grind [rebuild_wf]

theorem execMemberFailure_wf (peer : Nat) (s : State) (h : s.memoryOk) : NextOk (execMemberFailure peer s) := by
  unfold execMemberFailure
  grind [rebuildOrWait_wf, forEach_wf, NextOk]

theorem execRebuildSpacingEnd_wf (g : Nat) (s : State) (h : s.memoryOk) : NextOk (execRebuildSpacingEnd g s) := by
  unfold execRebuildSpacingEnd
  grind [rebuildOrWait_wf, NextOk]

@[simp] theorem replay_mem (s : State) (i : Nat) : (s.replay i).mem = s.mem := rfl

theorem execPortRetrain_wf (port : Nat) (s : State) (h : s.memoryOk) : NextOk (execPortRetrain port s) := by
  unfold execPortRetrain
  grind [lifeAdd_mem, setPort_mem, replay_mem, NextOk]

@[simp] theorem ptpDecide_mem (s : State) : s.ptpDecide.mem = s.mem := by
  unfold State.ptpDecide
  grind [vector_mem, setReg_mem, setPort_mem, forEach_mem]

@[simp] theorem ptpSend_mem (s : State) (i type : Nat) (body : List Byte) : (s.ptpSend i type body).mem = s.mem := by
  unfold State.ptpSend
  grind [sendOn_mem]

@[simp] theorem correct_mem (s : State) (ofs : Int) : (s.correct ofs).mem = s.mem := by
  unfold State.correct
  grind

@[simp] theorem ptpTake_mem (s : State) (f : Flit) : (s.ptpTake f).mem = s.mem := by
  unfold State.ptpTake
  grind [setReg_mem, setPort_mem, ptpDecide_mem, ptpSend_mem, correct_mem]

theorem execPtpMessageTimer_wf (port kind : Nat) (s : State) (h : s.memoryOk) :
    NextOk (execPtpMessageTimer port kind s) := by
  unfold execPtpMessageTimer
  grind [vector_mem, setPort_mem, ptpDecide_mem, ptpSend_mem, NextOk]

/-! ### Memory: upsets, firmware and the package -/

@[simp] theorem poisonHalf_mem (s : State) (half : Nat) : (s.poisonHalf half).mem = s.mem := by
  unfold State.poisonHalf
  grind

@[simp] theorem hbmNote_mem (s : State) (stack : Nat) (f : Nat → Nat) : (s.hbmNote stack f).mem = s.mem := rfl

theorem hbmUpset_wf (s : State) (half : Nat) (h : s.memoryOk) : (s.hbmUpset half).memoryOk := by
  unfold State.hbmUpset
  grind [lifeAdd_mem, errorRecord_wf, poisonHalf_mem, hbmNote_mem]

theorem llcUpset_wf (s : State) (half : Nat) (h : s.memoryOk) : (s.llcUpset half).memoryOk := by
  unfold State.llcUpset
  grind [lifeAdd_mem, errorRecord_wf, poisonHalf_mem]

theorem cacheUpset_wf (s : State) (core half : Nat) (h : s.memoryOk) : (s.cacheUpset core half).memoryOk := by
  unfold State.cacheUpset
  grind [lifeAdd_mem, homeWrite_wf, setCopy_mem, dropCopies_mem, errorRecord_wf, poisonHalf_mem]

theorem icacheUpset_wf (s : State) (core line : Nat) (h : s.memoryOk) : (s.icacheUpset core line).memoryOk := by
  unfold State.icacheUpset
  grind [modCore_mem, lifeAdd_mem, errorRecord_wf]

theorem upset_wf (s : State) (u : Upset) (h : s.memoryOk) : (s.upset u).memoryOk := by
  unfold State.upset
  grind [modStrand_mem, setCohort_mem, modCore_mem, lifeAdd_mem, setTag_mem, hbmUpset_wf, llcUpset_wf, cacheUpset_wf,
    icacheUpset_wf]

@[simp] theorem corrected_mem (s : State) (stack half : Nat) : (s.corrected stack half).mem = s.mem := by
  unfold State.corrected
  grind [lifeAdd_mem, hbmNote_mem]

theorem execHbmPatrolScrub_wf (stack : Nat) (bad : List (Nat × Bool)) (s : State) (h : s.memoryOk) :
    NextOk (execHbmPatrolScrub stack bad s) := by
  unfold execHbmPatrolScrub
  grind [hbmUpset_wf, corrected_mem, forEach_wf, NextOk]

theorem topupRead_wf (s : State) (die target : Nat) (h : s.memoryOk) : (s.topupRead die target).2.memoryOk := by
  unfold State.topupRead
  grind [noteBlocked_mem, ctrTurn_wf, ctrLeave_mem, serveExact_wf]

theorem fwStore_wf (s : State) (pa x : Nat) (h : s.memoryOk) : (s.fwStore pa x).memoryOk := by
  unfold State.fwStore
  grind [devWrite_wf, forEach_wf]

theorem fwDo_wf (s : State) (die : Nat) (a : FwAct) (h : s.memoryOk) : (s.fwDo die a).2.memoryOk := by
  unfold State.fwDo
  grind [nextId_mem, ctrAct_wf, fwEntry_wf, privWrite_wf, topupRead_wf, fwStore_wf]

theorem fwRun_wf (s : State) (die fuel : Nat) (a : FwAct) (h : s.memoryOk) : (s.fwRun die fuel a).2.memoryOk := by
  induction fuel generalizing s a with
  | zero => exact h
  | succ fuel ih =>
    unfold State.fwRun
    grind [fwDo_wf]

theorem fwAct_wf (s : State) (die : Nat) (a : FwAct) (h : s.memoryOk) : (s.fwAct die a).memoryOk := by
  unfold State.fwAct
  grind [fwRun_wf]

theorem fwFlush_wf (s : State) (h : s.memoryOk) : s.fwFlush.memoryOk := by
  unfold State.fwFlush
  grind [fwAct_wf, forEach_wf]

theorem counterBy_wf (s : State) (die : Option Nat) (pa : Nat) (op : CtrOp) (h : s.memoryOk) :
    (s.counterBy die pa op).memoryOk := by
  unfold State.counterBy
  grind [nextId_mem, ctrActs_wf, fwAct_wf]

theorem execUzoipDiscardedAccess_wf (die : Nat) (access : FwAccess) (s : State) (h : s.memoryOk) :
    NextOk (execUzoipDiscardedAccess die access s) := by
  unfold execUzoipDiscardedAccess
  grind [fwStore_wf, fwAct_wf, NextOk]

theorem regWrite_wf (s : State) (who : Writer) (n x : Nat) (h : s.memoryOk) : (s.regWrite who n x).memoryOk := by
  unfold State.regWrite
  grind [privWrite_wf, fwAct_wf]

theorem topupAgain_wf (s : State) (die target : Nat) (h : s.memoryOk) : (s.topupAgain die target).memoryOk := by
  unfold State.topupAgain
  grind [park_mem, topupRead_wf, counterBy_wf]

theorem topup_wf (s : State) (t0 t1 : Nat) (h : s.memoryOk) : (s.topup t0 t1).memoryOk := by
  unfold State.topup
  grind [vector_mem, fwAct_wf, topupAgain_wf]

theorem execPowerTopup_wf (target0 target1 : Nat) (s : State) (h : s.memoryOk) :
    NextOk (execPowerTopup target0 target1 s) := by
  unfold execPowerTopup
  grind [topup_wf, NextOk]

theorem execWsRefreshWindow_wf (_bank : Nat) (opens : Bool) (s : State) (h : s.memoryOk) :
    NextOk (execWsRefreshWindow _bank opens s) := by
  unfold execWsRefreshWindow
  grind [pokeMatrix_mem, pokeCopy_mem, forEach_mem, NextOk]

theorem execLifetimeRecord_wf (s : State) (h : s.memoryOk) : NextOk (execLifetimeRecord s) := by
  unfold execLifetimeRecord
  grind [freeVal_mem, lifeAdd_mem, NextOk]

theorem execLossOfPower_wf (s : State) (h : s.memoryOk) : NextOk (execLossOfPower s) := by
  unfold execLossOfPower
  grind [NextOk]

theorem execThermalTrip_wf (s : State) (h : s.memoryOk) : NextOk (execThermalTrip s) := by
  unfold execThermalTrip
  grind [lifeAdd_mem, NextOk]

theorem execDeviceReset_wf (imageOk : Bool) (retire : List (Nat × Nat)) (s : State) (h : s.memoryOk) :
    NextOk (execDeviceReset imageOk retire s) := by
  rintro _ ⟨rfl⟩
  refine hbmOnly_wf _ ?_
  split
  · simpa using h
  · simpa using h

theorem execAttestationReport_wf (s : State) (h : s.memoryOk) : NextOk (execAttestationReport s) := by
  unfold execAttestationReport
  grind [freeBytes_mem, NextOk]

theorem execContactSheet_wf (s : State) (h : s.memoryOk) : NextOk (execContactSheet s) := by
  unfold execContactSheet
  grind [setRegion_mem, regionCheck_wf, forEach_wf, NextOk]

theorem sheetRead_wf (s : State) (rid : Nat) (l : List (Nat × Nat)) (acc : List Byte) (h : s.memoryOk) :
    (s.sheetRead rid l acc).2.memoryOk := by
  induction l generalizing s acc with
  | nil => exact h
  | cons p t ih =>
    unfold State.sheetRead
    grind [devRead_wf]

theorem sheetBody_wf (s : State) (rid : Nat) (l : List (Nat × Nat)) (acc : List Byte) (h : s.memoryOk) :
    (s.sheetBody rid l acc).2.memoryOk := by
  induction l generalizing s acc with
  | nil => exact h
  | cons p t ih =>
    unfold State.sheetBody
    grind [sheetRead_wf, errorRecord_wf]

theorem sheetEnd_wf (s : State) (rid : Nat) (taken : Nat) (h : s.memoryOk) : (s.sheetEnd rid taken).memoryOk := by
  unfold State.sheetEnd
  grind [setRegion_mem, pushPlacement_mem, regionCheck_wf]

theorem execContactSheetWrite_wf (rid : Nat) (s : State) (h : s.memoryOk) : NextOk (execContactSheetWrite rid s) := by
  unfold execContactSheetWrite
  grind [setRegion_mem, setReg_mem, devPut_wf, devFree_mem, errorRecord_wf, returnRegionAllows_mem, sheetBody_wf,
    sheetEnd_wf, NextOk]

/-! ### Memory: an instruction or an event -/

/-- Whatever is run: each instruction and each event, by the law of the function that gives it its meaning. -/
theorem exec_wf (i : Instr) (s : State) (h : s.memoryOk) : NextOk (exec i s) := by
  unfold exec
  cases i with
  | nop _ => exact issueStrand_wf _ _ _ h
  | braW1b _ | bra _ | brx _ | callW1b _ | call _ | callx _ | ret _ => exact branch_wf _ _ h
  | brc _ => exact execBrc_wf _ s h
  | loop _ => exact execLoop_wf _ s h
  | exit _ => exact issue_wf _ _ _ h (endThreads_wf _ _ h)
  | yield _ => exact execYield_wf _ s h
  | yieldTimeout _ => exact execYieldTimeout_wf _ s h
  | spawn _ => exact execSpawn_wf _ s h
  | spawnBinTimer _ _ => exact execSpawnBinTimer_wf _ _ s h
  | spawnResidency _ _ => exact execSpawnResidency_wf _ _ s h
  | launch _ => exact execLaunch_wf _ s h
  | join _ => exact execJoin_wf _ s h
  | joinTimeout _ => exact execJoinTimeout_wf _ s h
  | trap _ => exact execTrap_wf _ s h
  | rett _ => exact execRett_wf _ s h
  | dbg _ => exact execDbg_wf _ s h
  | addW1a _ | add _ | subW1a _ | sub _ | mulW1a _ | mul _ | mulhW1a _ | mulh _ | madW1a _ | mad _ | minW1a _
  | minOp _ | maxW1a _ | maxOp _ | absW1a _ | absOp _ | andW1a _ | andOp _ | orW1a _ | orOp _ | xorW1a _
  | xorOp _ | andnW1a _ | andn _ | shlW1a _ | shl _ | shrW1a _ | shr _ | sarW1a _ | sar _ | rolW1a _ | rol _
  | popcW1a _ | popc _ | clzW1a _ | clz _ | brevW1a _ | brev _ | bfxW1a _ | bfx _ | bfiW1a _ | bfi _ | permW1a _
  | perm _ =>
    exact runAlu_wf _ _ h
  | divW1a _ | divOp _ | remW1a _ | remOp _ => exact runDiv_wf _ _ _ h
  | divisionComplete _ _ | transcendentalComplete _ _ => exact arrival_wf _ _ _ _ h
  | lea _ => exact execLea_wf _ s h
  | cmp _ => exact execCmp_wf _ s h
  | sel _ => exact execSel_wf _ s h
  | movW1a _ | mov _ => exact runMov_wf _ _ h
  | moviW1i _ => exact execMoviW1i_wf _ s h
  | movi _ => exact execMovi_wf _ s h
  | movsW1a _ | movs _ => exact runMovs_wf _ _ h
  | csrr _ => exact execCsrr_wf _ s h
  | csrw _ => exact execCsrw_wf _ s h
  | faddW1a _ | fadd _ | fsubW1a _ | fsub _ | fmulW1a _ | fmul _ | ffmaW1a _ | ffma _ | fminW1a _ | fmin _
  | fmaxW1a _ | fmax _ | frndW1a _ | frnd _ =>
    exact runFloat_wf _ _ h
  | fcmpW1a _ | fcmp _ => exact runFcmp_wf _ _ h
  | fclassW1a _ | fclass _ => exact runFclass_wf _ _ h
  | frcpW1a _ | frcp _ | frsqW1a _ | frsq _ | fsqrtW1a _ | fsqrt _ | fexp2W1a _ | fexp2 _ | flog2W1a _ | flog2 _ =>
    exact runTransc_wf _ _ h
  | cvtW1a _ | cvt _ => exact runCvt_wf _ _ h
  | shfl _ => exact execShfl_wf _ s h
  | vote _ => exact execVote_wf _ s h
  | ballot _ => exact execBallot_wf _ s h
  | redx _ => exact execRedx_wf _ s h
  | scan _ => exact execScan_wf _ s h
  | matchOp _ => exact execMatch_wf _ s h
  | ld _ => exact execLd_wf _ s h
  | st _ => exact execSt_wf _ s h
  | ldl _ => exact execLdl_wf _ s h
  | stl _ => exact execStl_wf _ s h
  | loadDataArrival _ _ => exact execLoadDataArrival_wf _ _ s h
  | prefL1 _ | prefLlc _ => exact runPref_wf _ _ _ h
  | cleanL1 _ | cleanMem _ | dropL1 _ | dropLlc _ => exact runClean_wf _ _ h
  | lock _ | unlock _ => exact runPin_wf _ _ h
  | atom _ => exact execAtom_wf _ s h
  | atoml _ => exact execAtoml_wf _ s h
  | atomicAtHome _ _ | writePerformed _ _ => exact memEvent_wf _ _ _ _ h
  | lease _ => exact execLease_wf _ s h
  | leaseGrant _ _ => exact execLeaseGrant_wf _ _ s h
  | unlease _ => exact execUnlease_wf _ s h
  | leaseExpiry _ _ => exact execLeaseExpiry_wf _ _ s h
  | wait _ => exact execWait_wf _ s h
  | swapOut _ => exact execSwapOut_wf _ s h
  | strandRestore _ => exact execStrandRestore_wf _ s h
  | barArrive _ => exact execBarArrive_wf _ s h
  | barWait _ => exact execBarWait_wf _ s h
  | barSync _ => exact execBarSync_wf _ s h
  | barExpect _ => exact execBarExpect_wf _ s h
  | fenceAcq _ | fenceRel _ | fenceAr _ => exact runFence_wf _ _ _ _ h
  | gbind _ => exact execGbind_wf _ s h
  | acqX _ | acqSh _ => exact runAcq_wf _ _ _ h
  | guardGrant _ => exact execGuardGrant_wf _ s h
  | rel _ => exact execRel_wf _ s h
  | strongReadAtHome _ _ => exact execStrongReadAtHome_wf _ _ s h
  | l1WriteBack _ _ => exact next_ok (writeBack_wf _ _ _ h)
  | trapEntry _ => exact execTrapEntry_wf _ s h
  | triageRepair _ _ => exact next_ok (repair_wf _ _ _ h)
  | triageReturn _ => exact execTriageReturn_wf _ s h
  | heapGrowth _ _ _ => exact next_ok (growHeap_wf _ _ _ _ _ h)
  | kopen _ | knext _ | kseek _ | ksetp _ | kdesc _ | kcoit _ | ksplit _ | kcrd _ | kval _ | kapm _ =>
    exact walkInstr_wf _ _ h
  | kpos _ => exact execKpos_wf _ s h
  | kapp _ => exact execKapp_wf _ s h
  | kclose _ => exact execKclose_wf _ s h
  | kmov _ => exact execKmov_wf _ s h
  | ctinitQ _ | ctinitR _ | ctinitExt _ | cttakeQ _ | cttakeR _ | ctgive _ | ctread _ | ctpeek _ | ctdrop _ =>
    exact runCtr_wf _ _ h
  | homeCtinit _ _ _ | homeQuantityTake _ _ _ | homeRangeTake _ _ _ | giveFlush _ _ _ | exactRead _ _ _ =>
    exact ctrHome_wf _ _ _ _ _ _ h
  | counterRecall _ _ => exact execCounterRecall_wf _ _ s h
  | counterReturn _ _ _ _ => exact execCounterReturn_wf _ _ _ _ s h
  | mfill _ | mldw _ | mswap _ | mmul _ | mzero _ | mrd _ | mwr _ | mepi _ | mtopkClr _ | mchk _ | mchkClr _
  | mchkRst _ =>
    exact issueMatrix_wf _ _ _ h
  | mepiRoute _ => exact execMepiRoute_wf _ s h
  | mtopkAcc _ => exact execMtopkAcc_wf _ s h
  | mtopkOut _ => exact execMtopkOut_wf _ s h
  | matrixEntryStart _ _ => exact execMatrixEntryStart_wf _ _ s h
  | matrixCompletion _ _ => exact execMatrixCompletion_wf _ _ s h
  | powerLeaveRetry _ _ => exact execPowerLeaveRetry_wf _ _ s h
  | mldt _ => exact execMldt_wf _ s h
  | xcopy _ | xstore _ | xgather _ | xscat _ | xmcast _ => exact issueCopy_wf _ _ _ h
  | copyCommandStart _ _ => exact execCopyCommandStart_wf _ _ s h
  | copyTileReturn _ _ _ => exact execCopyTileReturn_wf _ _ _ s h
  | xdisp _ | xdispB _ | xcomb _ | xcombB _ => exact issueExpert_wf _ _ h
  | dispatchRecord _ _ => exact execDispatchRecord_wf _ _ s h
  | dispatchInstant _ _ => exact execDispatchInstant_wf _ _ s h
  | batchCloseWindow _ _ => exact execBatchCloseWindow_wf _ _ s h
  | productSpawnRetry _ _ => exact execProductSpawnRetry_wf _ _ s h
  | tlbinvRange _ | tlbinvAsid _ | tlbinvAll _ => exact runTlbinv_wf _ _ _ h
  | hostTlbinv _ _ _ _ => exact next_ok (hostInval_wf _ _ _ _ _ h)
  | icinv _ => exact execIcinv_wf _ s h
  | mark _ => exact execMark_wf _ s h
  | cohortPlacement _ => exact execCohortPlacement_wf _ s h
  | windowLaunch _ _ _ | windowPreempt _ _ _ | windowKill _ _ _ | windowResume _ _ _ | windowFault _ _ _ =>
    exact next_ok (windowWrite_wf _ _ _ _ h)
  | preemptDrainComplete _ => exact next_ok (ite_wf (drainDone_wf _ _ h) h)
  | shutterExpiry _ => exact execShutterExpiry_wf _ s h
  | ageingStep _ => exact execAgeingStep_wf _ s h
  | ctxkillWrite _ => exact next_ok (privWrite_wf _ _ _ _ h)
  | pageWalk _ _ _ => exact execPageWalk_wf _ _ _ s h
  | hostTranslationAnswer _ _ _ _ => exact execHostTranslationAnswer_wf _ _ _ _ s h
  | llcFill _ => exact next_ok (ite_wf (llcRead_wf _ _ h) h)
  | llcProbe _ _ => exact execLlcProbe_wf _ _ s h
  | llcCounterRead _ _ _ => exact execLlcCounterRead_wf _ _ _ s h
  | copyRenewal _ _ _ _ | hostSharedFill _ _ _ _ => exact next_ok (bring_wf _ _ _ _ _ _ h)
  | ltTick _ => exact execLtTick_wf _ s h
  | epochFlip => exact execEpochFlip_wf s h
  | safelightEntry _ => exact execSafelightEntry_wf _ s h
  | safelightWake _ => exact next_ok (memoryOk_of_mem (wake_mem _ _) h)
  | holdingEndMessage _ _ _ _ => exact execHoldingEndMessage_wf _ _ _ _ s h
  | hostSnoop _ => exact execHostSnoop_wf _ s h
  | hostMemRead _ _ => exact next_ok (hostLoad_wf _ _ _ h)
  | hostMemWrite _ _ => exact next_ok (hostStore_wf _ _ _ h)
  | hostGoReceipt => exact execHostGoReceipt_wf s h
  | mgmtWindowAccess _ _ _ => exact execMgmtWindowAccess_wf _ _ _ s h
  | registerWrite _ _ _ | minjWrite _ _ | modeselWrite _ _ | pwrctlWrite _ _ | vsetWrite _ _ | leaselenWrite _ _
  | dtsetWrite _ _ =>
    exact next_ok (regWrite_wf _ _ _ _ h)
  | hbmerrRead _ => exact next_ok (ite_wf (memoryOk_of_mem (hbmRead_mem _ _) h) h)
  | atnonceWrite _ _ => exact next_ok (memoryOk_of_mem (nonceSet_mem _ _ _) h)
  | attestationReport => exact execAttestationReport_wf s h
  | wsRefreshWindow _ _ => exact execWsRefreshWindow_wf _ _ s h
  | hbmPatrolScrub _ _ => exact execHbmPatrolScrub_wf _ _ s h
  | flitRead _ => exact next_ok (passUp_wf _ _ _ _ (fun x hx => peerRead_wf x _ hx) h)
  | flitWrite _ => exact next_ok (passUp_wf _ _ _ _ (fun x hx => peerWrite_wf x _ hx) h)
  | flitCompletion _ => exact next_ok (passUp_wf _ _ _ _ (fun x hx => peerDone_wf x _ hx) h)
  | flitContribution _ =>
    exact next_ok (passUp_wf _ _ _ _ (fun x hx => memoryOk_of_mem (peerContributes_mem x _) hx) h)
  | flitDelivery _ => exact execFlitDelivery_wf _ s h
  | flitPtp _ => exact next_ok (passUp_wf _ _ _ _ (fun x hx => memoryOk_of_mem (ptpTake_mem x _) hx) h)
  | flitAck _ => exact next_ok (passUp_wf _ _ _ _ (fun x hx => hx) h)
  | flitNak _ => exact next_ok (passUp_wf _ _ _ _ (fun x hx => memoryOk_of_mem (replay_mem x _) hx) h)
  | portRetrain _ => exact execPortRetrain_wf _ s h
  | memberFailure _ => exact execMemberFailure_wf _ s h
  | powerTopup _ _ => exact execPowerTopup_wf _ _ s h
  | currentCap _ | thermalThrottle _ => exact next_ok h
  | thermalTrip => exact execThermalTrip_wf s h
  | deviceReset _ _ => exact execDeviceReset_wf _ _ s h
  | uzoipDiscardedAccess _ _ => exact execUzoipDiscardedAccess_wf _ _ s h
  | lifetimeRecord => exact execLifetimeRecord_wf s h
  | contactSheet => exact execContactSheet_wf s h
  | contactSheetWrite _ => exact execContactSheetWrite_wf _ s h
  | crcFailedFlit _ => exact next_ok (ite_wf (memoryOk_of_mem (sendNak_mem _ _ _) h) h)
  | lossOfPower => exact execLossOfPower_wf s h
  | bisnpReply _ _ => exact next_ok (hostReply_wf _ _ _ h)
  | ptpMessageTimer _ _ => exact execPtpMessageTimer_wf _ _ s h
  | rebuildSpacingEnd _ => exact execRebuildSpacingEnd_wf _ s h

/-! ### Memory: the schedule and the step -/

theorem fillCode_wf (s : State) (w : Who) (va : Nat) (h : s.memoryOk) : (s.fillCode w va).2.memoryOk := by
  unfold State.fillCode
  grind [modCore_mem, llcRead_wf, noteBlocked_mem, access_wf, writeBack_wf]

theorem fetchWord_wf (s : State) (sid va : Nat) (h : s.memoryOk) : (s.fetchWord sid va).2.memoryOk := by
  unfold State.fetchWord
  grind [fillCode_wf]

theorem fetchInstr_wf (s : State) (sid va : Nat) (h : s.memoryOk) : (s.fetchInstr sid va).2.memoryOk := by
  unfold State.fetchInstr
  grind [fetchWord_wf]

/-- A turn whose state keeps memory canonical. -/
def TurnOk : Turn → Prop
  | .done s => s.memoryOk
  | .run _ s => s.memoryOk

theorem boundary_ok (s : State) (sid : Nat) (h : s.memoryOk) : TurnOk (s.boundary sid) := by
  unfold State.boundary
  grind [TurnOk, setStrand_mem, errorRecord_wf, endThreads_wf, unlaunch_mem, takeTrap_wf, fetchInstr_wf]

@[simp] theorem elapse_mem (s : State) (n : Nat) : (s.elapse n).mem = s.mem := by
  unfold State.elapse
  grind

theorem onNext_wf (o : Res) (f : State → State) (ho : NextOk o) (hf : ∀ s, s.memoryOk → (f s).memoryOk) :
    NextOk (onNext o f) := by
  cases o with
  | next s => exact next_ok (hf s (ho s rfl))
  | fault x => exact fun _ e => nomatch e
  | refused x => exact fun _ e => nomatch e

theorem tryTurn_wf (s : State) (sid : Nat) (h : s.memoryOk) : NextOk (s.tryTurn sid).2 := by
  have hb := boundary_ok s sid h
  unfold State.tryTurn
  split
  · rename_i t e
    rw [e] at hb
    exact next_ok hb
  · rename_i i t e
    rw [e] at hb
    have hx := exec_wf i t hb
    split
    · rename_i u e'
      rw [e'] at hx
      exact hx
    · exact hx

@[simp] theorem yieldSeen_mem (s : State) (sid : Nat) : (s.yieldSeen sid).mem = s.mem := by
  unfold State.yieldSeen
  grind [setStrand_mem, forEach_mem]

@[simp] theorem looked_mem (s : State) (sid : Nat) : (s.looked sid).mem = s.mem := rfl

@[simp] theorem issued_mem (s : State) (sid : Nat) (ready : List Nat) : (s.issued sid ready).mem = s.mem := by
  unfold State.issued
  grind [setStrand_mem, modStrand_mem, modCore_mem, yieldSeen_mem, forEach_mem]

@[simp] theorem noteReady_mem (s : State) : s.noteReady.mem = s.mem :=
  forEach_mem _ _ _ fun _ _ => modStrand_mem _ _ _

theorem issueTurn_wf (s : State) (sid : Nat) (h : s.memoryOk) : NextOk (s.issueTurn sid) := by
  have ht := tryTurn_wf s sid h
  unfold State.issueTurn
  split
  · rename_i o e
    rw [e] at ht
    exact onNext_wf o _ ht fun t hm => memoryOk_of_mem (looked_mem t sid) hm
  · rename_i o e
    rw [e] at ht
    extract_lets ready
    split
    · exact next_ok h
    · exact onNext_wf o _ ht fun t hm => memoryOk_of_mem (issued_mem t sid ready) hm

@[simp] theorem nextCycle_mem (s : State) : s.nextCycle.mem = s.mem := by
  unfold State.nextCycle
  grind [elapse_mem]

/-- Before a cycle passes: an event that is due, a strand that must issue, else the passing itself. -/
theorem passThen_wf (s : State) (m : Move) (pass : State → State) (hp : ∀ t, t.memoryOk → (pass t).memoryOk)
    (h : s.memoryOk) : NextOk (s.passThen m pass) := by
  have hn : s.noteReady.memoryOk := memoryOk_of_mem (noteReady_mem s) h
  unfold State.passThen
  extract_lets t n
  split
  · exact exec_wf _ t h
  · split
    · exact issueTurn_wf _ _ hn
    · exact next_ok (hp n hn)

/-- Each kind of move. -/
theorem move_wf (s : State) (m : Move) (h : s.memoryOk) : NextOk (s.move m) := by
  have pass (t : State) (l : List Move) (ht : t.memoryOk) : State.memoryOk { t.nextCycle with agenda := l } :=
    memoryOk_of_mem (s := t) (nextCycle_mem t) ht
  cases m with
  | issue sid =>
    unfold State.move
    exact ite_next (passThen_wf _ _ _ (fun t => pass t _) h) (ite_next (issueTurn_wf _ _ h) (next_ok h))
  | event i =>
    unfold State.move
    exact ite_next (exec_wf _ _ h) (next_ok h)
  | elapse n =>
    cases n with
    | zero => exact next_ok h
    | succ n => exact passThen_wf _ _ _ (fun t => pass t _) h
  | upset u => exact next_ok (upset_wf _ _ h)
  | evict core cache vline => exact next_ok (evict_wf _ _ _ _ h)
  | around sid on => exact next_ok (memoryOk_of_mem (modStrand_mem _ _ _) h)
  | walkAhead sid key k => exact next_ok (walkAhead_wf _ _ _ _ h)
  | counter die pa op => exact next_ok (counterBy_wf _ _ _ _ h)
  | access sid slot =>
    unfold State.move
    refine next_ok ?_
    split
    · exact memRun_wf _ _ _ _ _ h
    · exact h
  | copyStep core ident => exact next_ok (goCommand_wf _ _ _ _ h)
  | image bytes => exact next_ok h
  | bar4 off x => exact next_ok h

theorem retryLogs_wf (s : State) (h : s.memoryOk) : s.retryLogs.memoryOk := by
  unfold State.retryLogs
  grind [redo_wf, forEach_wf]

@[simp] theorem retryEngines_mem (s : State) : s.retryEngines.mem = s.mem := by
  unfold State.retryEngines
  grind [push_mem, pokeEngines_mem]

theorem retryStrands_wf (s : State) (h : s.memoryOk) : s.retryStrands.memoryOk := by
  unfold State.retryStrands
  grind [push_mem, releaseEnded_wf, forEach_wf]

@[simp] theorem retryBins_mem (s : State) : s.retryBins.mem = s.mem := by
  unfold State.retryBins
  grind [push_mem, forEach_mem]

theorem retryHomes_wf (s : State) (h : s.memoryOk) : s.retryHomes.memoryOk := by
  unfold State.retryHomes
  grind [push_mem, flushDev_wf, forEach_wf]

theorem retryRegions_wf (s : State) (h : s.memoryOk) : s.retryRegions.memoryOk := by
  unfold State.retryRegions
  grind [push_mem, flushRecords_wf, pushPlacement_mem, settle_wf, forEach_wf]

theorem retryParked_wf (s : State) (h : s.memoryOk) : s.retryParked.memoryOk := by
  unfold State.retryParked
  grind [ctrActs_wf, repair_wf, growHeap_wf, windowApply_wf, killContext_wf, hostInval_wf, hostLoad_wf, hostStore_wf,
    hostReply_wf, flitAgain_wf, topupAgain_wf, forEach_wf]

theorem retryCounters_wf (s : State) (h : s.memoryOk) : s.retryCounters.memoryOk := by
  unfold State.retryCounters
  grind [push_mem, flushGives_wf, forEach_wf]

@[simp] theorem retryFabric_mem (s : State) : s.retryFabric.mem = s.mem := by
  unfold State.retryFabric
  grind [push_mem, forEach_mem]

theorem retry_wf (s : State) (h : s.memoryOk) : s.retry.memoryOk := by
  unfold State.retry
  grind [fwFlush_wf, retryLogs_wf, retryEngines_mem, retryStrands_wf, retryBins_mem, retryHomes_wf, retryRegions_wf,
    retryParked_wf, retryCounters_wf, retryFabric_mem]

theorem serve_wf (s : State) (i : Instr) (t : List Instr) (h : s.memoryOk) : NextOk (s.serve i t) := exec_wf i _ h

theorem rest_wf (s : State) (next : Option Nat) (h : s.memoryOk) : NextOk (s.rest next) := by
  unfold State.rest
  split
  · exact exec_wf _ s h
  · split
    · exact next_ok (retry_wf s h)
    · split
      · exact issueTurn_wf _ _ h
      · exact next_ok (memoryOk_of_mem (nextCycle_mem s) h)

theorem auto_wf (s : State) (h : s.memoryOk) : NextOk s.auto := by
  unfold State.auto
  grind [serve_wf, rest_wf]

theorem deferStore_wf (s : State) (a : Author) (h : s.memoryOk) : (s.deferStore a).memoryOk := by
  unfold State.deferStore
  grind [trapRecord_wf, putEntry_mem, askTriage_mem]

theorem attend_wf (s : State) (h : s.memoryOk) : s.attend.memoryOk := by
  unfold State.attend
  grind [negFlush_wf, attendWrites_wf, deferStore_wf, forEach_wf]

/-- One turn: the next move of the schedule, or one of the machine itself, and then what is left to attend to. -/
theorem turn_wf (s : State) (h : s.memoryOk) : NextOk s.turn := by
  unfold State.turn
  split
  · split
    · exact fun _ e => nomatch e
    · exact onNext_wf _ _ (move_wf _ _ h) attend_wf
  · split
    · exact fun _ e => nomatch e
    · exact onNext_wf _ _ (auto_wf s h) attend_wf

/-- Settles O8: a step is one turn of the schedule, and everything a turn can do keeps the form (log 4). -/
theorem stepKeepsMemoryCanonical : Obligations.StepKeepsMemoryCanonical :=
  fun s t h e => turn_wf s h t e

end Sys2Proof.Proofs

namespace Sys2Proof.Proofs

open Sys2Proof.Machine Sys2Proof.Laws

/-! ## Encoding (O1 to O5)

A format's fields and its words determine each other (`Holds` one way, `rawA_aOf` and its like the other), so the constructor that `build`
chooses for accepted words and the words that `toRaw` gives a constructor are each other's inverse. The rest is the framing:
word 0 and its fields, the length, and bytes. -/

/-! ### Word 0, and the words that LEN counts -/

/-- The words that LEN does not count are zero, as the decoder leaves them. -/
structure Trimmed (r : Raw) : Prop where
  w1 : r.len ≠ 1#2 → r.len ≠ 2#2 → r.w1 = 0#32
  w2 : r.len ≠ 2#2 → r.w2 = 0#32

theorem trimmed_rawOfWords (w0 w1 w2 : BitVec 32) : Trimmed (rawOfWords w0 w1 w2) where
  w1 h1 h2 := if_neg (not_or.mpr ⟨h1, h2⟩)
  w2 h2 := if_neg h2

/-- Word 0 is its fields (R46). -/
theorem word0_rawOfWords (w0 w1 w2 : BitVec 32) : (rawOfWords w0 w1 w2).word0 = w0 := by
  simp only [Raw.word0, rawOfWords, BitVec.extractLsb'_append_extractLsb'_eq_extractLsb', BitVec.extractLsb'_eq_self]

theorem word0_len (r : Raw) : r.word0.extractLsb' 0 2 = r.len := by
  simp (disch := omega) only [Raw.word0, BitVec.extractLsb'_append_eq_of_add_le, BitVec.extractLsb'_eq_self]

/-- The fields read from word 0 and the words that follow are those that were written, whatever stands past the length. -/
theorem rawOfWords_word0 {r : Raw} (ht : Trimmed r) {w1 w2 : BitVec 32} (h1 : r.len = 1#2 ∨ r.len = 2#2 → w1 = r.w1)
    (h2 : r.len = 2#2 → w2 = r.w2) : rawOfWords r.word0 w1 w2 = r := by
  obtain ⟨f, a, d, g, op, u, len, x1, x2⟩ := r
  have e1 : (if len = 1#2 ∨ len = 2#2 then w1 else 0#32) = x1 := by
    split
    · exact h1 ‹_›
    · exact (ht.w1 (not_or.mp ‹_›).1 (not_or.mp ‹_›).2).symm
  have e2 : (if len = 2#2 then w2 else 0#32) = x2 := by
    split
    · exact h2 ‹_›
    · exact (ht.w2 ‹_›).symm
  simp (disch := omega) only [rawOfWords, Raw.word0, BitVec.extractLsb'_append_eq_of_le,
    BitVec.extractLsb'_append_eq_of_add_le, BitVec.extractLsb'_eq_self, Nat.reduceSub, e1, e2]

/-! ### The fields of a format from its words -/

/-- The words q hold the fields o of a format, and nothing past their length. -/
structure Holds {O : Type} (of : Raw → O) (q : Raw) (o : O) : Prop where
  trimmed : Trimmed q
  fields : of q = o

@[simp] theorem lenOf_ne_zero (imm : Option (BitVec 32)) : lenOf imm ≠ 0#2 := by
  cases imm <;> simp [lenOf]

theorem immOf_lenOf (f a d g op u w1) (imm : Option (BitVec 32)) :
    immOf ⟨f, a, d, g, op, u, lenOf imm, w1, immWord imm⟩ = imm := by
  cases imm <;> rfl

theorem trimmed_one (f a d g op u) : Trimmed ⟨f, a, d, g, op, u, 0#2, 0#32, 0#32⟩ :=
  ⟨fun _ _ => rfl, fun _ => rfl⟩

theorem trimmed_lenOf (f a d g op u w1) (imm : Option (BitVec 32)) :
    Trimmed ⟨f, a, d, g, op, u, lenOf imm, w1, immWord imm⟩ := by
  cases imm
  · exact ⟨fun h => absurd rfl h, fun _ => rfl⟩
  · exact ⟨fun _ h => absurd rfl h, fun h => absurd rfl h⟩

theorem w1Of_rawW1 (op : Nat) (o : W1Ops) : Holds w1Of (rawW1 op o) o := ⟨trimmed_one .., rfl⟩

theorem iOf_rawI (op : Nat) (o : IOps) : Holds iOf (rawI op o) o := by
  refine ⟨trimmed_one .., ?_⟩
  simp only [iOf, rawI, BitVec.extractLsb'_append_extractLsb'_eq_extractLsb', BitVec.extractLsb'_eq_self]

theorem bOf_rawB (op : Nat) (o : BOps) : Holds bOf (rawB op o) o := by
  refine ⟨trimmed_one .., ?_⟩
  simp only [bOf, rawB, BitVec.extractLsb'_append_extractLsb'_eq_extractLsb', BitVec.extractLsb'_eq_self]

theorem bwOf_rawBW (op : Nat) (o : BWOps) : Holds bwOf (rawBW op o) o := by
  refine ⟨⟨fun _ h => absurd rfl h, fun h => absurd rfl h⟩, ?_⟩
  simp only [bwOf, rawBW, BitVec.extractLsb'_append_extractLsb'_eq_extractLsb', BitVec.extractLsb'_eq_self]

theorem aOf_rawA (op : Nat) (o : AOps) : Holds aOf (rawA op o) o := by
  refine ⟨trimmed_lenOf .., ?_⟩
  simp (disch := omega) only [aOf, rawA, immOf_lenOf, BitVec.extractLsb'_append_eq_of_le,
    BitVec.extractLsb'_append_eq_of_add_le, BitVec.extractLsb'_eq_self, Nat.reduceSub]

theorem mOf_rawM (op : Nat) (o : MOps) : Holds mOf (rawM op o) o := by
  refine ⟨trimmed_lenOf .., ?_⟩
  simp (disch := omega) only [mOf, rawM, immOf_lenOf, BitVec.extractLsb'_append_eq_of_le,
    BitVec.extractLsb'_append_eq_of_add_le, BitVec.extractLsb'_eq_self, Nat.reduceSub]

theorem kOf_rawK (op : Nat) (o : KOps) : Holds kOf (rawK op o) o := by
  refine ⟨trimmed_lenOf .., ?_⟩
  simp (disch := omega) only [kOf, rawK, immOf_lenOf, BitVec.extractLsb'_append_eq_of_le,
    BitVec.extractLsb'_append_eq_of_add_le, BitVec.extractLsb'_eq_self, Nat.reduceSub]

theorem yOf_rawY (op : Nat) (o : YOps) : Holds yOf (rawY op o) o := by
  refine ⟨trimmed_lenOf .., ?_⟩
  simp (disch := omega) only [yOf, rawY, immOf_lenOf, BitVec.extractLsb'_append_eq_of_le,
    BitVec.extractLsb'_append_eq_of_add_le, BitVec.extractLsb'_eq_self, Nat.reduceSub]

theorem xOf_rawX (op : Nat) (o : XOps) : Holds xOf (rawX op o) o := by
  refine ⟨trimmed_lenOf .., ?_⟩
  simp (disch := omega) only [xOf, rawX, immOf_lenOf, BitVec.extractLsb'_append_eq_of_le,
    BitVec.extractLsb'_append_eq_of_add_le, BitVec.extractLsb'_eq_self, Nat.reduceSub]

theorem sOf_rawS (op : Nat) (o : SOps) : Holds sOf (rawS op o) o := by
  refine ⟨trimmed_lenOf .., ?_⟩
  simp (disch := omega) only [sOf, rawS, immOf_lenOf, BitVec.extractLsb'_append_eq_of_le,
    BitVec.extractLsb'_append_eq_of_add_le, BitVec.extractLsb'_eq_self, Nat.reduceSub]

/-! ### The words of a format from its fields -/

theorem len_eq_one {l : BitVec 2} : l ≠ 0#2 → l ≠ 2#2 → l ≠ 3#2 → l = 1#2 := by
  revert l
  decide

theorem len_eq_two {l : BitVec 2} : l ≠ 0#2 → l ≠ 1#2 → l ≠ 3#2 → l = 2#2 := by
  revert l
  decide

theorem lenOf_immOf {r : Raw} (h0 : r.len ≠ 0#2) (h3 : r.len ≠ 3#2) : lenOf (immOf r) = r.len := by
  unfold lenOf immOf
  split
  · next h => exact h.symm
  · exact (len_eq_one h0 ‹_› h3).symm

theorem immWord_immOf {r : Raw} (ht : Trimmed r) : immWord (immOf r) = r.w2 := by
  unfold immWord immOf
  split
  · rfl
  · exact (ht.w2 ‹_›).symm

theorem one_word {r : Raw} (ht : Trimmed r) (h : r.len = 0#2) :
    (⟨r.f, r.a, r.d, r.g, BitVec.ofNat 8 r.op.toNat, r.u, 0#2, 0#32, 0#32⟩ : Raw) = r := by
  have e1 := ht.w1 (by simp [h]) (by simp [h])
  have e2 := ht.w2 (by simp [h])
  obtain ⟨f, a, d, g, op, u, len, w1, w2⟩ := r
  subst h e1 e2
  simp

theorem more_words {r : Raw} (ht : Trimmed r) (h0 : r.len ≠ 0#2) (h3 : r.len ≠ 3#2) :
    (⟨r.f, r.a, r.d, r.g, BitVec.ofNat 8 r.op.toNat, r.u, lenOf (immOf r), r.w1, immWord (immOf r)⟩ : Raw) = r := by
  rw [lenOf_immOf h0 h3, immWord_immOf ht]
  simp

theorem rawW1_w1Of {r : Raw} {op : Nat} (ht : Trimmed r) (hop : r.op.toNat = op) (h : r.len = 0#2) :
    rawW1 op (w1Of r) = r := by
  subst hop
  exact one_word ht h

theorem rawI_iOf {r : Raw} {op : Nat} (ht : Trimmed r) (hop : r.op.toNat = op) (h : r.len = 0#2) :
    rawI op (iOf r) = r := by
  subst hop
  simp (disch := omega) only [rawI, iOf, BitVec.extractLsb'_append_eq_of_le, BitVec.extractLsb'_append_eq_of_add_le,
    BitVec.extractLsb'_eq_self, Nat.reduceSub, one_word ht h]

theorem rawB_bOf {r : Raw} {op : Nat} (ht : Trimmed r) (hop : r.op.toNat = op) (h : r.len = 0#2) :
    rawB op (bOf r) = r := by
  subst hop
  simp (disch := omega) only [rawB, bOf, BitVec.extractLsb'_append_eq_of_le, BitVec.extractLsb'_append_eq_of_add_le,
    BitVec.extractLsb'_eq_self, Nat.reduceSub, one_word ht h]

theorem rawBW_bwOf {r : Raw} {op : Nat} (h3 : r.len ≠ 3#2) (hop : r.op.toNat = op) (h0 : r.len ≠ 0#2)
    (h1 : r.len ≠ 1#2) : rawBW op (bwOf r) = r := by
  subst hop
  simp (disch := omega) only [rawBW, bwOf, BitVec.extractLsb'_append_eq_of_le,
    BitVec.extractLsb'_append_eq_of_add_le, BitVec.extractLsb'_eq_self, Nat.reduceSub, BitVec.ofNat_toNat,
    BitVec.setWidth_eq, ← len_eq_two h0 h1 h3]

theorem rawA_aOf {r : Raw} {op : Nat} (ht : Trimmed r) (h3 : r.len ≠ 3#2) (hop : r.op.toNat = op)
    (h0 : r.len ≠ 0#2) : rawA op (aOf r) = r := by
  subst hop
  simp only [rawA, aOf, BitVec.extractLsb'_append_extractLsb'_eq_extractLsb', BitVec.extractLsb'_eq_self,
    more_words ht h0 h3]

theorem rawM_mOf {r : Raw} {op : Nat} (ht : Trimmed r) (h3 : r.len ≠ 3#2) (hop : r.op.toNat = op)
    (h0 : r.len ≠ 0#2) : rawM op (mOf r) = r := by
  subst hop
  simp only [rawM, mOf, BitVec.extractLsb'_append_extractLsb'_eq_extractLsb', BitVec.extractLsb'_eq_self,
    more_words ht h0 h3]

theorem rawK_kOf {r : Raw} {op : Nat} (ht : Trimmed r) (h3 : r.len ≠ 3#2) (hop : r.op.toNat = op)
    (h0 : r.len ≠ 0#2) : rawK op (kOf r) = r := by
  subst hop
  simp only [rawK, kOf, BitVec.extractLsb'_append_extractLsb'_eq_extractLsb', BitVec.extractLsb'_eq_self,
    more_words ht h0 h3]

theorem rawY_yOf {r : Raw} {op : Nat} (ht : Trimmed r) (h3 : r.len ≠ 3#2) (hop : r.op.toNat = op)
    (h0 : r.len ≠ 0#2) : rawY op (yOf r) = r := by
  subst hop
  simp only [rawY, yOf, BitVec.extractLsb'_append_extractLsb'_eq_extractLsb', BitVec.extractLsb'_eq_self,
    more_words ht h0 h3]

theorem rawX_xOf {r : Raw} {op : Nat} (ht : Trimmed r) (h3 : r.len ≠ 3#2) (hop : r.op.toNat = op)
    (h0 : r.len ≠ 0#2) : rawX op (xOf r) = r := by
  subst hop
  simp only [rawX, xOf, BitVec.extractLsb'_append_extractLsb'_eq_extractLsb', BitVec.extractLsb'_eq_self,
    more_words ht h0 h3]

theorem rawS_sOf {r : Raw} {op : Nat} (ht : Trimmed r) (h3 : r.len ≠ 3#2) (hop : r.op.toNat = op)
    (h0 : r.len ≠ 0#2) : rawS op (sOf r) = r := by
  subst hop
  simp only [rawS, sOf, BitVec.extractLsb'_append_extractLsb'_eq_extractLsb', BitVec.extractLsb'_eq_self,
    more_words ht h0 h3]

@[simp] theorem mOf_f (r : Raw) : (mOf r).f = r.f := rfl
@[simp] theorem yOf_f (r : Raw) : (yOf r).f = r.f := rfl

/-! ### What the checks of R67 give -/

/-- Accepted words have a length, an opcode of the map, and pass the checks of length and guard (R67). -/
theorem accepted {r : Raw} (hc : rawCheck r = none) :
    r.len ≠ 3#2 ∧ ∃ oi, opInfo r.op.toNat = some oi ∧ chkLen r oi = true ∧ chkGuard r oi = true := by
  unfold rawCheck at hc
  split at hc
  · cases hc
  · split at hc
    · cases hc
    · next h3 _ oi ho =>
      split_ifs at hc with hl hg
      simp only [Bool.not_eq_eq_eq_not, Bool.not_true, Bool.not_eq_false] at hl hg
      exact ⟨h3, oi, ho, hl, hg⟩

theorem rawCheck_len {r : Raw} (h : r.len = 3#2) : rawCheck r = some 1 := if_pos h

theorem rawCheck_op {r : Raw} (h : r.len ≠ 3#2) (ho : opInfo r.op.toNat = none) : rawCheck r = some 2 := by
  rw [rawCheck, if_neg h, ho]

theorem chkLen_of_accepted {r : Raw} {oi : OpInfo} (hc : rawCheck r = none) (ho : opInfo r.op.toNat = some oi) :
    chkLen r oi = true := by
  obtain ⟨_, _, ho', hl, _⟩ := accepted hc
  exact (Option.some.inj (ho.symm.trans ho')) ▸ hl

/-! ### The constructor of accepted words -/

/-- The constructor that accepted words stand for has those words, and they select its row. The words of a row are fixed by
its opcode, by the lengths that R65 permits the opcode, and by the fields that its format reads. -/
theorem toRaw_of_build {i : Instr} {r : Raw} (ht : Trimmed r) (hc : rawCheck r = none) (h : build r = some i) :
    toRaw i = some r ∧ i.selectorOk = true := by
  obtain ⟨h3, -⟩ := accepted hc
  unfold build at h
  split at h
  case h_130 => cases h
  all_goals
    rename_i hop
    have hl := chkLen_of_accepted hc ((congrArg opInfo hop).trans rfl)
    simp only [chkLen, infoW1, infoBr, infoA, infoAlu, infoM, infoS, infoX, infoY, infoK] at hl
    repeat' split at h
  all_goals simp only [Option.some.injEq, reduceCtorEq] at h
  all_goals
    subst h
    simp_all [toRaw, Instr.selectorOk, rawW1_w1Of, rawI_iOf, rawB_bOf, rawBW_bwOf, rawA_aOf, rawM_mOf, rawK_kOf,
      rawX_xOf, rawY_yOf, rawS_sOf]

/-- The words r are those of the instruction i, and nothing past them. -/
structure Spells (r : Raw) (i : Instr) : Prop where
  trimmed : Trimmed r
  build : build r = some i

section

variable {O : Type} {of : Raw → O} {q r : Raw} {o : O} {c : O → Instr} {i : Instr}

/-- A row that its words stand for, chosen by a field. -/
theorem spells_row (hq : Holds of q o) (h : some q = some r) (hb : build q = some i) : Spells r i := by
  obtain rfl := Option.some.inj h
  exact ⟨hq.trimmed, hb⟩

/-- A row whose opcode and length select it. -/
theorem spells_plain (hq : Holds of q o) (h : some q = some r) (hb : build q = some (c (of q))) : Spells r (c o) :=
  spells_row hq h (by rw [hb, hq.fields])

/-- A row that shares its opcode with a one-word form. -/
theorem spells_long {x : Option Instr} (hq : Holds of q o) (hl : q.len ≠ 0#2) (h : some q = some r)
    (hb : build q = if q.len = 0#2 then x else some (c (of q))) : Spells r (c o) :=
  spells_plain hq h (hb.trans (if_neg hl))

end

/-! The opcodes whose rows a field tells apart. -/

section

variable (m : MOps) (y : YOps) (x : XOps) (s : SOps)

theorem build_pref : build (rawM 0x94 m) =
      if m.f = 0#3 then some (.prefL1 m)
      else if m.f = 1#3 then some (.prefLlc m)
      else none := by
  conv_rhs => rw [← (mOf_rawM 0x94 m).fields]
  rfl

theorem build_clean : build (rawM 0x95 m) =
      if m.f = 0#3 then some (.cleanL1 m)
      else if m.f = 1#3 then some (.cleanMem m)
      else none := by
  conv_rhs => rw [← (mOf_rawM 0x95 m).fields]
  rfl

theorem build_drop : build (rawM 0x96 m) =
      if m.f = 0#3 then some (.dropL1 m)
      else if m.f = 1#3 then some (.dropLlc m)
      else none := by
  conv_rhs => rw [← (mOf_rawM 0x96 m).fields]
  rfl

theorem build_bar : build (rawM 0x9E m) =
      if m.f = 0#3 then some (.barArrive m)
      else if m.f = 1#3 then some (.barWait m)
      else if m.f = 2#3 then some (.barSync m)
      else if m.f = 3#3 then some (.barExpect m)
      else none := by
  conv_rhs => rw [← (mOf_rawM 0x9E m).fields]
  rfl

theorem build_fence : build (rawM 0x9F m) =
      if m.f = 1#3 then some (.fenceAcq m)
      else if m.f = 2#3 then some (.fenceRel m)
      else if m.f = 3#3 then some (.fenceAr m)
      else none := by
  conv_rhs => rw [← (mOf_rawM 0x9F m).fields]
  rfl

theorem build_acq : build (rawM 0xA0 m) =
      if m.f = 0#3 then some (.acqX m)
      else if m.f = 1#3 then some (.acqSh m)
      else none := by
  conv_rhs => rw [← (mOf_rawM 0xA0 m).fields]
  rfl

theorem build_ctinit : build (rawM 0xB0 m) =
      if m.f = 0#3 ∨ m.f = 4#3 then some (.ctinitQ m)
      else if m.f = 1#3 ∨ m.f = 5#3 then some (.ctinitR m)
      else if m.f = 2#3 then some (.ctinitExt m)
      else none := by
  conv_rhs => rw [← (mOf_rawM 0xB0 m).fields]
  rfl

theorem build_cttake : build (rawM 0xB1 m) =
      if m.f = 0#3 then some (.cttakeQ m)
      else if m.f = 1#3 then some (.cttakeR m)
      else none := by
  conv_rhs => rw [← (mOf_rawM 0xB1 m).fields]
  rfl

theorem build_mepi : build (rawY 0xD7 y) =
      if y.af = 3#4 then some (.mepiRoute y)
      else if y.af ≠ 3#4 then some (.mepi y)
      else none := by
  conv_rhs => rw [← (yOf_rawY 0xD7 y).fields]
  rfl

theorem build_mtopk : build (rawY 0xD8 y) =
      if y.f = 0#3 then some (.mtopkAcc y)
      else if y.f = 1#3 then some (.mtopkClr y)
      else if y.f = 2#3 then some (.mtopkOut y)
      else none := by
  conv_rhs => rw [← (yOf_rawY 0xD8 y).fields]
  rfl

theorem build_mchk : build (rawY 0xD9 y) =
      if y.f = 0#3 then some (.mchk y)
      else if y.f = 1#3 then some (.mchkClr y)
      else if y.f = 2#3 then some (.mchkRst y)
      else none := by
  conv_rhs => rw [← (yOf_rawY 0xD9 y).fields]
  rfl

theorem build_xdisp : build (rawX 0xE5 x) =
      if x.xmod.getLsbD 0 = false then some (.xdisp x)
      else if x.xmod.getLsbD 0 = true then some (.xdispB x)
      else none := by
  conv_rhs => rw [← (xOf_rawX 0xE5 x).fields]
  rfl

theorem build_xcomb : build (rawX 0xE6 x) =
      if x.xmod.getLsbD 0 = false then some (.xcomb x)
      else if x.xmod.getLsbD 0 = true then some (.xcombB x)
      else none := by
  conv_rhs => rw [← (xOf_rawX 0xE6 x).fields]
  rfl

theorem build_tlbinv : build (rawS 0xF0 s) =
      if s.sel = 0#12 then some (.tlbinvRange s)
      else if s.sel = 1#12 then some (.tlbinvAsid s)
      else if s.sel = 2#12 then some (.tlbinvAll s)
      else none := by
  conv_rhs => rw [← (sOf_rawS 0xF0 s).fields]
  rfl

end

/-- The words of an instruction whose selector is its row's stand for it. -/
theorem spells_of_toRaw {i : Instr} {r : Raw} (h : toRaw i = some r) (hs : i.selectorOk = true) : Spells r i := by
  cases i with
  | nop o | brx o | callx o | ret o | exit o | yield o | rett o | addW1a o | subW1a o | mulW1a o | mulhW1a o
  | madW1a o | divW1a o | remW1a o | minW1a o | maxW1a o | absW1a o | andW1a o | orW1a o | xorW1a o | andnW1a o
  | shlW1a o | shrW1a o | sarW1a o | rolW1a o | popcW1a o | clzW1a o | brevW1a o | bfxW1a o | bfiW1a o | permW1a o
  | movW1a o | movsW1a o | faddW1a o | fsubW1a o | fmulW1a o | ffmaW1a o | fminW1a o | fmaxW1a o | fcmpW1a o
  | fclassW1a o | frcpW1a o | frsqW1a o | fsqrtW1a o | fexp2W1a o | flog2W1a o | frndW1a o | cvtW1a o =>
      exact spells_plain (w1Of_rawW1 _ o) h rfl
  | trap o | dbg o | moviW1i o => exact spells_plain (iOf_rawI _ o) h rfl
  | braW1b o | callW1b o => exact spells_plain (bOf_rawB _ o) h rfl
  | bra o | brc o | call o | loop o => exact spells_plain (bwOf_rawBW _ o) h rfl
  | spawn o | launch o | join o | cmp o | sel o | shfl o | vote o | ballot o | redx o | scan o | matchOp o =>
      exact spells_plain (aOf_rawA _ o) h rfl
  | lea o | ld o | st o | ldl o | stl o | lock o | unlock o | atom o | atoml o | lease o | unlease o | wait o
  | rel o | gbind o | ctgive o | ctread o | ctpeek o | ctdrop o | mldt o =>
      exact spells_plain (mOf_rawM _ o) h rfl
  | kopen o | knext o | kseek o | ksetp o | kdesc o | kcoit o | ksplit o | kcrd o | kpos o | kval o | kapp o
  | kapm o | kclose o | kmov o => exact spells_plain (kOf_rawK _ o) h rfl
  | mfill o | mldw o | mswap o | mmul o | mzero o | mrd o | mwr o => exact spells_plain (yOf_rawY _ o) h rfl
  | xcopy o | xstore o | xgather o | xscat o | xmcast o => exact spells_plain (xOf_rawX _ o) h rfl
  | csrr o | csrw o | icinv o | mark o => exact spells_plain (sOf_rawS _ o) h rfl
  | add o | sub o | mul o | mulh o | mad o | divOp o | remOp o | minOp o | maxOp o | absOp o | andOp o | orOp o
  | xorOp o | andn o | shl o | shr o | sar o | rol o | popc o | clz o | brev o | bfx o | bfi o | perm o | mov o
  | movi o | movs o | fadd o | fsub o | fmul o | ffma o | fmin o | fmax o | fcmp o | fclass o | frcp o | frsq o
  | fsqrt o | fexp2 o | flog2 o | frnd o | cvt o => exact spells_long (aOf_rawA _ o) (lenOf_ne_zero o.imm) h rfl
  | prefL1 o | prefLlc o | cleanL1 o | cleanMem o | dropL1 o | dropLlc o | barArrive o | barWait o | barSync o
  | barExpect o | fenceAcq o | fenceRel o | fenceAr o | acqX o | acqSh o | ctinitQ o | ctinitExt o | cttakeQ o
  | cttakeR o =>
      have hs := of_decide_eq_true hs
      refine spells_row (mOf_rawM _ o) h ?_
      simp [build_pref, build_clean, build_drop, build_bar, build_fence, build_acq, build_ctinit, build_cttake, hs]
  | ctinitR o =>
      refine spells_row (mOf_rawM _ o) h ?_
      rcases of_decide_eq_true hs with hs | hs <;> simp [build_ctinit, hs]
  | mepi o | mepiRoute o | mtopkAcc o | mtopkClr o | mtopkOut o | mchk o | mchkClr o | mchkRst o =>
      have hs := of_decide_eq_true hs
      refine spells_row (yOf_rawY _ o) h ?_
      simp [build_mepi, build_mtopk, build_mchk, hs]
  | xdisp o | xdispB o | xcomb o | xcombB o =>
      have hs := of_decide_eq_true hs
      refine spells_row (xOf_rawX _ o) h ?_
      simp only [build_xdisp, build_xcomb, hs, reduceCtorEq, reduceIte]
  | tlbinvRange o | tlbinvAsid o | tlbinvAll o =>
      have hs := of_decide_eq_true hs
      refine spells_row (sOf_rawS _ o) h ?_
      simp [build_tlbinv, hs]
  | _ => exact nomatch h

/-! ### Bytes -/

theorem wordAt_leBytes (w : BitVec 32) (rest : List Byte) : wordAt (leBytes 4 w.toNat ++ rest) = w := by
  have h : (leBytes 4 w.toNat ++ rest).take 4 = leBytes 4 w.toNat := List.take_left' (leBytes_length 4 _)
  rw [wordAt, h, ofLe_leBytes, Nat.mod_eq_of_lt (by exact w.isLt)]
  simp

theorem drop_leBytes (w : BitVec 32) (rest : List Byte) (n : Nat) :
    (leBytes 4 w.toNat ++ rest).drop (4 + n) = rest.drop n := by
  rw [← List.drop_drop, List.drop_left' (leBytes_length 4 _)]

theorem lenBytes_word0 (r : Raw) : lenBytes r.word0 = if r.len = 1#2 then 8 else if r.len = 2#2 then 12 else 4 := by
  simp only [lenBytes, word0_len]

theorem length_wordBytes (ws : List (BitVec 32)) : (wordBytes ws).length = 4 * ws.length := by
  induction ws with
  | nil => rfl
  | cons w t ih => simp [wordBytes, leBytes_length, ih]; omega

/-- Bytes whose first word states how many words stand there decode as those words do, and leave the rest. -/
theorem decode_wordBytes {w0 : BitVec 32} {ws : List (BitVec 32)} {rest : List Byte} {i : Instr}
    (hn : lenBytes w0 = 4 * (ws.length + 1))
    (h : decodeWords w0 (wordAt (wordBytes ws ++ rest)) (wordAt ((wordBytes ws ++ rest).drop 4)) = .ok i) :
    decode (wordBytes (w0 :: ws) ++ rest) = .ok (i, rest) := by
  have hl : (wordBytes (w0 :: ws) ++ rest).length = 4 * (ws.length + 1) + rest.length := by
    simp [length_wordBytes]
  have e0 : wordAt (wordBytes (w0 :: ws) ++ rest) = w0 := by
    rw [wordBytes, List.append_assoc, wordAt_leBytes]
  have e1 : (wordBytes (w0 :: ws) ++ rest).drop 4 = wordBytes ws ++ rest := by
    rw [wordBytes, List.append_assoc]
    exact drop_leBytes w0 _ 0
  have e2 : (wordBytes (w0 :: ws) ++ rest).drop 8 = (wordBytes ws ++ rest).drop 4 := by
    rw [← e1, List.drop_drop]
  have er : (wordBytes (w0 :: ws) ++ rest).drop (lenBytes w0) = rest :=
    List.drop_left' (by rw [hn, length_wordBytes, List.length_cons])
  unfold decode
  rw [if_neg (by omega)]
  simp only [e0, e1, e2, er, h]
  rw [if_neg (by omega)]

theorem decodeWords_of_build {w0 w1 w2 : BitVec 32} {r : Raw} {i : Instr} (hr : rawOfWords w0 w1 w2 = r)
    (hc : rawCheck r = none) (hb : build r = some i) : decodeWords w0 w1 w2 = .ok i := by
  simp only [decodeWords, hr, hc, hb]

theorem decodeWords_ok {w0 w1 w2 : BitVec 32} {i : Instr} (h : decodeWords w0 w1 w2 = .ok i) :
    rawCheck (rawOfWords w0 w1 w2) = none ∧ build (rawOfWords w0 w1 w2) = some i := by
  simp only [decodeWords] at h
  split at h
  · cases h
  · next hc =>
    split at h
    · next hb => exact ⟨hc, hb.trans (congrArg some (Except.ok.inj h))⟩
    · cases h

theorem wf_iff {i : Instr} : i.wf = true ↔ ∃ r, toRaw i = some r ∧ rawCheck r = none ∧ i.selectorOk = true := by
  unfold Instr.wf
  split <;> simp_all

/-! ### The obligations -/

/-- Settles O2: the words of a well-formed instruction stand for it (`spells_of_toRaw`), and its bytes are those words. -/
theorem encodeThenDecode : Obligations.EncodeThenDecode := by
  intro i rest hwf
  obtain ⟨r, hr, hc, hs⟩ := wf_iff.mp hwf
  obtain ⟨ht, hb⟩ := spells_of_toRaw hr hs
  simp only [encode, hr]
  split
  · next h0 =>
    refine decode_wordBytes (by simp [lenBytes_word0, h0]) (decodeWords_of_build (rawOfWords_word0 ht ?_ ?_) hc hb)
    · simp [h0]
    · simp [h0]
  · split
    · next h1 =>
      refine decode_wordBytes (by simp [lenBytes_word0, h1]) (decodeWords_of_build (rawOfWords_word0 ht ?_ ?_) hc hb)
      · simp [wordBytes, wordAt_leBytes]
      · simp [h1]
    · next h0 h1 =>
      have h2 := len_eq_two h0 h1 (accepted hc).1
      refine decode_wordBytes (by simp [lenBytes_word0, h2]) (decodeWords_of_build (rawOfWords_word0 ht ?_ ?_) hc hb)
      · simp [wordBytes, wordAt_leBytes]
      · intro
        rw [wordBytes, List.append_assoc, drop_leBytes _ _ 0]
        simp [wordBytes, wordAt_leBytes]

/-- Settles O3: accepted words are those of the constructor that they stand for (`toRaw_of_build`), and word 0 keeps every
field. -/
theorem decodeThenEncode : Obligations.DecodeThenEncode := by
  intro w0 w1 w2 i h
  obtain ⟨hc, hb⟩ := decodeWords_ok h
  obtain ⟨hr, hs⟩ := toRaw_of_build (trimmed_rawOfWords w0 w1 w2) hc hb
  refine ⟨wf_iff.mpr ⟨_, hr, hc, hs⟩, ?_⟩
  have h3 : w0.extractLsb' 0 2 ≠ 3#2 := (accepted hc).1
  simp only [encode, hr, word0_rawOfWords]
  split
  · next h0 =>
    have h0 : w0.extractLsb' 0 2 = 0#2 := h0
    simp [lenBytes, h0]
  · split
    · next h1 =>
      have h1 : w0.extractLsb' 0 2 = 1#2 := h1
      simp [lenBytes, rawOfWords, h1]
    · next h0 h1 =>
      have h2 : w0.extractLsb' 0 2 = 2#2 := len_eq_two h0 h1 h3
      simp [lenBytes, rawOfWords, h2]

/-- Settles O4: LEN = 11 and the opcode map come first among the checks; the all-zero word is the NOP with guard 0. -/
theorem reservedWordsAreIllegal : Obligations.ReservedWordsAreIllegal := by
  refine ⟨fun w0 w1 w2 h => ?_, fun w0 w1 w2 h ho => ?_, rfl, fun w1 w2 => ?_⟩
  · simp only [decodeWords, rawCheck_len (r := rawOfWords w0 w1 w2) h]
  · simp only [decodeWords, rawCheck_op (r := rawOfWords w0 w1 w2) h ho]
  · have hr : rawOfWords 0#32 w1 w2 = rawOfWords 0#32 0#32 0#32 := rfl
    have hc : rawCheck (rawOfWords 0#32 0#32 0#32) = some 4 := by decide
    simp only [decodeWords, hr, hc]

/-! ### Guards (O5) -/

/-- The instructions that take a guard (R57). -/
def takesGuard (i : Instr) : Bool :=
  match i with
  | .sel _ | .st _ | .stl _ | .braW1b _ | .bra _ | .brc _ | .brx _ | .callW1b _ | .call _ | .callx _ | .atom _ | .atoml _ => true
  | _ => false

/-- An opcode that takes a guard is one of theirs. -/
theorem takesGuard_of_opInfo {i : Instr} {r : Raw} {oi : OpInfo} (h : toRaw i = some r)
    (ho : opInfo r.op.toNat = some oi) (hg : oi.guard = true) : takesGuard i = true := by
  cases i with
  | sel _ | st _ | stl _ | braW1b _ | bra _ | brc _ | brx _ | callW1b _ | call _ | callx _ | atom _ | atoml _ => rfl
  | _ => cases h <;> cases Option.some.inj (ho.symm.trans rfl) <;> cases hg

/-- Their opcodes take a guard, and no guard changes that the words stand for an instruction. -/
theorem opInfo_of_takesGuard {i : Instr} {r : Raw} (h : toRaw i = some r) (ht : takesGuard i = true) (g : BitVec 4) :
    (∃ oi, opInfo r.op.toNat = some oi ∧ oi.guard = true) ∧ ∃ j, build { r with g := g } = some j := by
  cases i with
  | sel _ | st _ | stl _ | braW1b _ | bra _ | brc _ | brx _ | callW1b _ | call _ | callx _ | atom _ | atoml _ =>
    obtain rfl := Option.some.inj h
    exact ⟨⟨_, rfl, rfl⟩, _, rfl⟩
  | _ => exact nomatch ht

/-- Whether words are accepted does not rest on the guard, where their opcode takes one. -/
theorem rawCheck_guard {r : Raw} {oi : OpInfo} (ho : opInfo r.op.toNat = some oi) (hg : oi.guard = true) (g : BitVec 4)
    (hc : rawCheck r = none) : rawCheck { r with g := g } = none := by
  have e : ∀ q : Raw, chkGuard q oi = true := by
    simp [chkGuard, hg]
  simp only [rawCheck, ho, e] at hc ⊢
  exact hc

theorem extractLsb'_extractLsb' {w s l i k : Nat} (x : BitVec w) (h : i + k ≤ l) :
    (x.extractLsb' s l).extractLsb' i k = x.extractLsb' (s + i) k := by
  ext j hj
  have : i + j < l := by omega
  simp [BitVec.getElem_extractLsb', this, Nat.add_assoc]

theorem rawOfWords_guard (w0 w1 w2 : BitVec 32) (g : BitVec 4) :
    rawOfWords (w0.extractLsb' 15 17 ++ g ++ w0.extractLsb' 0 11) w1 w2 = { rawOfWords w0 w1 w2 with g := g } := by
  simp (disch := omega) only [rawOfWords, BitVec.extractLsb'_append_eq_of_le,
    BitVec.extractLsb'_append_eq_of_add_le, BitVec.extractLsb'_eq_self, Nat.reduceSub, extractLsb'_extractLsb',
    Nat.zero_add]

/-- With G = 1111 the guard is that p7, which is true, does not hold (R9, R20). -/
theorem guarded_never (st : Strand) : st.guarded 15#4 = [] := by
  refine List.filter_eq_nil_iff.mpr fun t ht => ?_
  have hp : bit (st.p 7) t = true := by
    rw [bit_testBit]
    exact (Nat.testBit_two_pow_sub_one 64 t).trans (decide_eq_true (mem_active st t ht))
  simpa [Strand.guard, bit] using hp

/-- Settles O5: a guard other than 0111 passes only where the opcode takes one, and there no other check looks at it. -/
theorem onlyTheListedTakeAGuard : Obligations.OnlyTheListedTakeAGuard := by
  refine ⟨fun w0 w1 w2 i h hg => ?_, fun w0 w1 w2 i g h hi => ?_, guarded_never⟩
  · obtain ⟨hc, hb⟩ := decodeWords_ok h
    obtain ⟨hr, -⟩ := toRaw_of_build (trimmed_rawOfWords w0 w1 w2) hc hb
    obtain ⟨-, oi, ho, -, hk⟩ := accepted hc
    have hk : oi.guard = true := by
      simp only [chkGuard, Bool.or_eq_true, beq_iff_eq] at hk
      exact hk.resolve_right hg
    have ht := takesGuard_of_opInfo hr ho hk
    unfold takesGuard at ht
    split at ht
    case h_13 => cases ht
    all_goals trivial
  · obtain ⟨hc, hb⟩ := decodeWords_ok h
    obtain ⟨hr, -⟩ := toRaw_of_build (trimmed_rawOfWords w0 w1 w2) hc hb
    have ht : takesGuard i = true := by
      unfold takesGuard
      split at hi <;> trivial
    obtain ⟨⟨oi, ho, hk⟩, j, hj⟩ := opInfo_of_takesGuard hr ht g
    exact ⟨j, decodeWords_of_build (rawOfWords_guard w0 w1 w2 g) (rawCheck_guard ho hk g hc) hj⟩

/-- Settles O1: each of the words is read bit by bit. -/
theorem writtenOutWordsDecode : Obligations.WrittenOutWordsDecode := by
  unfold Obligations.WrittenOutWordsDecode
  decide

/-! ## A step runs the decoded instruction (O10) -/

/-- Where nothing else comes first at the boundary, the turn is to run the instruction that the words at the PC decode to. -/
theorem boundary_run {s s1 : State} {sid : Nat} {w0 w1 w2 : BitVec 32} {i : Instr} {st : Strand}
    (hst : ((s.unlaunch sid).strand sid).unheld.atJoin = st) (hm : st.amask ≠ 0) (ha : st.awaiting = none)
    (hf : ({ (s.unlaunch sid).setStrand sid st with cur := sid }).fetchInstr sid st.pc.toNat = (.ok w0 w1 w2, s1))
    (hd : decodeWords w0 w1 w2 = .ok i) : s.boundary sid = .run i s1 := by
  subst hst
  unfold State.boundary
  simp only [if_neg hm, ha, hf, hd]

/-- A strand that may run, before which no ready strand of its quadrant goes, takes its turn (R132, R133). -/
theorem issueTurn_run {s s1 t : State} {sid : Nat} {i : Instr} (hb : s.boundary sid = .run i s1) (he : exec i s1 = .next t)
    (hr : ∀ q ∈ s.rivals sid, s.goesBefore (s.strand q) (s.strand sid) = false) :
    s.issueTurn sid = .next (if s1.heldIn sid i t then t.looked sid else t.issued sid (s.rivals sid)) := by
  have ht : s.tryTurn sid = (s1.heldIn sid i t, .next t) := by
    unfold State.tryTurn
    simp only [hb, he]
  have hn : (s.rivals sid).any (fun q => s.goesBefore (s.strand q) (s.strand sid)) = false := by
    simpa using hr
  unfold State.issueTurn
  simp only [ht]
  cases s1.heldIn sid i t with
  | true => rfl
  | false =>
    simp only [hn]
    rfl

/-- Settles O10: the move that heads the agenda is the strand's turn. -/
theorem stepRunsTheDecodedInstruction : Obligations.StepRunsTheDecodedInstruction := by
  intro s s1 t sid rest w0 w1 w2 i now here st hag hh hmay hstall hturned hm ha hf hd he hr
  have hi : now.issueTurn sid = _ := issueTurn_run (boundary_run rfl hm ha hf hd) he hr
  have hmove : now.move (.issue sid) = now.issueTurn sid := by
    have h1 : now.turned.contains (now.strand sid).quadKey = false := hturned
    have h2 : ((now.strand sid).mayTurn && decide ((now.strand sid).stallUntil ≤ now.cycle)) = true :=
      Bool.and_eq_true_iff.mpr ⟨hmay, decide_eq_true hstall⟩
    unfold State.move
    simp only [h1, h2]
    rfl
  unfold step State.turn
  simp only [hag, hh, Bool.false_and]
  exact congrArg (onNext · State.attend) (hmove.trans hi)

end Sys2Proof.Proofs

namespace Sys2Proof.Proofs

open Sys2Proof.Machine Sys2Proof.Laws

/-! ## Translations and copies arrive (O54) -/

/-! ### The last-level cache: what touches nothing but the homes -/

/-- Nothing but the homes differs between two states. -/
def OnlyHomes (s t : State) : Prop := t = { s with homes := t.homes }

theorem onlyHomes_refl (s : State) : OnlyHomes s s := rfl

theorem onlyHomes_trans {s t u : State} (h : OnlyHomes s t) (h' : OnlyHomes t u) : OnlyHomes s u := by
  unfold OnlyHomes at *
  rw [h', h]

theorem setTag_onlyHomes (s : State) (k : Nat) (t : Option Tag) : OnlyHomes s (s.setTag k t) := rfl

theorem count_onlyHomes (s : State) (l w n : Nat) : OnlyHomes s (s.count l w n) := rfl

theorem hbmSettle_onlyHomes (s : State) (l : Nat) (w : Bool) : OnlyHomes s (s.hbmSettle l w) := by
  unfold State.hbmSettle
  simp only
  split <;> rfl

/-- A loop whose every round, for an element of its list, touches nothing but the homes. -/
theorem forEach_onlyHomes {α : Type} {l : List α} {f : State → α → State} (s : State)
    (hf : ∀ x, ∀ a ∈ l, OnlyHomes x (f x a)) : OnlyHomes s (forEach l s f) := by
  induction l generalizing s with
  | nil => exact onlyHomes_refl s
  | cons a t ih =>
    exact onlyHomes_trans (hf s a (.head _)) (ih _ fun x b hb => hf x b (.tail _ hb))

theorem touch_onlyHomes (s : State) (l k : Nat) : OnlyHomes s (s.touch l k) := by
  unfold State.touch
  refine forEach_onlyHomes s fun x p _ => ?_
  split_ifs <;> rfl

theorem dropTag_onlyHomes (s : State) (l k : Nat) : OnlyHomes s (s.dropTag l k) := by
  unfold State.dropTag
  split
  · rfl
  · refine onlyHomes_trans (hbmSettle_onlyHomes s _ _)
      (onlyHomes_trans (setTag_onlyHomes _ k none) (forEach_onlyHomes _ fun x p _ => ?_))
    split_ifs <;> rfl

theorem makeRoom_onlyHomes (s : State) (l k need fuel n : Nat) : OnlyHomes s (s.makeRoom l k need fuel n).1 := by
  induction fuel generalizing s n with
  | zero => rfl
  | succ fuel ih =>
    unfold State.makeRoom
    split
    · rfl
    · split
      · rfl
      · exact onlyHomes_trans (dropTag_onlyHomes ..) (ih ..)

theorem fillWith_onlyHomes (s : State) (l : Nat) (bs : List Byte) : OnlyHomes s (s.fillWith l bs) := by
  unfold State.fillWith
  split
  · exact touch_onlyHomes ..
  · extract_lets u
    have room : OnlyHomes s u := by
      unfold u
      split
      · rfl
      · split
        · exact dropTag_onlyHomes ..
        · rfl
    clear_value u
    split
    · exact room
    · simp only
      split
      · exact onlyHomes_trans room (makeRoom_onlyHomes ..)
      · exact onlyHomes_trans room (onlyHomes_trans (makeRoom_onlyHomes ..)
          (onlyHomes_trans (setTag_onlyHomes ..) (onlyHomes_trans (count_onlyHomes ..) (touch_onlyHomes ..))))

theorem mem_of_kvGet {m : KV (Option Tag)} {k : Nat} {t : Tag} (h : kvGet none m k = some t) : (k, some t) ∈ m := by
  induction m with
  | nil => cases h
  | cons p m ih =>
    obtain ⟨a, v⟩ := p
    unfold kvGet at h
    split at h
    · next e => exact e ▸ h ▸ .head _
    · exact .tail _ (ih h)

/-- A tag that a line's set holds is one of the tags of the homes. -/
theorem mem_tags_of_mem_setTags {s : State} {l : Nat} {p : Nat × Tag} (h : p ∈ s.setTags l) :
    (p.1, some p.2) ∈ s.homes.tags := by
  simp only [State.setTags, List.mem_filterMap, Option.map_eq_some_iff, State.tag, Option.filter_eq_some_iff] at h
  obtain ⟨w, -, t, ⟨ht, -⟩, rfl⟩ := h
  exact mem_of_kvGet ht

/-- Where no tag has lost both of its copies, recovery loses no line, and so writes no memory (R449). -/
theorem recoverSet_onlyHomes {s : State} (l : Nat) (h : NoTagLost s) : OnlyHomes s (s.recoverSet l) := by
  unfold State.recoverSet
  refine forEach_onlyHomes s fun x p hp => ?_
  have hb : ¬ (p.2.bad1 && p.2.bad2) = true := by
    simp [h _ _ (mem_tags_of_mem_setTags hp)]
  simp only [if_neg hb]
  split_ifs
  · exact onlyHomes_trans (hbmSettle_onlyHomes ..) (setTag_onlyHomes ..)
  · exact dropTag_onlyHomes ..
  · exact setTag_onlyHomes ..
  · rfl

theorem llcRead_onlyHomes {s : State} (l : Nat) (h : NoTagLost s) : OnlyHomes s (s.llcRead l) :=
  onlyHomes_trans (recoverSet_onlyHomes l h) (fillWith_onlyHomes ..)

/-- LLC_FILL (R398). -/
theorem execLlcFill_onlyHomes {s : State} (l : Nat) (h : NoTagLost s) :
    ∃ t, execLlcFill l s = .next t ∧ OnlyHomes s t := by
  refine ⟨_, rfl, ?_⟩
  split
  · exact llcRead_onlyHomes l h
  · rfl

/-! ### Leaves -/

/-- PAGE_WALK looks for a leaf where the host does not translate and no entry serves the page (R376, R378). -/
theorem pageWalk_looks {s : State} {die asid va : Nat} (hm : s.hostMode 0 = false) (hv : va < 2 ^ 56) (hd : die < 2)
    (ht : ∀ e ∈ kvGet [] s.xlate.dieTlb die, e.serves asid va = false) :
    ¬ (s.hostMode 0 || 2 ^ 56 ≤ va || 2 ≤ die || (kvGet [] s.xlate.dieTlb die).any (fun e => e.serves asid va)) = true := by
  simp only [Bool.or_eq_true, decide_eq_true_eq, List.any_eq_true, not_or, not_exists, not_and, hm]
  exact ⟨⟨⟨by simp, by omega⟩, by omega⟩, fun e he => by simp [ht e he]⟩

/-- PAGE_WALK that finds a leaf enters it. -/
theorem execPageWalk_leaf {s u : State} {die asid vpage pte size : Nat} (hm : s.hostMode 0 = false)
    (hv : vpage * 65536 < 2 ^ 56) (hd : die < 2)
    (ht : ∀ e ∈ kvGet [] s.xlate.dieTlb die, e.serves asid (vpage * 65536) = false)
    (hw : s.walk die asid (vpage * 65536) = (.leaf pte size, u)) :
    execPageWalk die asid vpage s = .next (u.enterLeaf die none asid (vpage * 65536) pte size) := by
  simp only [execPageWalk, if_neg (pageWalk_looks hm hv hd ht), hw]

/-- PAGE_WALK that finds none enters nothing. -/
theorem execPageWalk_noLeaf {s u : State} {die asid vpage : Nat} {w : WalkR} (hm : s.hostMode 0 = false)
    (hv : vpage * 65536 < 2 ^ 56) (hd : die < 2)
    (ht : ∀ e ∈ kvGet [] s.xlate.dieTlb die, e.serves asid (vpage * 65536) = false)
    (hw : s.walk die asid (vpage * 65536) = (w, u)) (hn : ∀ pte size, w ≠ .leaf pte size) :
    execPageWalk die asid vpage s = .next u := by
  cases w with
  | leaf pte size => exact absurd rfl (hn pte size)
  | _ => simp only [execPageWalk, if_neg (pageWalk_looks hm hv hd ht), hw]

/-- What entering leaves keeps of a state, and the entry that comes first in the die's TLB. -/
structure LeafEntered (s t : State) (die : Nat) (e : Tlb) : Prop where
  mem : t.mem = s.mem
  strands : t.strands = s.strands
  requests : t.xlate.requests = s.xlate.requests
  nones : t.xlate.nones = s.xlate.nones
  head : (kvGet [] t.xlate.dieTlb die).head? = some e

theorem enterLeaf_head (s : State) (die : Nat) (cl : Option Nat) (asid va pte size : Nat) :
    (kvGet [] (s.enterLeaf die cl asid va pte size).xlate.dieTlb die).head? = some ⟨asid, va / size * size, size, pte⟩ := by
  have h : (kvGet [] (s.tlbNoteDie die ⟨asid, va / size * size, size, pte⟩).xlate.dieTlb die).head?
      = some ⟨asid, va / size * size, size, pte⟩ := by
    simp [State.tlbNoteDie, tlbPut]
  cases cl <;> exact h

theorem enterLeaf_keeps (s : State) (die : Nat) (cl : Option Nat) (asid va pte size : Nat) :
    let t := s.enterLeaf die cl asid va pte size
    t.mem = s.mem ∧ t.strands = s.strands ∧ t.xlate.requests = s.xlate.requests ∧ t.xlate.nones = s.xlate.nones := by
  cases cl <;> exact ⟨rfl, rfl, rfl, rfl⟩

/-- A leaf entered for each of the parties that asked, of which there is one, stands first in the die's TLB. -/
theorem forEach_enterLeaf {qs : List XAsk} (hq : qs ≠ []) (s : State) (die asid va pte size : Nat) :
    LeafEntered s (forEach qs s (fun s q => s.enterLeaf die (some (clusterOf q.core)) asid va pte size)) die
      ⟨asid, va / size * size, size, pte⟩ := by
  have round (x : State) (q : XAsk) (hx : x.mem = s.mem ∧ x.strands = s.strands ∧ x.xlate.requests = s.xlate.requests
      ∧ x.xlate.nones = s.xlate.nones) :
      LeafEntered s (x.enterLeaf die (some (clusterOf q.core)) asid va pte size) die ⟨asid, va / size * size, size, pte⟩ := by
    obtain ⟨h1, h2, h3, h4⟩ := enterLeaf_keeps x die (some (clusterOf q.core)) asid va pte size
    obtain ⟨g1, g2, g3, g4⟩ := hx
    exact ⟨h1.trans g1, h2.trans g2, h3.trans g3, h4.trans g4, enterLeaf_head ..⟩
  cases qs with
  | nil => exact absurd rfl hq
  | cons q qs =>
    exact forEach_keeps (LeafEntered s · die _) qs _ _ (round s q ⟨rfl, rfl, rfl, rfl⟩)
      (fun x q hx => round x q ⟨hx.mem, hx.strands, hx.requests, hx.nones⟩)

/-- HOST_TRANSLATION_ANSWER with a well-formed leaf, for a page that waits (R377, R378). -/
theorem execHostTranslationAnswer_good {s : State} {die asid vpage size : Nat} {pte : DWord} {mine : XAsk → Bool}
    (hm : mine = fun q => q.die == die && q.asid == asid && q.page == vpage * 65536)
    (hq : s.xlate.requests.filter mine ≠ []) (hs : size ∈ [2 ^ 30, 2 ^ 21, 2 ^ 16]) (hp : leafOk pte.toNat size = true) :
    ∃ t, execHostTranslationAnswer die asid vpage (some (pte, size)) s = .next t
      ∧ LeafEntered { s with xlate := { s.xlate with requests := s.xlate.requests.filter (fun q => !mine q) } } t die
          ⟨asid, vpage * 65536 / size * size, size, pte.toNat⟩ := by
  subst hm
  refine ⟨_, ?_, forEach_enterLeaf hq _ die asid (vpage * 65536) pte.toNat size⟩
  have hg : ([2 ^ 30, 2 ^ 21, 2 ^ 16].contains size && leafOk pte.toNat size) = true := by
    rw [List.contains_iff_mem.mpr hs, hp]
    rfl
  unfold execHostTranslationAnswer
  simp only [if_neg hq, if_pos hg]

/-- The state that notes an answer of none for each party that asked (R377, R379; log 22). -/
def notedNone (s : State) (mine : XAsk → Bool) : State :=
  { s with xlate := { s.xlate with
      requests := s.xlate.requests.filter (fun q => !mine q)
      nones := s.xlate.nones.filter (fun n => decide (s.cycle / 64 ≤ n.2 + 1))
        ++ (s.xlate.requests.filter mine).map (fun q => (q, s.cycle / 64)) } }

/-- HOST_TRANSLATION_ANSWER with none, or with a malformed leaf. -/
theorem execHostTranslationAnswer_none {s : State} {die asid vpage : Nat} {leaf : Option (DWord × Nat)}
    {mine : XAsk → Bool} (hm : mine = fun q => q.die == die && q.asid == asid && q.page == vpage * 65536)
    (hq : s.xlate.requests.filter mine ≠ [])
    (hb : ¬ ∃ p, leaf = some p ∧ p.2 ∈ [2 ^ 30, 2 ^ 21, 2 ^ 16] ∧ leafOk p.1.toNat p.2 = true) :
    execHostTranslationAnswer die asid vpage leaf s = .next (notedNone s mine) := by
  subst hm
  unfold execHostTranslationAnswer
  simp only [if_neg hq]
  cases leaf with
  | none => rfl
  | some p =>
    have hg : ¬ ([2 ^ 30, 2 ^ 21, 2 ^ 16].contains p.2 && leafOk p.1.toNat p.2) = true := by
      rw [Bool.and_eq_true, List.contains_iff_mem]
      exact fun h => hb ⟨p, rfl, h⟩
    simp only [if_neg hg]
    rfl

/-! ### Probes and counters -/

theorem reading_waits {st : Strand} {dst : Nat} {q : LlcSum} (h : st.waiting = .llc dst q) : st.reading dst = some q := by
  simp [Strand.reading, h]

theorem reading_none {st : Strand} {dst : Nat} (h : ∀ q, st.waiting ≠ .llc dst q) : st.reading dst = none := by
  unfold Strand.reading
  split
  · next d q hw => exact if_neg fun e => h q (by rw [hw, e])
  · rfl

/-- What a counter has read after its next slice, while it has one (R406). -/
def nextSum (s : State) (csr sel : Nat) (q : LlcSum) : LlcSum :=
  if q.slices < (llcSlices csr sel).2 then s.llcSlice (csr % 16) ((llcSlices csr sel).1 + q.slices) q else q

theorem nextSum_done (s : State) {csr sel : Nat} {q : LlcSum} (h : (llcSlices csr sel).2 ≤ q.slices) :
    nextSum s csr sel q = q := if_neg (Nat.not_lt.mpr h)

theorem nextSum_next (s : State) {csr sel : Nat} {q : LlcSum} (h : q.slices < (llcSlices csr sel).2) :
    nextSum s csr sel q = s.llcSlice (csr % 16) ((llcSlices csr sel).1 + q.slices) q := if_pos h

theorem llcSlice_slices (s : State) (c slice : Nat) (q : LlcSum) : (s.llcSlice c slice q).slices = q.slices + 1 := rfl

/-- LLC_PROBE for a strand that waits (R405, R415). -/
theorem execLlcProbe_reads {s : State} {sid dst : Nat} {q : LlcSum} (hw : (s.strand sid).waiting = .llc dst q) :
    execLlcProbe sid dst s = .next (
      if s.flipHold then s.push (.llcProbe sid dst)
      else (s.noteWts ((s.strand sid).llcprba.toNat / 128) (s.strand sid).core).llcReturn sid dst
        (s.llcProbeOf (s.strand sid).llcprba.toNat)) := by
  unfold execLlcProbe
  simp only [reading_waits hw]

/-- LLC_COUNTER_READ for a strand that waits (R406, R415). -/
theorem execLlcCounterRead_reads {s : State} {sid csr dst : Nat} {q : LlcSum} (hw : (s.strand sid).waiting = .llc dst q)
    (hc : llcCsr csr = true) (hn : csr ≠ 0x962) :
    execLlcCounterRead sid csr dst s = .next (
      if s.flipHold then s.push (.llcCounterRead sid csr dst)
      else if (nextSum s csr (s.strand sid).llcslsel.toNat q).slices < (llcSlices csr (s.strand sid).llcslsel.toNat).2 then
        (s.modStrand sid (fun st => { st with waiting := .llc dst (nextSum s csr (s.strand sid).llcslsel.toNat q) })).push
          (.llcCounterRead sid csr dst)
      else s.llcReturn sid dst ((nextSum s csr (s.strand sid).llcslsel.toNat q).value (csr % 16))) := by
  unfold execLlcCounterRead
  simp only [reading_waits hw, hc, Bool.not_true, beq_eq_false_iff_ne.mpr hn, Bool.or_self, nextSum]
  rfl

/-! ### Copies -/

/-- A cache or core that there is not brings nothing. -/
theorem bring_none (s : State) {core cache : Nat} (asid vline : Nat) (p : Nat → Bool)
    (h : cache = 6 ∨ 8 ≤ cache ∨ 192 ≤ core) : s.bring core cache asid vline p = s := if_pos h

/-- A line whose address leads to memory that satisfies the test is brought into the cache. -/
theorem bring_hit {s u : State} {core cache asid vline pa perms : Nat} (p : Nat → Bool)
    (h : ¬ (cache = 6 ∨ 8 ≤ cache ∨ 192 ≤ core))
    (ha : s.access ⟨core, none, asid, true⟩ (vline * 128) needR 0 = (.hit pa perms, u)) :
    s.bring core cache asid vline p
      = if p pa then (u.ensure ⟨core, none, asid, true⟩ cache (vline * 128) (2 ^ 128 - 1) needR 0).2 else u := by
  unfold State.bring
  simp only [if_neg h, ha]

/-- A word in a line that the instruction cache holds is read from there (R45). -/
theorem fetchReadsTheInstructionCache : FetchReadsTheInstructionCache := by
  intro s sid va c hc
  have hw : s.who sid = ⟨(s.strand sid).core, some sid, s.asidOf (s.strand sid), s.isSystem (s.strand sid)⟩ := rfl
  unfold State.fetchWord
  simp only [hw, hc]
  cases permFault c.perms needX (s.isSystem (s.strand sid)) 2 <;> rfl

/-! ### The obligation -/

/-- Settles O54: each event by its own law above. -/
theorem translationsAndCopiesArrive : Obligations.TranslationsAndCopiesArrive := by
  refine ⟨fun s die asid vpage => ⟨?_, ?_, ?_⟩, fun s line => ⟨?_, ?_⟩, fun s sid dst => ⟨?_, ?_⟩,
    fun s core cache asid vline => ⟨?_, ?_⟩, fetchReadsTheInstructionCache⟩
  · intro h
    refine if_pos ?_
    simpa [or_assoc] using h
  · intro hm hv hd ht
    exact ⟨fun pte size u hw => execPageWalk_leaf hm hv hd ht hw,
      fun c u hw => execPageWalk_noLeaf hm hv hd ht hw (by simp),
      fun u hw => execPageWalk_noLeaf hm hv hd ht hw (by simp)⟩
  · intro leaf
    refine ⟨fun h => ?_, fun ⟨q, hq, ha⟩ => ?_⟩
    · refine if_pos (List.filter_eq_nil_iff.mpr fun q hq => ?_)
      simpa using h q hq
    · have hne : s.xlate.requests.filter (fun q => q.die == die && q.asid == asid && q.page == vpage * 65536) ≠ [] :=
        List.ne_nil_of_mem (List.mem_filter.mpr ⟨hq, ha⟩)
      by_cases hg : ∃ p, leaf = some p ∧ p.2 ∈ [2 ^ 30, 2 ^ 21, 2 ^ 16] ∧ leafOk p.1.toNat p.2 = true
      · obtain ⟨⟨pte, size⟩, rfl, hs, hp⟩ := id hg
        obtain ⟨t, ht, he⟩ := execHostTranslationAnswer_good rfl hne hs hp
        exact ⟨t, ht, he.requests, he.mem, he.strands, fun _ => ⟨he.nones, _, rfl, he.head⟩, fun h => absurd hg h⟩
      · exact ⟨_, execHostTranslationAnswer_none rfl hne hg, rfl, rfl, rfl, fun h => absurd h hg, fun _ => ⟨rfl, rfl⟩⟩
  · intro h
    exact congrArg Host.Outcome.next (if_neg (by simp [h]))
  · intro h
    obtain ⟨t, ht, e⟩ := execLlcFill_onlyHomes line h
    exact ⟨t, ht, e ▸ rfl, e ▸ rfl, e ▸ rfl, e ▸ rfl⟩
  · intro q hq
    refine ⟨fun hf => ?_, fun hf => ?_, fun csr hc hn => ?_⟩
    · rw [show exec (.llcProbe sid dst) s = _ from execLlcProbe_reads hq, if_neg (by simp [hf])]
      rfl
    · rw [show exec (.llcProbe sid dst) s = _ from execLlcProbe_reads hq, if_pos hf]
    · rw [show exec (.llcCounterRead sid csr dst) s = _ from execLlcCounterRead_reads hq hc hn]
      refine ⟨fun hf => ?_, fun hf hd => ?_, fun hf hd => ?_, fun hf hd => ?_⟩
      · rw [if_pos hf]
      · rw [if_neg (by simp [hf]), nextSum_done s hd, if_neg (by omega)]
        rfl
      · rw [if_neg (by simp [hf]), nextSum_next s (by omega), if_neg (by rw [llcSlice_slices]; omega)]
        rfl
      · rw [if_neg (by simp [hf]), nextSum_next s (by omega), if_pos (by rw [llcSlice_slices]; omega)]
        rfl
  · intro h
    refine ⟨?_, fun csr => ?_⟩
    · show execLlcProbe sid dst s = _
      simp only [execLlcProbe, reading_none h]
    · show execLlcCounterRead sid csr dst s = _
      simp only [execLlcCounterRead, reading_none h]
  · intro h
    exact ⟨congrArg Host.Outcome.next (bring_none s asid vline isHbm h),
      congrArg Host.Outcome.next (bring_none s asid vline isHostMem h)⟩
  · intro pa perms u h8 h6 h192 ha
    have hn : ¬ (cache = 6 ∨ 8 ≤ cache ∨ 192 ≤ core) := by omega
    exact ⟨congrArg Host.Outcome.next (bring_hit isHbm hn ha), congrArg Host.Outcome.next (bring_hit isHostMem hn ha)⟩

end Sys2Proof.Proofs

namespace Sys2Proof.Proofs

open Sys2Proof.Machine Sys2Proof.Laws

/-! ## CVT and its conversion record (O23) -/

/-- The state in which the strand whose turn it is has converted and gone on, and no event has been counted yet (R112). -/
def cvtDone (s : State) (r : Raw) : State := s.nextSeq.2.setStrand s.cur ((cvtStrand s.me r).next r.bytes)

/-- Without events the conversion record stands as it was, and no threshold is crossed (R87, R88). -/
theorem countEvents_none (s : State) (rid : Nat) : s.countEvents rid (0, 0, 0) = (false, s) := if_pos rfl

/-- The events beside each executing thread's results add up to those that the CVT counts (R87). -/
theorem foldl_addEvents_cvtAt (st : Strand) (r : Raw) :
    ((st.doers r).map (fun t => (t, st.cvtAt r t))).foldl (fun e x => addEvents e x.2.2.2) (0, 0, 0) = cvtCount st r :=
  List.foldl_map

/-- CVT that is ready converts, counts its events in one addition, and raises class 15 where a threshold is crossed (R87,
R89). -/
theorem runCvt_go (s : State) (r : Raw) (h : Ready s r) :
    let counted := (cvtDone s r).countEvents s.me.rid (cvtCount s.me r)
    s.runCvt r = .next (if counted.1 then counted.2.raiseAfter s.cur clsThresh s.me.pc.toNat 0 s.seq (rawWords r)
      else counted.2) := by
  intro counted
  unfold State.runCvt
  rw [issue_go s r _ h]
  have hev := foldl_addEvents_cvtAt (s.nextSeq.2.strand s.cur) r
  simp only [hev]
  rfl

/-- CVT that is ready and converts without events does nothing beyond its conversion. -/
theorem runCvt_go_of_no_events (s : State) (r : Raw) (h : Ready s r) (h0 : cvtCount s.me r = (0, 0, 0)) :
    s.runCvt r = .next (cvtDone s r) := by
  rw [runCvt_go s r h, h0, countEvents_none]
  rfl

/-- Settles O23: CVT has one meaning for all its forms, which counts the events of every executing thread at once. -/
theorem cvtConvertsAndCounts : Obligations.CvtConvertsAndCounts :=
  ⟨fun o s h => ⟨runCvt_go s (rawW1 0x6E o) h, runCvt_go_of_no_events s (rawW1 0x6E o) h⟩,
    fun o s h => ⟨runCvt_go s (rawA 0x6E o) h, runCvt_go_of_no_events s (rawA 0x6E o) h⟩⟩

end Sys2Proof.Proofs

namespace Sys2Proof.Proofs

open Sys2Proof.Machine Sys2Proof.Laws

/-! ## Addresses, comparisons, selection and moves (O17, O18) -/

/-- The signed reading of the low w bits of a number is that of the word of w bits. -/
theorem sInt_eq_toInt (w x : Nat) : sInt w x = (BitVec.ofNat w x).toInt := by
  rw [BitVec.toInt_eq_toNat_cond, BitVec.toNat_ofNat]
  rfl

/-- An integer modulo 2^w is what a word of w bits holds of it. -/
theorem wrapN_eq_toNat (w : Nat) (x : Int) : wrapN w x = (BitVec.ofInt w x).toNat := by
  rw [BitVec.toNat_ofInt]
  rfl

/-- A uniform register holds 64 bits (R16). -/
theorem strand_s_lt (x : Strand) (n : Nat) : x.s n < 2 ^ 64 := by
  unfold Strand.s
  split
  · exact Nat.two_pow_pos 64
  · exact BitVec.isLt _

/-- An instruction whose effect is to write the results of its threads to D completes with them, by whatever name the results go. -/
theorem issueStrand_completes_of_eq {s : State} {r : Raw} {w : Bool} {val : Nat → Nat} (h : Ready s r) (f : Strand → Nat → Nat)
    (hf : ∀ th, f s.me th = val th) :
    CompletesWith (s.issueStrand r (fun st => st.putAll r w (st.results r (f st)))) s r w val 0 :=
  (funext hf : f s.me = val) ▸ issueStrand_completes s r w f h

/-- LEA writes the effective address, whole or its low 32 bits (R99). -/
theorem execLea_completes (o : MOps) (s : State) (h : Ready s (rawM 0x38 o)) :
    CompletesWith (execLea o s) s (rawM 0x38 o) (rawM 0x38 o).wide
      (fun th => s.me.ea (rawM 0x38 o) th % 2 ^ (if (rawM 0x38 o).wide then 64 else 32)) 0 := by
  let r := rawM 0x38 o
  refine issueStrand_completes_of_eq h (fun st th => if r.wide then st.ea r th else st.ea r th % 2 ^ 32) fun th => ?_
  cases r.wide
  · rfl
  · refine (Nat.mod_eq_of_lt ?_).symm
    rw [Strand.ea, wrapN_eq_toNat]
    exact (BitVec.isLt _).trans (by decide)

/-- MOV writes the bits of A (R102). -/
theorem runMov_completes (s : State) (r : Raw) (h : Ready s r) : CompletesWith (s.runMov r) s r r.wide (s.me.srcA r) 0 :=
  issueStrand_completes s r r.wide (fun st => st.srcA r) h

/-- MOVI of a 10-bit immediate extends it by its sign (R12). -/
theorem execMoviW1i_completes (o : IOps) (s : State) (h : Ready s (rawI 0x3C o)) :
    CompletesWith (execMoviW1i o s) s (rawI 0x3C o) false (fun _ => (o.imm.signExtend 32).toNat) 0 := by
  refine issueStrand_completes_of_eq h (fun _ _ => wrapN 32 (sInt 10 o.imm.toNat)) fun _ => ?_
  rw [wrapN_eq_toNat, sInt_eq_toInt, BitVec.ofNat_toNat, BitVec.setWidth_eq]
  rfl

/-- MOVI of a 32-bit immediate. -/
theorem execMovi_completes (o : AOps) (s : State) (h : Ready s (rawA 0x3C o)) :
    CompletesWith (execMovi o s) s (rawA 0x3C o) (rawA 0x3C o).wide (fun _ => (rawA 0x3C o).immVal (rawA 0x3C o).wide) 0 :=
  issueStrand_completes_of_eq h (fun _ _ => (rawA 0x3C o).immVal (rawA 0x3C o).wide) fun _ => rfl

/-- MOVS writes the uniform register A, whole or its low 32 bits (R102). -/
theorem runMovs_completes (s : State) (r : Raw) (h : Ready s r) :
    CompletesWith (s.runMovs r) s r r.wide (fun _ => s.me.s r.a.toNat % 2 ^ (if r.wide then 64 else 32)) 0 := by
  refine issueStrand_completes_of_eq h _ fun _ => ?_
  cases r.wide
  · rfl
  · exact (Nat.mod_eq_of_lt (strand_s_lt _ _)).symm

/-- SEL writes A where the guard holds, with U = 1 that of the lowest active thread, and B where it does not (R101). -/
theorem execSel_completes (o : AOps) (s : State) (h : Ready s (rawA 0x3A o)) :
    CompletesWith (execSel o s) s (rawA 0x3A o) (rawA 0x3A o).wide
      (fun th => if s.me.guard o.g (if o.u = 1#1 then s.me.lowest else th) then s.me.srcA (rawA 0x3A o) th
        else s.me.srcB (rawA 0x3A o) th) 0 := by
  let r := rawA 0x3A o
  refine issueStrand_completes_of_eq h (fun st th =>
    if (if r.u = 1#1 then st.uniGuard r.g else st.guard r.g th) then st.srcA r th else st.srcB r th) fun th => ?_
  rw [apply_ite (s.me.guard o.g)]
  rfl

/-- Settles O17: each of the moves writes the results of its threads to D and goes on. -/
theorem movesAndAddresses : Obligations.MovesAndAddresses := fun s =>
  ⟨fun o h => execLea_completes o s h, fun o h => runMov_completes s (rawW1 0x3B o) h, fun o h => runMov_completes s (rawA 0x3B o) h,
    fun o h => execMoviW1i_completes o s h, fun o h => execMovi_completes o s h, fun o h => runMovs_completes s (rawW1 0x3D o) h,
    fun o h => runMovs_completes s (rawA 0x3D o) h, fun o h => execSel_completes o s h⟩

/-- The one value of a uniform comparison goes to every active thread, and else each thread has its own (R91). -/
theorem putCond_eq_putPreds (st : Strand) (r : Raw) (f : Nat → Bool) :
    st.putCond r f = st.putPreds r.d.toNat (st.active.map fun th => (th, f (if r.u = 1#1 then st.lowest else th))) := by
  unfold Strand.putCond
  split <;> rfl

/-- Writing predicates leaves FSTAT alone. -/
theorem putPreds_fstat (x : Strand) (n : Nat) (l : List (Nat × Bool)) : (x.putPreds n l).fstat = x.fstat :=
  forEach_same Strand.fstat l x _ fun y p => by
    unfold Strand.setPBit Strand.setP
    dsimp only
    split <;> rfl

/-- The strand whose turn it is, after a write of its own. -/
@[simp] theorem setStrand_me (s : State) (x : Strand) : (s.setStrand s.cur x).me = x := setStrand_strand s s.cur x

/-- An instruction whose effect is to write a truth value of each active thread to predicate D completes with them. -/
theorem issueStrand_completesPred {s : State} {r : Raw} (h : Ready s r) (f : Strand → Strand) {cond : Nat → Bool}
    (hf : f s.me = s.me.putPreds r.d.toNat (s.me.active.map fun th => (th, cond th))) :
    CompletesWithPred (s.issueStrand r f) s r cond := by
  refine ⟨_, issueStrand_go s r _ h, ⟨_, rfl⟩, ?_, ?_⟩
  · rw [setStrand_me, hf]
    simp [putPreds_fstat]
  · rw [setStrand_me, hf]
    exact putPreds_delivers s.me r cond

/-- The conditions of R100 where of below, equal and above exactly one holds. -/
theorem condHolds_of_trichotomy (f : Nat) (eq lt gt : Bool) (h1 : eq = (!lt && !gt)) (h2 : (lt && gt) = false) :
    condHolds f eq lt = if f = 0 then eq else if f = 1 then !eq else if f = 2 then lt else if f = 3 then lt || eq
      else if f = 4 then gt else gt || eq := by
  have hgt : (!(lt || eq)) = gt := by subst h1; revert lt gt; decide
  have hge : (!lt) = (gt || eq) := by subst h1; revert lt gt; decide
  clear h1 h2
  unfold condHolds
  split <;> simp_all

/-- Two values are equal exactly where neither has the lower key. -/
theorem beq_of_key {α β : Type} [DecidableEq α] [LinearOrder β] {k : α → β} (hk : Function.Injective k) (a b : α) :
    (a == b) = (!decide (k a < k b) && !decide (k b < k a)) ∧ (decide (k a < k b) && decide (k b < k a)) = false := by
  rcases lt_trichotomy (k a) (k b) with h | h | h
  · simp [h, h.le, show a ≠ b from fun e => h.ne (congrArg k e)]
  · simp [hk h]
  · simp [h, h.le, show a ≠ b from fun e => h.ne' (congrArg k e)]

/-- The condition of CMP on the elements as numbers is that on them as words of the type's width and order (R100). -/
theorem cmpAt_eq_cmpHolds (st : Strand) (r : Raw) (th : Nat) : st.cmpAt r th = cmpHolds st r th := by
  unfold Strand.cmpAt cmpHolds
  generalize tyWidth r.ty = w
  have heq (x y : Nat) : (x % 2 ^ w == y % 2 ^ w) = (BitVec.ofNat w x == BitVec.ofNat w y) := by
    simp [← BitVec.toNat_inj]
  have hmod (x : Nat) : sInt w (x % 2 ^ w) = (BitVec.ofNat w x).toInt := by
    rw [sInt_eq_toInt]
    exact congrArg BitVec.toInt (BitVec.eq_of_toNat_eq (by simp))
  cases tySigned r.ty
  · obtain ⟨h1, h2⟩ := beq_of_key (k := BitVec.toNat) (fun _ _ => BitVec.eq_of_toNat_eq) (BitVec.ofNat w (st.srcA r th)) (BitVec.ofNat w (st.srcB r th))
    simpa [heq, BitVec.ult, bne] using condHolds_of_trichotomy r.f.toNat _ _ _ h1 h2
  · obtain ⟨h1, h2⟩ := beq_of_key (k := BitVec.toInt) (fun _ _ => BitVec.eq_of_toInt_eq) (BitVec.ofNat w (st.srcA r th)) (BitVec.ofNat w (st.srcB r th))
    simpa [heq, hmod, BitVec.slt, bne] using condHolds_of_trichotomy r.f.toNat _ _ _ h1 h2

/-- CMP (R100). -/
theorem execCmp_completes (o : AOps) (s : State) (h : Ready s (rawA 0x39 o)) :
    CompletesWithPred (execCmp o s) s (rawA 0x39 o)
      (fun th => cmpHolds s.me (rawA 0x39 o) (if (rawA 0x39 o).u = 1#1 then s.me.lowest else th)) := by
  refine issueStrand_completesPred h (fun st => st.putCond (rawA 0x39 o) (st.cmpAt (rawA 0x39 o))) ?_
  simp only [putCond_eq_putPreds, cmpAt_eq_cmpHolds]

/-- FCMP (R107). -/
theorem runFcmp_completes (s : State) (r : Raw) (h : Ready s r) :
    CompletesWithPred (s.runFcmp r) s r (fun th =>
      let th := if r.u = 1#1 then s.me.lowest else th
      fcmpHolds r.f.toNat (s.me.srcA r th) (s.me.srcB r th)) :=
  issueStrand_completesPred h _ (putCond_eq_putPreds s.me r _)

/-- Settles O18: each of the comparisons writes its truth values to predicate D and goes on. -/
theorem comparisonsWriteAPredicate : Obligations.ComparisonsWriteAPredicate := fun s =>
  ⟨fun o h => execCmp_completes o s h, fun o h => runFcmp_completes s (rawW1 0x66 o) h,
    fun o h => runFcmp_completes s (rawA 0x66 o) h⟩

end Sys2Proof.Proofs

namespace Sys2Proof.Proofs

open Sys2Proof.Machine Sys2Proof.Laws

/-! ## Floating-point results (O19) -/

/-- Merging flags and going on may be done in either order. -/
theorem next_addFlags (x : Strand) (fl len : Nat) : (x.addFlags fl).next len = (x.next len).addFlags fl := by
  simp only [Strand.next, apply_ite (Strand.addFlags · fl)]
  rfl

/-- Delivering results says nothing of FSTAT. -/
theorem delivers_addFlags {x y : Strand} {r : Raw} {w : Bool} {val : Nat → Nat} (fl : Nat) (h : Delivers x y r w val) :
    Delivers x (y.addFlags fl) r w val := h

/-- An instruction whose effect is to write the results of its threads to D and to merge flags completes with both (R34). -/
theorem issueStrand_completes_flags {s : State} {r : Raw} {w : Bool} {val : Nat → Nat} {fl : Nat} (h : Ready s r) (f : Strand → Strand)
    (hf : f s.me = (s.me.putAll r w (s.me.results r val)).addFlags fl) : CompletesWith (s.issueStrand r f) s r w val fl := by
  refine ⟨_, issueStrand_go s r _ h, ⟨_, rfl⟩, ?_, ?_⟩
  · rw [setStrand_me, hf, next_addFlags]
    simp [Strand.addFlags, putAll_fstat]
  · rw [setStrand_me, hf, next_addFlags]
    exact delivers_addFlags fl (putAll_delivers s.me r w val)

/-- The one meaning of the floating instructions that deliver at once (R105). -/
theorem runFloat_completes (s : State) (r : Raw) (h : Ready s r) :
    CompletesWith (s.runFloat r) s r false (fun th => (floatResult s.me r th).1) (flagsOf s.me r fun th => (floatResult s.me r th).2) := by
  refine issueStrand_completes_flags h _ ?_
  unfold Strand.putFlagged
  simp only [List.map_map, List.foldl_map]
  rfl

/-- FCLASS writes the mask of the class of each value (R107). -/
theorem runFclass_completes (s : State) (r : Raw) (h : Ready s r) :
    CompletesWith (s.runFclass r) s r false (fun th => 2 ^ fclassBit (s.me.srcA r th)) 0 :=
  issueStrand_completes s r false (fun st th => 2 ^ fclassBit (st.srcA r th)) h

/-- Each row of R104 in one word is run by the one floating meaning, with its own opcode. -/
theorem exec_floatOneWord {p : (W1Ops → Instr) × Nat} (hp : p ∈ floatOneWord) (o : W1Ops) (s : State) :
    exec (p.1 o) s = s.runFloat (rawW1 p.2 o) := by
  fin_cases hp <;> rfl

/-- Each row of R104 in a longer form is run by the one floating meaning, with its own opcode. -/
theorem exec_floatLong {p : (AOps → Instr) × Nat} (hp : p ∈ floatLong) (o : AOps) (s : State) :
    exec (p.1 o) s = s.runFloat (rawA p.2 o) := by
  fin_cases hp <;> rfl

/-- Settles O19: the rows of R104 are run by one meaning, and FCLASS by its own. -/
theorem floatResultsReachTheirDestination : Obligations.FloatResultsReachTheirDestination := by
  refine ⟨fun p hp o s h => ?_, fun p hp o s h => ?_, fun o s h => runFclass_completes s (rawW1 0x67 o) h,
    fun o s h => runFclass_completes s (rawA 0x67 o) h⟩
  · rw [exec_floatOneWord hp]
    exact runFloat_completes s _ h
  · rw [exec_floatLong hp]
    exact runFloat_completes s _ h

end Sys2Proof.Proofs

namespace Sys2Proof.Proofs

open Sys2Proof.Machine Sys2Proof.Laws

/-! ## Votes and reductions: what they write (O25) -/

/-- The value of VOTE is ALL, ANY or UNI of predicate A over the active threads (R117). -/
theorem voteOf_eq (st : Strand) (r : Raw) :
    st.voteOf r = if r.f = 0#3 then st.active.all (fun th => bit (st.p r.a.toNat) th)
      else if r.f = 1#3 then st.active.any (fun th => bit (st.p r.a.toNat) th)
      else st.active.all (fun th => bit (st.p r.a.toNat) th) || !st.active.any (fun th => bit (st.p r.a.toNat) th) := by
  have h0 : r.f = 0#3 ↔ r.f.toNat = 0 := BitVec.toNat_inj.symm
  have h1 : r.f = 1#3 ↔ r.f.toNat = 1 := BitVec.toNat_inj.symm
  unfold Strand.voteOf
  simp only [h0, h1, List.all_map, List.any_map, Function.id_comp]
  split <;> simp_all

/-- VOTE writes its one value to predicate D of every active thread (R117). -/
theorem execVote_completes (o : AOps) (s : State) (h : Ready s (rawA 0x81 o)) :
    CompletesWithPred (execVote o s) s (rawA 0x81 o) (fun _ => s.me.voteOf (rawA 0x81 o)) :=
  issueStrand_completesPred h (fun st => st.putPred (rawA 0x81 o).d.toNat (st.voteOf (rawA 0x81 o))) rfl

/-- Merging no flag changes nothing. -/
@[simp] theorem addFlags_zero (x : Strand) : x.addFlags 0 = x :=
  congrArg (fun fl => { x with fstat := fl }) (BitVec.or_zero (x := x.fstat))

/-- A strand that has written a uniform register (s0 discards it, R20), merged flags and gone on. -/
theorem setS_addFlags_next (x : Strand) (r : Raw) (n v fl : Nat) :
    let y := ((x.setS n v).addFlags fl).next r.bytes
    y.fstat = x.fstat ||| BitVec.ofNat 5 fl ∧ y.preds = x.preds ∧ (n ≠ 0 → y.s n = v % 2 ^ 64)
      ∧ SameRegs x y [] [n] ∧ SameControl x y ∧ GoneOn x y r := by
  rw [next_addFlags]
  have hs (m : Nat) : (((x.setS n v).next r.bytes).addFlags fl).s m = if m = n ∧ n ≠ 0 then v % 2 ^ 64 else x.s m :=
    (by simp [Strand.addFlags, Strand.s] : _ = (x.setS n v).s m).trans (s_setS x n v m)
  refine ⟨by simp [Strand.addFlags], by simp [Strand.addFlags], fun hn => ?_, ⟨fun m t _ _ => ?_, fun m hm => ?_, ?_, ?_⟩, ?_, ?_⟩
  · rw [hs, if_pos ⟨rfl, hn⟩]
  · simp [Strand.addFlags, Strand.v]
  · rw [hs, if_neg fun h => hm (List.mem_singleton.mpr h.1)]
  · simp [Strand.addFlags]
  · simp [Strand.addFlags]
  · simp [Strand.addFlags, SameControl]
  · exact goneOn x (x.setS n v) r (by simp) (by simp) (by simp)

/-- An instruction whose effect is to write a uniform register and to merge flags (R34). -/
theorem issueStrand_setS {s : State} {r : Raw} (h : Ready s r) (f : Strand → Strand) {n v fl : Nat}
    (hf : f s.me = (s.me.setS n v).addFlags fl) :
    ∃ t, s.issueStrand r f = .next t ∧ OnlyMe s t ∧ t.me.fstat = s.me.fstat ||| BitVec.ofNat 5 fl ∧ t.me.preds = s.me.preds
      ∧ (n ≠ 0 → t.me.s n = v % 2 ^ 64) ∧ SameRegs s.me t.me [] [n] ∧ SameControl s.me t.me ∧ GoneOn s.me t.me r := by
  refine ⟨_, issueStrand_go s r _ h, ⟨_, rfl⟩, ?_⟩
  rw [setStrand_me, hf]
  exact setS_addFlags_next s.me r n v fl

/-- Bit th of the active threads' mask says whether thread th is active (R21). -/
theorem bit_amask (x : Strand) {th : Nat} (h : th < 64) : bit x.amask.toNat th = decide (th ∈ x.active) := by
  simp [Strand.active, mem_threadsOf, h]

/-- BALLOT writes the mask of the active threads whose predicate holds to uniform D (R117). -/
theorem execBallot_completes (o : AOps) (s : State) (h : Ready s (rawA 0x82 o)) :
    ∃ t, execBallot o s = .next t ∧ OnlyMe s t ∧ t.me.fstat = s.me.fstat ∧ t.me.preds = s.me.preds
      ∧ (o.d.toNat ≠ 0 → ∀ th < 64, bit (t.me.s o.d.toNat) th = (decide (th ∈ s.me.active) && bit (s.me.p o.a.toNat) th))
      ∧ SameRegs s.me t.me [] [o.d.toNat] ∧ SameControl s.me t.me ∧ GoneOn s.me t.me (rawA 0x82 o) := by
  obtain ⟨t, ht, hme, hfl, hp, hs, hrest⟩ := issueStrand_setS h
    (fun st => st.setS o.d.toNat (st.amask.toNat &&& st.p o.a.toNat)) (addFlags_zero _).symm
  refine ⟨t, ht, hme, by simpa using hfl, hp, fun hd th hth => ?_, hrest⟩
  rw [hs hd, bit_mod _ _ _ hth, ← bit_amask _ hth]
  simp [bit_testBit]

/-- REDX writes the combination of A over the active threads to uniform D, and merges the flags of its rounding (R118). -/
theorem execRedx_completes (o : AOps) (s : State) (h : Ready s (rawA 0x83 o)) :
    let r := rawA 0x83 o
    let x := s.me.comb r (s.me.active.map (s.me.srcA r))
    ∃ t, execRedx o s = .next t ∧ OnlyMe s t ∧ t.me.fstat = s.me.fstat ||| BitVec.ofNat 5 x.2 ∧ t.me.preds = s.me.preds
      ∧ (o.d.toNat ≠ 0 → t.me.s o.d.toNat = (if r.ty = 0 then wrapN 64 (sInt 32 x.1) else x.1) % 2 ^ 64)
      ∧ SameRegs s.me t.me [] [o.d.toNat] ∧ SameControl s.me t.me ∧ GoneOn s.me t.me r := by
  intro r x
  exact issueStrand_setS h (fun st =>
    let x := st.comb r (st.active.map (st.srcA r))
    (st.setS o.d.toNat (if r.ty = 0 then wrapN 64 (sInt 32 x.1) else x.1)).addFlags x.2) rfl

/-- VOTE, BALLOT and REDX reach their destinations (R117, R118). -/
theorem votesAndReductionsReachTheirDestination : VotesAndReductionsReachTheirDestination := by
  refine ⟨fun o s h => ?_, fun o s h => execBallot_completes o s h, fun o s h => execRedx_completes o s h⟩
  have hv := execVote_completes o s h
  rw [voteOf_eq] at hv
  exact hv

end Sys2Proof.Proofs

namespace Sys2Proof.Proofs

open Sys2Proof.Machine Sys2Proof.Laws

/-! ## SCAN and MATCH with U = 1 (O24, O26)

The statements on SCAN and MATCH quantify over every setting of U, and ask of the words only that the gate lets them through (`Ready`). With
U = 1, with which R58 and R67 let neither decode, operand A is one uniform register that all threads share, and what the model then writes is
not what the statements say: SCAN writes uniform D once for each active thread, so that the last one's combination stays and not the lowest
one's; MATCH finds all active threads equal, whatever vector register A holds in them. -/

/-- Threads 0 and 1 are active; uniform register 1 holds 1, and vector register 1 holds 1 in thread 1 alone. -/
def twoThreads : State :=
  State.reset.setStrand 0 ((({ Strand.empty with life := .resident, amask := 3 } : Strand).setS 1 1).setV 1 1 1)

/-- Operands from A = 1 to D = 2, in one type, with U = 1. -/
def uniformOps (ty : BitVec 4) : AOps := ⟨0, 1, 2, 7, 1, 0, 0, ty, 0, 0, 0, 0, none⟩

theorem ready_uniformScan : Ready twoThreads (rawA 0x84 (uniformOps 0)) := by
  unfold Ready
  decide

theorem ready_uniformMatch : Ready twoThreads (rawA 0x85 (uniformOps 1)) := by
  unfold Ready
  decide

/-- The uniform register 2 of the strand whose turn it is, in the next state. -/
def leavesS2 (o : Res) : Nat :=
  match o with
  | .next t => t.me.s 2
  | _ => 0

/-- SCAN adds the 1 of thread 0 and the 1 of thread 1. -/
theorem scan_leavesS2 : leavesS2 (execScan (uniformOps 0) twoThreads) = 2 := by
  unfold execScan
  rw [issueStrand_go _ _ _ ready_uniformScan]
  decide

/-- MATCH finds both threads equal. -/
theorem match_leavesS2 : leavesS2 (execMatch (uniformOps 1) twoThreads) = 3 := by
  unfold execMatch
  rw [issueStrand_go _ _ _ ready_uniformMatch]
  decide

/-- What results delivered once for the strand leave in uniform D (R91). -/
theorem delivers_uniform {x y : Strand} {r : Raw} {w : Bool} {val : Nat → Nat} (h : Delivers x y r w val)
    (hu : r.uniform r.info = true) (hd : r.d.toNat ≠ 0) :
    y.s r.d.toNat = if w then val x.lowest % 2 ^ 64
      else if r.ty = 0 then wrapN 64 (sInt 32 (val x.lowest)) else val x.lowest % 2 ^ 32 := by
  have h1 := h.1
  rw [if_pos hu] at h1
  exact h1.1 hd

/-- Refutes O24: with U = 1 a SCAN leaves in uniform D the combination of its last active thread, here 2, and not that of its
lowest, here 1. -/
theorem not_shuffleAndScan : ¬ Obligations.ShuffleAndScan := by
  rintro ⟨-, hscan⟩
  obtain ⟨t, ht, -, -, hd⟩ := hscan (uniformOps 0) twoThreads ready_uniformScan
  have hs : leavesS2 (exec (.scan (uniformOps 0)) twoThreads) = 2 := scan_leavesS2
  rw [ht] at hs
  have h1 : t.me.s 2 = 1 := (delivers_uniform hd (by decide) (by decide)).trans (by decide)
  exact absurd (hs.symm.trans h1) (by decide)

/-- Refutes O26: with U = 1 a MATCH says that both threads are equal, though vector register A differs between them. -/
theorem not_matchMasksEqualThreads : ¬ Obligations.MatchMasksEqualThreads := by
  rintro ⟨hmatch, -⟩
  obtain ⟨t, ht, -, -, mask, hd, hm⟩ := hmatch (uniformOps 1) twoThreads ready_uniformMatch
  have hs : leavesS2 (exec (.matchOp (uniformOps 1)) twoThreads) = 3 := match_leavesS2
  rw [ht] at hs
  have h3 : mask 0 % 2 ^ 64 = 3 := (delivers_uniform hd (by decide) (by decide)).symm.trans hs
  have hdiffer : bit (mask 0) 1 = false := (hm 0 (by decide) 1 (by decide)).trans (by decide)
  rw [← bit_mod _ 64 _ (by decide), h3] at hdiffer
  exact absurd hdiffer (by decide)

end Sys2Proof.Proofs

namespace Sys2Proof.Proofs

open Sys2Proof.Machine Sys2Proof.Laws

/-! ## Branches, calls and returns (O27) -/

/-- The bits of AMASK are the active threads (R21). -/
theorem getLsbD_amask (x : Strand) {th : Nat} (h : th < 64) : x.amask.getLsbD th = decide (th ∈ x.active) := by
  rw [← bit_amask x h, bit_testBit, BitVec.testBit_toNat]

/-- A strand with threads in AMASK has an active one. -/
theorem active_ne_nil {x : Strand} (h : x.amask ≠ 0) : x.active ≠ [] := fun hn =>
  h (BitVec.eq_of_getLsbD_eq fun th hth => by simp [getLsbD_amask x hth, hn])

/-- The guard holds in no active thread (R9). -/
theorem guarded_eq_nil {x : Strand} {g : BitVec 4} : x.guarded g = [] ↔ ∀ th ∈ x.active, x.guard g th = false := by
  simp [Strand.guarded]

/-- The guard holds in every active thread (R9). -/
theorem guarded_eq_active {x : Strand} {g : BitVec 4} : x.guarded g = x.active ↔ ∀ th ∈ x.active, x.guard g th = true :=
  List.filter_eq_self

/-- An instruction's own address plus 4 times a signed word offset, modulo 2^56 (R49, R122). -/
theorem branchTo_eq (pc : BitVec 56) {w : Nat} (off : BitVec w) : branchTo pc w off.toNat = pc + 4#56 * off.signExtend 56 := by
  rw [branchTo, add56, wrapN_eq_toNat, BitVec.ofNat_toNat, BitVec.setWidth_eq, sInt_eq_toInt, BitVec.ofNat_toNat, BitVec.setWidth_eq,
    BitVec.ofInt_add, BitVec.ofInt_mul, BitVec.ofInt_natCast, BitVec.ofNat_toNat, BitVec.setWidth_eq]
  rfl

/-- OFF17 is spread over F, A and D (R49). -/
theorem off17_rawB (op : Nat) (o : BOps) : (rawB op o).off17 = o.off.toNat := by
  simp only [Raw.off17, Raw.imm10, rawB, BitVec.extractLsb'_toNat, Nat.shiftRight_eq_div_pow]
  omega

/-- Leaving loops drops the innermost ones that the branch lies in and its target does not (R128). -/
theorem unwind_eq_dropWhile (l : List LoopEnt) (b x : BitVec 56) :
    unwind l b x = l.dropWhile (fun e => (decide (e.start ≤ b) && decide (b ≤ e.last)) && !(decide (e.start ≤ x) && decide (x ≤ e.last))) := by
  induction l with
  | nil => rfl
  | cons e t ih => 
    simp only [unwind, List.dropWhile_cons, ih]

/-- A jump changes the PC, and the loops that it leaves outside handler mode (R128, R203). -/
theorem jump_only (x : Strand) (a : BitVec 56) :
    ((x.jump a).preds = x.preds ∧ (x.jump a).fstat = x.fstat ∧ SameControl x (x.jump a)) ∧ (x.jump a).pc = a
      ∧ SameRegs x (x.jump a) [] []
      ∧ (x.jump a).loops = if x.hmode then x.loops else x.loops.dropWhile (fun e =>
          (decide (e.start ≤ x.pc) && decide (x.pc ≤ e.last)) && !(decide (e.start ≤ a) && decide (a ≤ e.last))) := by
  refine ⟨⟨rfl, rfl, by simp [SameControl]⟩, rfl, ⟨fun _ _ _ _ => rfl, fun _ _ => rfl, rfl, rfl⟩, ?_⟩
  rw [← unwind_eq_dropWhile]
  rfl

/-- The register in which a branch writes the address of the next instruction: that of CALL and CALLX (R122). -/
def linkOf (r : Raw) : Option Nat := if r.op = 0x04#8 then some 62 else if r.op = 0x05#8 then some r.d.toNat else none

/-- A strand that has only gone on (R127). -/
theorem next_only (x : Strand) (r : Raw) :
    ((x.next r.bytes).preds = x.preds ∧ (x.next r.bytes).fstat = x.fstat ∧ SameControl x (x.next r.bytes))
      ∧ SameRegs x (x.next r.bytes) [] [] ∧ GoneOn x (x.next r.bytes) r := by
  refine ⟨⟨by simp, by simp, by simp [SameControl]⟩, ⟨fun n t _ _ => ?_, fun n _ => ?_, by simp, by simp⟩, rfl, rfl⟩
  · simp [Strand.v]
  · simp [Strand.s]

/-- A strand that has made a call: its link register (s0 discards it) and its PC, and no loop is left (R122, R128). -/
theorem callTo_only (x : Strand) (r : Raw) (a : BitVec 56) (d : Nat) (hd : linkOf r = some d) :
    ((x.callTo r a).preds = x.preds ∧ (x.callTo r a).fstat = x.fstat ∧ SameControl x (x.callTo r a)) ∧ (x.callTo r a).pc = a
      ∧ (d ≠ 0 → (x.callTo r a).s d = (x.pc + BitVec.ofNat 56 r.bytes).toNat) ∧ SameRegs x (x.callTo r a) [] [d]
      ∧ (x.callTo r a).loops = x.loops := by
  have hlink : (if r.op = 0x04#8 then 62 else r.d.toNat) = d := by
    unfold linkOf at hd
    split_ifs at hd ⊢ <;> exact Option.some.inj hd
  have hs (n : Nat) : (x.callTo r a).s n = if n = d ∧ d ≠ 0 then (x.pc + BitVec.ofNat 56 r.bytes).toNat % 2 ^ 64 else x.s n := by
    rw [← s_setS, ← hlink]
    rfl
  simp only [Strand.callTo, hlink] at hs ⊢
  refine ⟨⟨by simp, by simp, by simp [SameControl]⟩, trivial, fun h0 => ?_, ⟨fun n t _ _ => ?_, fun n hn => ?_, by simp, by simp⟩, by simp⟩
  · rw [hs, if_pos ⟨rfl, h0⟩]
    exact Nat.mod_eq_of_lt ((BitVec.isLt _).trans (by decide))
  · simp [Strand.v]
  · rw [hs, if_neg fun h => hn (List.mem_singleton.mpr h.1)]

/-- What the strand whose turn it is has become, where nothing else has changed. -/
theorem onlyMe_of_setStrand {o : Res} {s : State} {x : Strand} (h : o = .next (s.setStrand s.cur x)) :
    ∃ t, o = .next t ∧ OnlyMe s t ∧ t.me = x := ⟨_, h, ⟨_, rfl⟩, setStrand_me s x⟩

/-- The one meaning of branches, calls and returns (R122, R123, R128). -/
theorem branch_branchesTo {i : Instr} {s : State} {r : Raw} (hi : exec i s = s.branch r) (h : Ready s r) :
    BranchesTo i s r (s.me.target r) (linkOf r) := by
  have hb : exec i s = _ := hi.trans (issue_go s r _ h)
  rw [show s.strand s.cur = s.me from rfl] at hb
  have hgo (hall : ∀ th ∈ s.me.active, s.me.guard r.g th = true) : ¬ (s.me.guarded r.g = [] ∧ s.me.amask ≠ 0) :=
    fun ⟨hg, hm⟩ => active_ne_nil hm (guarded_eq_active.mpr hall ▸ hg)
  refine ⟨fun hm hnone => ?_, fun ⟨t, ht, htg⟩ ⟨u, hu, hug⟩ => ?_, fun hall hal => ?_, fun hall hal => ?_⟩
  · obtain ⟨t, ht, ho, hme⟩ := onlyMe_of_setStrand (hb.trans (congrArg _ (if_pos ⟨guarded_eq_nil.mpr hnone, hm⟩)))
    have hnext := next_only s.me r
    rw [← show t.me = s.me.next r.bytes from hme] at hnext
    exact ⟨t, ht, ⟨ho, hnext.1⟩, hnext.2⟩
  · rw [hb, if_neg, if_pos]
    · intro hg
      simp [guarded_eq_active.mp hg u hu] at hug
    · rintro ⟨hg, -⟩
      simp [guarded_eq_nil.mp hg t ht] at htg
  · rw [hb, if_neg (hgo hall), if_neg (not_not.mpr (guarded_eq_active.mpr hall))]
    exact congrArg _ (if_pos hal)
  · rw [if_neg (hgo hall), if_neg (not_not.mpr (guarded_eq_active.mpr hall))] at hb
    have hb := hb.trans (congrArg _ (if_neg (not_not.mpr hal)))
    by_cases hc : r.op = 0x04#8 ∨ r.op = 0x05#8
    · obtain ⟨t, ht, ho, hme⟩ := onlyMe_of_setStrand (hb.trans (congrArg _ (if_pos hc)))
      obtain ⟨d, hd⟩ : ∃ d, linkOf r = some d := by
        unfold linkOf
        split_ifs with h4 h5
        · exact ⟨_, rfl⟩
        · exact ⟨_, rfl⟩
        · exact absurd hc (not_or.mpr ⟨h4, h5⟩)
      have hcall := callTo_only s.me r (s.me.target r) d hd
      rw [← hme] at hcall
      obtain ⟨hstill, hpc, hlink⟩ := hcall
      exact ⟨t, ht, ⟨ho, hstill⟩, hpc, fun d' hd' => Option.some.inj (hd.symm.trans hd') ▸ hlink, fun hn => nomatch hd.symm.trans hn⟩
    · obtain ⟨t, ht, ho, hme⟩ := onlyMe_of_setStrand (hb.trans (congrArg _ (if_neg hc)))
      have hn : linkOf r = none := by
        rw [linkOf, if_neg (not_or.mp hc).1, if_neg (not_or.mp hc).2]
      have hjump := jump_only s.me (s.me.target r)
      rw [← hme] at hjump
      obtain ⟨hstill, hpc, hrest⟩ := hjump
      exact ⟨t, ht, ⟨ho, hstill⟩, hpc, fun d hd => (nomatch hn.symm.trans hd), fun _ => hrest⟩

/-- Settles O27: the seven rows are run by one meaning, each with its own target and link. -/
theorem branchesGoOrStay : Obligations.BranchesGoOrStay := by
  refine fun s => ⟨fun o h => ?_, fun o h => ?_, fun o h => ?_, fun o h => ?_, fun o h => ?_, fun o h => ?_, fun o h => ?_⟩
  · rw [← branchTo_eq, ← off17_rawB 0x01]
    exact branch_branchesTo rfl h
  · rw [← branchTo_eq]
    exact branch_branchesTo rfl h
  · rw [← branchTo_eq, ← off17_rawB 0x04]
    exact branch_branchesTo rfl h
  · rw [← branchTo_eq]
    exact branch_branchesTo rfl h
  · exact branch_branchesTo rfl h
  · exact branch_branchesTo rfl h
  · exact branch_branchesTo rfl h

end Sys2Proof.Proofs

namespace Sys2Proof.Proofs

open Sys2Proof.Machine Sys2Proof.Laws

/-! ## NOP (O28) -/

/-- The one NOP (R121). -/
def nopOps : W1Ops := ⟨0, 0, 0, 7, 0⟩

/-- A check that passes, with those after it. -/
theorem ite_some_eq_none {c : Bool} {n : Nat} {x : Option Nat} : (if (!c) = true then some n else x) = none ↔ c = true ∧ x = none := by
  cases c <;> simp

/-- Accepted words leave no field unused and hold nothing that their entry excludes (R57, R58, R63). -/
theorem checks_of_accepted {r : Raw} {oi : OpInfo} (h : rawCheck r = none) (ho : opInfo r.op.toNat = some oi) :
    chkGuard r oi = true ∧ chkU r oi = true ∧ chkUnused r oi = true ∧ chkEntry r oi = true := by
  rw [rawCheck, if_neg (accepted h).1, ho] at h
  simp only [ite_some_eq_none, Bool.and_eq_true] at h
  obtain ⟨-, hg, hu, -, -, -, -, -, ⟨hfields, hentry⟩, -⟩ := h
  exact ⟨hg, hu, hfields, hentry⟩

/-- The first thing that an entry adds: the values of F that it permits, where F is a field of its own (R63). -/
theorem f_of_chkEntry {r : Raw} {oi : OpInfo} (h : chkEntry r oi = true) :
    (oi.base == .none && (oi.one == 2 || oi.one == 3 || oi.three) || (oi.one == 2 && !(r.len != 0#2)) || bit oi.fs r.f.toNat) = true := by
  by_contra hf
  rw [Bool.not_eq_true] at hf
  simp only [chkEntry, hf, Bool.false_and, Bool.false_eq_true] at h

/-- Accepted words of the NOP's opcode hold nothing else: guard, U and every field are checked (R57, R58, R63, R121). -/
theorem nopOps_of_accepted {o : W1Ops} (h : rawCheck (rawW1 0x00 o) = none) : o = nopOps := by
  obtain ⟨hg, hu, hfields, hentry⟩ := checks_of_accepted (oi := infoW1 1 false .none .none) h rfl
  have hg : o.g = 7#4 := by simpa [chkGuard, infoW1, rawW1] using hg
  have hu : o.u = 0#1 := by simpa [chkU, infoW1, rawW1] using hu
  have hda : o.d = 0#7 ∧ o.a = 0#7 := by
    simpa [chkUnused, Raw.clsD, Raw.clsA, infoW1, rawW1] using hfields
  have hf : o.f = 0#3 := by
    have hbit : bit 1 o.f.toNat = true := by simpa [infoW1, rawW1] using f_of_chkEntry hentry
    exact (by decide : ∀ f : BitVec 3, bit 1 f.toNat = true → f = 0#3) _ hbit
  cases o
  simp_all [nopOps]

/-- What three words decode to as a NOP is the one NOP, in its only word (R121). -/
theorem decodeWords_nop (w0 w1 w2 : BitVec 32) (o : W1Ops) :
    decodeWords w0 w1 w2 = .ok (.nop o) ↔ w0 = 0x00003800#32 ∧ o = nopOps := by
  constructor
  · intro h
    obtain ⟨hc, hb⟩ := decodeWords_ok h
    obtain ⟨hr, -⟩ := toRaw_of_build (trimmed_rawOfWords w0 w1 w2) hc hb
    have hr : rawW1 0x00 o = rawOfWords w0 w1 w2 := Option.some.inj hr
    obtain rfl := nopOps_of_accepted (hr ▸ hc)
    exact ⟨by rw [← word0_rawOfWords w0 w1 w2, ← hr]; rfl, rfl⟩
  · rintro ⟨rfl, rfl⟩
    exact decodeWords_of_build (r := rawW1 0x00 nopOps) rfl (by decide) rfl

/-- The NOP names no register, so nothing holds it and nothing traps (R29, R67). -/
theorem ready_nop (s : State) : Ready s (rawW1 0x00 nopOps) := by
  have hf : (s.strand s.cur).flds (rawW1 0x00 nopOps) (rawW1 0x00 nopOps).info = [] := rfl
  have hl : (rawW1 0x00 nopOps).needsLog = false := rfl
  simp [Ready, Strand.gate, hf, hl, Strand.outOfBounds, Strand.heldBy]

/-- Going on without leaving or repeating a loop moves the PC and nothing else (R127). -/
theorem next_eq_of_loops {x : Strand} {n : Nat} (h : (x.next n).loops = x.loops) : x.next n = { x with pc := (x.next n).pc } := by
  have hx : x.next n = { x with pc := (x.next n).pc, loops := (x.next n).loops } := by
    unfold Strand.next
    split <;> rfl
  rw [hx, h]

/-- Settles O28: the effect of a NOP, its one word and the trap of the all-zero word, each by its own lemma. -/
theorem nopChangesOnlyThePc : Obligations.NopChangesOnlyThePc :=
  ⟨decodeWords_nop, reservedWordsAreIllegal.2.2.2, fun s => issueStrand_go s _ id (ready_nop s), fun _ => next_eq_of_loops⟩

end Sys2Proof.Proofs

namespace Sys2Proof.Proofs

open Sys2Proof.Machine Sys2Proof.Laws

/-! ## Divergence (O29) -/

/-- A bit of the mask that a list of threads adds to a mask. -/
theorem testBit_foldl_mask (l : List Nat) (m i : Nat) :
    (l.foldl (fun m t => m ||| 2 ^ t) m).testBit i = (m.testBit i || decide (i ∈ l)) := by
  induction l generalizing m with
  | nil => simp
  | cons t l ih =>
    rw [List.foldl_cons, ih, Nat.testBit_or, Nat.testBit_two_pow]
    simp [Bool.or_assoc, eq_comm]

/-- The mask of a list of threads has the bits of those threads. -/
theorem testBit_maskOf (l : List Nat) (i : Nat) : (maskOf l).testBit i = decide (i ∈ l) := by
  simp [maskOf, testBit_foldl_mask]

/-- The mask of the active threads whose guard holds (R124). -/
def guardMask (x : Strand) (g : BitVec 4) : BitVec 64 := BitVec.ofNat 64 (maskOf (x.guarded g))

theorem getLsbD_guardMask (x : Strand) (g : BitVec 4) {th : Nat} (h : th < 64) :
    (guardMask x g).getLsbD th = (x.amask.getLsbD th && x.guard g th) := by
  rw [getLsbD_amask x h, guardMask, BitVec.getLsbD_ofNat, testBit_maskOf]
  simp [Strand.guarded, h]

/-- The active threads whose guard does not hold. -/
theorem getLsbD_guardMask_rest (x : Strand) (g : BitVec 4) {th : Nat} (h : th < 64) :
    (x.amask &&& ~~~guardMask x g).getLsbD th = (x.amask.getLsbD th && !x.guard g th) := by
  rw [BitVec.getLsbD_and, BitVec.getLsbD_not, getLsbD_guardMask x g h]
  cases x.amask.getLsbD th <;> simp [h]

/-- A mask of the active threads with a property is empty exactly where none has it. -/
theorem mask_eq_zero {x : Strand} {m : BitVec 64} {c : Nat → Bool} (hm : ∀ th < 64, m.getLsbD th = (x.amask.getLsbD th && c th)) :
    m = 0 ↔ ∀ th ∈ x.active, c th = false := by
  refine ⟨fun h th ht => ?_, fun h => BitVec.eq_of_getLsbD_eq fun th hth => ?_⟩
  · have hth := mem_active x th ht
    have hbit := hm th hth
    rw [getLsbD_amask x hth] at hbit
    simpa [ht, h] using hbit.symm
  · rw [hm th hth, getLsbD_amask x hth]
    by_cases ht : th ∈ x.active
    · simp [h th ht]
    · simp [ht]

/-- The guard holds in no active thread. -/
theorem guardMask_eq_zero {x : Strand} {g : BitVec 4} : guardMask x g = 0 ↔ ∀ th ∈ x.active, x.guard g th = false :=
  mask_eq_zero fun _ => getLsbD_guardMask x g

/-- The guard holds in every active thread. -/
theorem guardMask_rest_eq_zero {x : Strand} {g : BitVec 4} :
    x.amask &&& ~~~guardMask x g = 0 ↔ ∀ th ∈ x.active, x.guard g th = true :=
  (mask_eq_zero fun _ => getLsbD_guardMask_rest x g).trans (by simp)

/-- BRC as R124 has it, by what its guard's mask and the other active threads are. -/
theorem execBrc_go (o : BWOps) (s : State) (h : Ready s (rawBW 0x02 o)) :
    execBrc o s = .next (
      let body := s.me.pc + 4#56 * o.offA.signExtend 56
      let join := s.me.pc + 4#56 * o.offB.signExtend 56
      let e := guardMask s.me o.g
      let n := s.me.amask &&& ~~~e
      if e = 0 then s.setStrand s.cur (s.me.jump join)
      else if n = 0 then s.setStrand s.cur (s.me.jump body)
      else if 16 ≤ s.me.divs.length then s.fault s.cur (rawBW 0x02 o) clsDivOvf 0
      else s.setStrand s.cur { s.me.jump body with divs := ⟨n, join⟩ :: s.me.divs, amask := e }) := by
  simp only [← branchTo_eq]
  unfold execBrc
  exact issue_go s (rawBW 0x02 o) _ h

/-- The active threads are those whose guard holds and the others. -/
theorem guardMask_splits (x : Strand) (g : BitVec 4) :
    (x.amask &&& ~~~guardMask x g) ||| guardMask x g = x.amask ∧ (x.amask &&& ~~~guardMask x g) &&& guardMask x g = 0 := by
  constructor
  all_goals
    refine BitVec.eq_of_getLsbD_eq fun th hth => ?_
    simp only [BitVec.getLsbD_or, BitVec.getLsbD_and (y := guardMask x g), getLsbD_guardMask_rest x g hth,
      getLsbD_guardMask x g hth]
    cases x.amask.getLsbD th <;> simp

/-- An active thread whose guard holds keeps the mask from being empty. -/
theorem execBrc_cases (o : BWOps) (s : State) (h : Ready s (rawBW 0x02 o)) :
    let body := s.me.pc + 4#56 * o.offA.signExtend 56
    let join := s.me.pc + 4#56 * o.offB.signExtend 56
    let goes (th : Nat) : Bool := s.me.guard o.g th
    ((∀ th ∈ s.me.active, goes th = false) → execBrc o s = .next (s.setStrand s.cur (s.me.jump join)))
    ∧ (s.me.amask ≠ 0 → (∀ th ∈ s.me.active, goes th = true) → execBrc o s = .next (s.setStrand s.cur (s.me.jump body)))
    ∧ ((∃ th ∈ s.me.active, goes th = true) → (∃ th ∈ s.me.active, goes th = false) → 16 ≤ s.me.divs.length →
        execBrc o s = .next (s.fault s.cur (rawBW 0x02 o) clsDivOvf 0))
    ∧ ((∃ th ∈ s.me.active, goes th = true) → (∃ th ∈ s.me.active, goes th = false) → s.me.divs.length < 16 →
        ∃ n e : BitVec 64, n ||| e = s.me.amask ∧ n &&& e = 0 ∧ (∀ th < 64, e.getLsbD th = (s.me.amask.getLsbD th && goes th))
          ∧ execBrc o s = .next (s.setStrand s.cur { s.me.jump body with divs := ⟨n, join⟩ :: s.me.divs, amask := e })) := by
  intro body join goes
  have hgo := execBrc_go o s h
  have hsome (ht : ∃ th ∈ s.me.active, goes th = true) : guardMask s.me o.g ≠ 0 := fun h0 => by
    obtain ⟨th, ha, hth⟩ := ht
    exact Bool.false_ne_true ((guardMask_eq_zero.mp h0 th ha).symm.trans hth)
  have hothers (hf : ∃ th ∈ s.me.active, goes th = false) : s.me.amask &&& ~~~guardMask s.me o.g ≠ 0 := fun h0 => by
    obtain ⟨th, ha, hth⟩ := hf
    exact Bool.false_ne_true (hth.symm.trans (guardMask_rest_eq_zero.mp h0 th ha))
  refine ⟨fun hnone => ?_, fun hm hall => ?_, fun ht hf hfull => ?_, fun ht hf hroom => ?_⟩
  · exact hgo.trans (congrArg _ (if_pos (guardMask_eq_zero.mpr hnone)))
  · obtain ⟨th, ha⟩ := List.exists_mem_of_ne_nil _ (active_ne_nil hm)
    exact hgo.trans (congrArg _ ((if_neg (hsome ⟨th, ha, hall th ha⟩)).trans (if_pos (guardMask_rest_eq_zero.mpr hall))))
  · exact hgo.trans (congrArg _ ((if_neg (hsome ht)).trans ((if_neg (hothers hf)).trans (if_pos hfull))))
  · obtain ⟨hor, hand⟩ := guardMask_splits s.me o.g
    exact ⟨_, guardMask s.me o.g, hor, hand, fun _ => getLsbD_guardMask s.me o.g,
      hgo.trans (congrArg _ ((if_neg (hsome ht)).trans ((if_neg (hothers hf)).trans (if_neg (by omega)))))⟩

/-- A rejoin at the top entry, and then as from the entries below it (R125). -/
theorem atJoin_cons {st : Strand} {e : DivEnt} {rest : List DivEnt} (h : st.divs = e :: rest) :
    st.atJoin = if e.joinpc = st.pc then ({ st with divs := rest, amask := st.amask ||| e.rmask } : Strand).atJoin else st := by
  by_cases hj : e.joinpc = st.pc
  · simp only [Strand.atJoin, h, rejoin, if_pos hj]
  · simp only [Strand.atJoin, h, rejoin, if_neg hj]
    rw [← h]

/-- The loops of a strand once the joins of some entries have been gone to from an address (R128); in handler mode all of them stay
(R203). -/
def loopsLeft (x : Strand) (b : BitVec 56) (es : List DivEnt) : List LoopEnt :=
  if x.hmode then x.loops else es.foldl (fun l e => unwind l b e.joinpc) x.loops

/-- The end of the active threads passes over entries that hold no thread, to the first that holds some: its threads resume at its
join, with the loops left that each of these joins leaves (R125, R128). -/
theorem popDivs_resumes (b : BitVec 56) {skipped rest : List DivEnt} {e : DivEnt} (hs : ∀ x ∈ skipped, x.rmask = 0) (he : e.rmask ≠ 0)
    (st : Strand) :
    popDivs b (skipped ++ e :: rest) st =
      some { st with pc := e.joinpc, amask := e.rmask, divs := rest, loops := loopsLeft st b (skipped ++ [e]) } := by
  induction skipped generalizing st with
  | nil => exact if_neg he
  | cons x t ih =>
    rw [List.cons_append, popDivs, if_pos (hs x (.head _)), ih fun y hy => hs y (.tail _ hy)]
    unfold loopsLeft
    cases st.hmode <;> rfl

/-- With no entry that holds threads, none resumes (R125). -/
theorem popDivs_none (b : BitVec 56) {divs : List DivEnt} (hs : ∀ x ∈ divs, x.rmask = 0) (st : Strand) : popDivs b divs st = none := by
  induction divs generalizing st with
  | nil => rfl
  | cons x t ih => 
    rw [popDivs, if_pos (hs x (.head _)), ih fun y hy => hs y (.tail _ hy)]

/-- EXIT ends every active thread (R125, R140). -/
theorem execExit_go (o : W1Ops) (s : State) (h : Ready s (rawW1 0x08 o)) : execExit o s = .next (s.endThreads s.cur) :=
  issue_go s _ _ h

/-- What is left of the strand whose turn it is when its active threads end, where an entry holds threads. -/
theorem endThreads_resumes {s : State} {skipped rest : List DivEnt} {e : DivEnt} (hd : s.me.divs = skipped ++ e :: rest)
    (hs : ∀ x ∈ skipped, x.rmask = 0) (he : e.rmask ≠ 0) :
    s.endThreads s.cur = s.setStrand s.cur
      { s.me with pc := e.joinpc, amask := e.rmask, divs := rest, loops := loopsLeft s.me s.me.pc (skipped ++ [e]) } := by
  have hp : popDivs s.me.pc s.me.divs s.me = _ := hd ▸ popDivs_resumes (rest := rest) s.me.pc hs he s.me
  unfold State.endThreads
  dsimp only
  rw [show s.strand s.cur = s.me from rfl, hp]

/-- Where no entry holds threads, the strand ends with them (R140). -/
theorem endThreads_ends {s : State} (hs : ∀ x ∈ s.me.divs, x.rmask = 0) :
    s.endThreads s.cur = (s.setStrand s.cur { s.me with amask := 0, divs := [] }).endStrand s.cur := by
  unfold State.endThreads
  dsimp only
  rw [show s.strand s.cur = s.me from rfl, popDivs_none s.me.pc hs s.me]

/-- BRC, joins and EXIT (R124, R125, R140). -/
theorem divergenceSplitsAndRejoins : DivergenceSplitsAndRejoins :=
  ⟨fun s o h => execBrc_cases o s h, fun _ _ _ => atJoin_cons, fun s o h =>
    ⟨fun _ _ _ hd hs he => (execExit_go o s h).trans (congrArg _ (endThreads_resumes hd hs he)),
      fun hs => (execExit_go o s h).trans (congrArg _ (endThreads_ends hs))⟩⟩

/-! ## Loops (O29) -/

/-- LOOP as R126 has it. -/
theorem execLoop_go (o : BWOps) (s : State) (h : Ready s (rawBW 0x07 o)) :
    execLoop o s = .next (
      let n := s.me.s 63 % 2 ^ 32
      let start := s.me.pc + 12#56
      let last := s.me.pc + 4#56 * o.offA.signExtend 56
      if s.me.hmode then s.fault s.cur (rawBW 0x07 o) clsLoopOvf 0
      else if n = 0 ∨ last < start then s.setStrand s.cur { s.me with pc := s.me.pc + 4#56 * o.offB.signExtend 56 }
      else if 4 ≤ s.me.loops.length then s.fault s.cur (rawBW 0x07 o) clsLoopOvf 0
      else s.setStrand s.cur { s.me with pc := start, loops := ⟨start, last, BitVec.ofNat 32 n⟩ :: s.me.loops }) := by
  simp only [← branchTo_eq]
  unfold execLoop
  exact issue_go s (rawBW 0x07 o) _ h

/-- LOOP goes to its body, to its exit, or traps (R126, R203). -/
theorem execLoop_cases (o : BWOps) (s : State) (h : Ready s (rawBW 0x07 o)) :
    let n := s.me.s 63 % 2 ^ 32
    let start := s.me.pc + 12#56
    let last := s.me.pc + 4#56 * o.offA.signExtend 56
    (s.me.hmode = true → execLoop o s = .next (s.fault s.cur (rawBW 0x07 o) clsLoopOvf 0))
    ∧ (s.me.hmode = false → n = 0 ∨ last < start →
        execLoop o s = .next (s.setStrand s.cur { s.me with pc := s.me.pc + 4#56 * o.offB.signExtend 56 }))
    ∧ (s.me.hmode = false → n ≠ 0 → start ≤ last → 4 ≤ s.me.loops.length →
        execLoop o s = .next (s.fault s.cur (rawBW 0x07 o) clsLoopOvf 0))
    ∧ (s.me.hmode = false → n ≠ 0 → start ≤ last → s.me.loops.length < 4 →
        execLoop o s = .next (s.setStrand s.cur { s.me with pc := start, loops := ⟨start, last, BitVec.ofNat 32 n⟩ :: s.me.loops })) := by
  intro n start last
  have hgo := execLoop_go o s h
  have hbody (hn : n ≠ 0) (hle : start ≤ last) : ¬ (n = 0 ∨ last < start) :=
    not_or.mpr ⟨hn, BitVec.not_lt.mpr hle⟩
  refine ⟨fun hh => ?_, fun hh hexit => ?_, fun hh hn hle hfull => ?_, fun hh hn hle hroom => ?_⟩
  · exact hgo.trans (congrArg _ (if_pos hh))
  all_goals have hh : ¬ s.me.hmode = true := Bool.eq_false_iff.mp hh
  · exact hgo.trans (congrArg _ ((if_neg hh).trans (if_pos hexit)))
  · exact hgo.trans (congrArg _ ((if_neg hh).trans ((if_neg (hbody hn hle)).trans (if_pos hfull))))
  · exact hgo.trans (congrArg _ ((if_neg hh).trans ((if_neg (hbody hn hle)).trans (if_neg (by omega)))))

/-- Where loops stand still or there are none, the PC goes past the instruction (R127, R203). -/
theorem next_plain {x : Strand} (n : Nat) (h : x.hmode = true ∨ x.loops = []) : x.next n = { x with pc := x.pc + BitVec.ofNat 56 n } := by
  unfold Strand.next
  split
  · rfl
  · rw [h.resolve_left ‹_›]
    rfl

/-- Past any other instruction than the last of the innermost body (R127). -/
theorem next_inside {x : Strand} {e : LoopEnt} {rest : List LoopEnt} (n : Nat) (hh : x.hmode = false) (hl : x.loops = e :: rest)
    (he : e.last ≠ x.pc) : x.next n = { x with pc := x.pc + BitVec.ofNat 56 n } := by
  unfold Strand.next
  rw [if_neg (Bool.eq_false_iff.mp hh), hl, loopBack, if_neg he, ← hl]

/-- The end of the innermost body with iterations left (R127). -/
theorem next_again {x : Strand} {e : LoopEnt} {rest : List LoopEnt} (n : Nat) (hh : x.hmode = false) (hl : x.loops = e :: rest)
    (he : e.last = x.pc) (hc : e.count ≠ 1#32) :
    x.next n = { x with pc := e.start, loops := { e with count := e.count - 1#32 } :: rest } := by
  have hleft : e.count - 1 ≠ 0 := fun h0 => hc (by bv_omega)
  unfold Strand.next
  rw [if_neg (Bool.eq_false_iff.mp hh), hl, loopBack, if_pos he, if_pos hleft]
  rfl

/-- The end of the last iteration: the loop is left, and the one around it is treated alike (R127). -/
theorem next_left {x : Strand} {e : LoopEnt} {rest : List LoopEnt} (n : Nat) (hh : x.hmode = false) (hl : x.loops = e :: rest)
    (he : e.last = x.pc) (hc : e.count = 1#32) : x.next n = ({ x with loops := rest } : Strand).next n := by
  unfold Strand.next
  rw [if_neg (Bool.eq_false_iff.mp hh), if_neg (Bool.eq_false_iff.mp hh), hl, loopBack, if_pos he, if_neg (by simp [hc])]

/-- LOOP, and going on inside loops (R126, R127, R203). -/
theorem loopsRunTheirBody : LoopsRunTheirBody :=
  ⟨fun s o h => execLoop_cases o s h, fun _ n => ⟨next_plain n, fun _ _ hh hl => ⟨next_inside n hh hl, next_again n hh hl, next_left n hh hl⟩⟩⟩

/-- Settles O29: BRC, joins, EXIT and LOOP, and the count of an iteration, each by its own lemma. -/
theorem divergenceAndLoops : Obligations.DivergenceAndLoops := ⟨divergenceSplitsAndRejoins, loopsRunTheirBody⟩

end Sys2Proof.Proofs

namespace Sys2Proof.Proofs

open Sys2Proof.Machine Sys2Proof.Laws

/-! ## Floating-point values (O20, O21, O22, O25)

The patterns of an IEEE format are ordered by sign and magnitude, and so are their values: the magnitude of a pattern (`mag`) and that
of its value in units of the smallest subnormal (`units`) rise together. -/

/-- A format of the IEEE kind: its highest exponent holds infinities and NaNs, and there are normal values and fractions (R68). -/
structure IsIeee (f : FFmt) : Prop where
  top : f.top = false
  ebits : 2 ≤ f.ebits
  fbits : 1 ≤ f.fbits

theorem isIeee_f32 : IsIeee fmtF32 := ⟨rfl, by decide, by decide⟩

theorem isIeee_of_mem {f : FFmt} (h : f ∈ [fmtF32, fmtF16, fmtBf16]) : IsIeee f := by
  fin_cases h <;> exact ⟨rfl, by decide, by decide⟩

/-- The magnitude of a pattern: all bits below the sign. -/
def mag (f : FFmt) (x : Nat) : Nat := x % f.signBit

/-- The sign of a pattern. -/
def sign (f : FFmt) (x : Nat) : Bool := bit x (f.ebits + f.fbits)

/-- The exponent of the smallest subnormal. -/
def qmin (f : FFmt) : Int := 1 - f.bias - f.fbits

section

variable {f : FFmt}

theorem signBit_eq (f : FFmt) : f.signBit = 2 ^ f.fbits * 2 ^ f.ebits := by
  rw [FFmt.signBit, Nat.pow_add, Nat.mul_comm]

theorem signBit_pos (f : FFmt) : 0 < f.signBit := Nat.two_pow_pos _

theorem infBits_add (f : FFmt) : f.infBits + 2 ^ f.fbits = f.signBit := by
  rw [signBit_eq, FFmt.infBits, Nat.sub_mul, Nat.mul_comm, Nat.one_mul]
  exact Nat.sub_add_cancel (Nat.le_mul_of_pos_right _ (Nat.two_pow_pos _))

theorem mag_lt (f : FFmt) (x : Nat) : mag f x < f.signBit := Nat.mod_lt _ (signBit_pos f)

/-- The exponent field of a pattern. -/
theorem exponent_eq (f : FFmt) (x : Nat) : (x >>> f.fbits) % 2 ^ f.ebits = mag f x / 2 ^ f.fbits := by
  rw [Nat.shiftRight_eq_div_pow, mag, signBit_eq, Nat.mod_mul_right_div_self]

/-- The fraction field of a pattern. -/
theorem fraction_eq (f : FFmt) (x : Nat) : x % 2 ^ f.fbits = mag f x % 2 ^ f.fbits := by
  rw [mag, signBit_eq, Nat.mod_mul_right_mod]

/-- The value of a pattern by its magnitude (R68). -/
theorem value_eq (hf : IsIeee f) (x : Nat) :
    f.value x = if mag f x < f.infBits then
        (if mag f x < 2 ^ f.fbits then .fin (sign f x) (mag f x) (qmin f)
        else .fin (sign f x) (2 ^ f.fbits + mag f x % 2 ^ f.fbits) ((mag f x / 2 ^ f.fbits : Nat) - f.bias - f.fbits))
      else if mag f x = f.infBits then .inf (sign f x) else .nan := by
  have hF := Nat.two_pow_pos f.fbits
  have hlt : mag f x / 2 ^ f.fbits < 2 ^ f.ebits := by
    rw [Nat.div_lt_iff_lt_mul hF, Nat.mul_comm, ← signBit_eq]
    exact mag_lt f x
  have htop : mag f x / 2 ^ f.fbits = 2 ^ f.ebits - 1 ↔ ¬ mag f x < f.infBits := by
    rw [FFmt.infBits, ← Nat.div_lt_iff_lt_mul hF]
    omega
  have hzero : mag f x / 2 ^ f.fbits = 0 ↔ mag f x < 2 ^ f.fbits := Nat.div_eq_zero_iff_lt hF
  have hsplit := Nat.div_add_mod (mag f x) (2 ^ f.fbits)
  unfold FFmt.value
  simp only [hf.top, exponent_eq, fraction_eq f x, htop, hzero]
  by_cases hm : mag f x < f.infBits
  · simp only [hm, not_true_eq_false, if_false, if_true, Bool.false_eq_true]
    split
    · rw [Nat.mod_eq_of_lt ‹_›]
      rfl
    · rfl
  · have hinf : mag f x % 2 ^ f.fbits = 0 ↔ mag f x = f.infBits := by
      rw [htop.mpr hm, Nat.mul_comm, show (2 ^ f.ebits - 1) * 2 ^ f.fbits = f.infBits from rfl] at hsplit
      omega
    simp only [hm, not_false_eq_true, if_false, if_true, Bool.false_eq_true, hinf]
    rfl

theorem value_isNan (hf : IsIeee f) (x : Nat) : (f.value x).isNan = decide (f.infBits < mag f x) := by
  rw [value_eq hf]
  split_ifs <;> simp [Ex.isNan] <;> omega

theorem value_isNeg (hf : IsIeee f) {x : Nat} (h : (f.value x).isNan = false) : (f.value x).isNeg = sign f x := by
  rw [value_eq hf] at h ⊢
  split_ifs at h ⊢
  · rfl
  · rfl
  · rfl
  · cases h

theorem two_signBit (f : FFmt) : 2 * f.signBit = 2 ^ (f.ebits + f.fbits + 1) := (Nat.pow_succ' ..).symm

/-- A value depends on the bits of its pattern alone. -/
theorem value_mod (hf : IsIeee f) (x : Nat) : f.value (x % (2 * f.signBit)) = f.value x := by
  have hm : mag f (x % (2 * f.signBit)) = mag f x := Nat.mod_mod_of_dvd x (Nat.dvd_mul_left ..)
  have hs : sign f (x % (2 * f.signBit)) = sign f x := by
    rw [two_signBit]
    exact bit_mod _ _ _ (Nat.lt_succ_self _)
  rw [value_eq hf, value_eq hf, hm, hs]

theorem sign_eq {x : Nat} (hx : x < 2 * f.signBit) : sign f x = decide (f.signBit ≤ x) := by
  rw [sign, bit_testBit, Nat.testBit_eq_decide_div_mod_eq, ← FFmt.signBit]
  have h2 : x / f.signBit < 2 := (Nat.div_lt_iff_lt_mul (signBit_pos f)).mpr hx
  have h1 : 1 ≤ x / f.signBit ↔ f.signBit ≤ x := by
    rw [Nat.le_div_iff_mul_le (signBit_pos f), Nat.one_mul]
  refine decide_eq_decide.mpr ?_
  rw [← h1]
  generalize x / f.signBit = q at h2
  omega

/-- A pattern is its sign and its magnitude. -/
theorem pattern_eq {x : Nat} (hx : x < 2 * f.signBit) : x = (if sign f x then f.signBit else 0) + mag f x := by
  rw [sign_eq hx, mag]
  by_cases h : f.signBit ≤ x
  · rw [if_pos (decide_eq_true h), Nat.mod_eq_sub_mod h, Nat.mod_eq_of_lt (by omega)]
    omega
  · rw [if_neg (by simpa using h), Nat.mod_eq_of_lt (by omega), Nat.zero_add]

/-! ### The order of values -/

/-- The magnitude of a finite value in units of the smallest subnormal, from that of its pattern. -/
def units (f : FFmt) (m : Nat) : Nat :=
  if m < 2 ^ f.fbits then m else (2 ^ f.fbits + m % 2 ^ f.fbits) * 2 ^ (m / 2 ^ f.fbits - 1)

/-- The units rise with the magnitude of the pattern: by one unit of the exponent, also from one exponent to the next. -/
theorem units_strictMono (f : FFmt) : StrictMono (units f) := by
  refine strictMono_nat_of_lt_succ fun m => ?_
  have hF := Nat.two_pow_pos f.fbits
  unfold units
  by_cases h0 : m < 2 ^ f.fbits
  · rw [if_pos h0]
    split_ifs with h1
    · omega
    · have hm : m + 1 = 2 ^ f.fbits := by omega
      simp [hm, h0]
  · rw [if_neg h0, if_neg (by omega)]
    have hd := Nat.div_add_mod m (2 ^ f.fbits)
    have hr := Nat.mod_lt m hF
    have h1 : 1 ≤ m / 2 ^ f.fbits := by
      rw [Nat.le_div_iff_mul_le hF]
      omega
    obtain ⟨k, hk⟩ := Nat.exists_eq_add_of_le' h1
    rw [← hd, hk] 
    generalize m % 2 ^ f.fbits = r at hr ⊢
    generalize 2 ^ f.fbits = F at *
    have hp := Nat.two_pow_pos k
    by_cases hr1 : r + 1 < F
    · rw [Nat.add_assoc, Nat.mul_add_div hF, Nat.mul_add_mod, Nat.mul_add_div hF, Nat.mul_add_mod, Nat.div_eq_of_lt hr, Nat.div_eq_of_lt hr1,
        Nat.mod_eq_of_lt hr, Nat.mod_eq_of_lt hr1]
      exact Nat.mul_lt_mul_of_pos_right (by omega) hp
    · have hF1 : r + 1 = F := by omega
      rw [Nat.add_assoc, Nat.mul_add_div hF, Nat.mul_add_mod, Nat.mul_add_div hF, Nat.mul_add_mod, Nat.div_eq_of_lt hr, Nat.mod_eq_of_lt hr,
        hF1, Nat.div_self hF, Nat.mod_self]
      calc (F + r) * 2 ^ k < (F + F) * 2 ^ k := Nat.mul_lt_mul_of_pos_right (by omega) hp
        _ = (F + 0) * 2 ^ (k + 1) := by ring

/-- A finite value is a count of quanta no smaller than the smallest subnormal, and its units are that count in that unit. -/
theorem value_fin (hf : IsIeee f) {x : Nat} (h : mag f x < f.infBits) :
    ∃ m e, f.value x = .fin (sign f x) m e ∧ qmin f ≤ e ∧ m * 2 ^ (e - qmin f).toNat = units f (mag f x) := by
  rw [value_eq hf, if_pos h]
  unfold units
  split
  · exact ⟨_, _, rfl, le_refl _, by simp⟩
  · have h1 : 1 ≤ mag f x / 2 ^ f.fbits := by
      rw [Nat.le_div_iff_mul_le (Nat.two_pow_pos _)]
      omega
    refine ⟨_, _, rfl, ?_, ?_⟩
    · unfold qmin
      omega
    · congr 2
      unfold qmin
      omega

/-- Scaling to a smaller unit multiplies by the units that go into the larger one. -/
theorem scaled_eq_mul (neg : Bool) (m : Nat) {e q p : Int} (hq : q ≤ e) (hp : p ≤ q) :
    scaled neg m e p = scaled neg m e q * (2 ^ (q - p).toNat : Nat) := by
  have h : 2 ^ (e - p).toNat = 2 ^ (e - q).toNat * 2 ^ (q - p).toNat := by
    rw [← Nat.pow_add]
    congr 1
    omega
  unfold scaled
  rw [h, ← Nat.mul_assoc]
  cases neg
  · simp only [Bool.false_eq_true, if_false]
    push_cast
    ring
  · simp only [if_true]
    push_cast
    ring

/-- A magnitude with a sign. -/
def signed (neg : Bool) (m : Nat) : Int := if neg then -(m : Int) else m

theorem signed_false (m : Nat) : signed false m = m := rfl

theorem signed_true (m : Nat) : signed true m = -(m : Int) := rfl

theorem scaled_eq_signed (neg : Bool) (m : Nat) (e q : Int) : scaled neg m e q = signed neg (m * 2 ^ (e - q).toNat) := rfl

/-- With a sign too, units are ordered as the magnitudes of their patterns are. -/
theorem signed_units (f : FFmt) (s t : Bool) (p q : Nat) :
    (signed s (units f p) < signed t (units f q) ↔ signed s p < signed t q)
      ∧ (signed s (units f p) = signed t (units f q) ↔ signed s p = signed t q) := by
  have hpq : units f p < units f q ↔ p < q := (units_strictMono f).lt_iff_lt
  have hqp : units f q < units f p ↔ q < p := (units_strictMono f).lt_iff_lt
  have h0 : units f 0 = 0 := if_pos (Nat.two_pow_pos _)
  have hp0 : units f 0 < units f p ↔ 0 < p := (units_strictMono f).lt_iff_lt
  have hq0 : units f 0 < units f q ↔ 0 < q := (units_strictMono f).lt_iff_lt
  rw [h0] at hp0 hq0
  cases s <;> cases t <;> simp only [signed_true, signed_false] <;> omega

/-- The place of a pattern that is no NaN in the order of values: by sign and magnitude, with -0 at +0. -/
def place (f : FFmt) (x : Nat) : Int := signed (sign f x) (mag f x)

/-- The order of two finite values is that of their places. -/
theorem exCmp_fin (hf : IsIeee f) {a b : Nat} (ha : mag f a < f.infBits) (hb : mag f b < f.infBits) :
    exCmp (f.value a) (f.value b) = if place f a < place f b then -1 else if place f a = place f b then 0 else 1 := by
  obtain ⟨m1, e1, hv1, hq1, hu1⟩ := value_fin hf ha
  obtain ⟨m2, e2, hv2, hq2, hu2⟩ := value_fin hf hb
  have hp : (0 : Int) < (2 ^ (min e1 e2 - qmin f).toNat : Nat) := by exact_mod_cast Nat.two_pow_pos _
  have h1 : scaled (sign f a) m1 e1 (min e1 e2) * (2 ^ (min e1 e2 - qmin f).toNat : Nat) = signed (sign f a) (units f (mag f a)) := by
    rw [← scaled_eq_mul _ _ (min_le_left _ _) (le_min hq1 hq2), scaled_eq_signed, hu1]
  have h2 : scaled (sign f b) m2 e2 (min e1 e2) * (2 ^ (min e1 e2 - qmin f).toNat : Nat) = signed (sign f b) (units f (mag f b)) := by
    rw [← scaled_eq_mul _ _ (min_le_right _ _) (le_min hq1 hq2), scaled_eq_signed, hu2]
  obtain ⟨hlt, heq⟩ := signed_units f (sign f a) (sign f b) (mag f a) (mag f b)
  rw [← h1, ← h2, mul_lt_mul_iff_of_pos_right hp] at hlt
  rw [← h1, ← h2, mul_left_inj' hp.ne'] at heq
  rw [hv1, hv2]
  simp only [exCmp, sub_neg, sub_eq_zero, hlt, heq]
  rfl

/-- The finite patterns lie between the infinities. -/
theorem place_fin {x : Nat} (h : mag f x < f.infBits) : -(f.infBits : Int) < place f x ∧ place f x < f.infBits := by
  unfold place signed
  split <;> omega

/-- The order of values is that of their places. -/
theorem exCmp_value (hf : IsIeee f) {a b : Nat} (ha : (f.value a).isNan = false) (hb : (f.value b).isNan = false) :
    exCmp (f.value a) (f.value b) = if place f a < place f b then -1 else if place f a = place f b then 0 else 1 := by
  have hna : mag f a ≤ f.infBits := by simpa [value_isNan hf] using ha
  have hnb : mag f b ≤ f.infBits := by simpa [value_isNan hf] using hb
  have hinf {x : Nat} (h : ¬ mag f x < f.infBits) (hx : mag f x ≤ f.infBits) :
      f.value x = .inf (sign f x) ∧ place f x = signed (sign f x) f.infBits := by
    have hm : mag f x = f.infBits := by omega
    exact ⟨by rw [value_eq hf, if_neg h, if_pos hm], by rw [place, hm]⟩
  have hpos : 0 < f.infBits := Nat.mul_pos (Nat.sub_pos_of_lt (Nat.one_lt_two_pow (by have := hf.ebits; omega))) (Nat.two_pow_pos _)
  by_cases hfa : mag f a < f.infBits <;> by_cases hfb : mag f b < f.infBits
  · exact exCmp_fin hf hfa hfb
  · obtain ⟨m, e, hva, -, -⟩ := value_fin hf hfa
    obtain ⟨hvb, hpb⟩ := hinf hfb hnb
    obtain ⟨hlo, hhi⟩ := place_fin hfa
    rw [hva, hvb, hpb]
    cases sign f b
    · exact (if_pos hhi).symm
    · exact ((if_neg hlo.le.not_gt).trans (if_neg hlo.ne')).symm
  · obtain ⟨hva, hpa⟩ := hinf hfa hna
    obtain ⟨m, e, hvb, -, -⟩ := value_fin hf hfb
    obtain ⟨hlo, hhi⟩ := place_fin hfb
    rw [hva, hvb, hpa]
    cases sign f a
    · exact ((if_neg hhi.le.not_gt).trans (if_neg hhi.ne')).symm
    · exact (if_pos hlo).symm
  · obtain ⟨hva, hpa⟩ := hinf hfa hna
    obtain ⟨hvb, hpb⟩ := hinf hfb hnb
    rw [hva, hvb, hpa, hpb]
    cases sign f a <;> cases sign f b
    · simp [exCmp]
    · exact ((if_neg (by simp only [signed_true, signed_false]; omega)).trans (if_neg (by simp only [signed_true, signed_false]; omega))).symm
    · exact (if_pos (by simp only [signed_true, signed_false]; omega)).symm
    · simp [exCmp]

end

end Sys2Proof.Proofs

namespace Sys2Proof.Proofs

open Sys2Proof.Machine Sys2Proof.Laws

/-! ## Rounding a value of the format itself -/

section

variable {f : FFmt}

theorem lt_two_pow_bitLen (m : Nat) : m < 2 ^ bitLen m := by
  unfold bitLen
  split
  · simp_all
  · exact Nat.lt_log2_self

theorem bitLen_le_iff {m k : Nat} : bitLen m ≤ k ↔ m < 2 ^ k := by
  unfold bitLen
  split
  · simp_all
  · rw [Nat.succ_le_iff, Nat.log2_lt ‹_›]

/-- No bit is lost where the unit of rounding is no larger than that of the value. -/
theorem roundAt_of_le (rm : Nat) (neg : Bool) (m : Nat) {e q : Int} (h : q ≤ e) : roundAt rm neg m e q = (m * 2 ^ (e - q).toNat, true) :=
  if_pos h

/-- A value whose bits a format holds rounds to itself, whatever the mode (R77). -/
theorem roundEx_exact (ht : f.top = false) (rm : Nat) (neg : Bool) {m : Nat} {e : Int} (hm : m ≠ 0) (hq : qmin f ≤ e) (hb : bitLen m ≤ f.fbits + 1)
    (hn : e = qmin f ∨ bitLen m = f.fbits + 1) (hmax : e + bitLen m - 1 ≤ (2 ^ f.ebits - 2 : Nat) - f.bias) :
    roundEx f rm 0 (.fin neg m e) = ⟨(if neg then f.signBit else 0) + (m + (e - qmin f).toNat * 2 ^ f.fbits), 0, 0⟩ := by
  have h1 : e + (bitLen m : Int) - 1 - f.fbits ≤ e := by omega
  have hun : m * 2 ^ (e - (e + (bitLen m : Int) - 1 - f.fbits)).toNat ≠ 2 ^ (f.fbits + 1) := by
    have hlt := lt_two_pow_bitLen m
    have hp : 2 ^ (f.fbits + 1) = 2 ^ bitLen m * 2 ^ (e - (e + (bitLen m : Int) - 1 - f.fbits)).toNat := by
      rw [← Nat.pow_add]
      congr 1
      omega
    rw [hp]
    exact (Nat.mul_lt_mul_of_pos_right hlt (Nat.two_pow_pos _)).ne
  have hmaxq : max (e + (bitLen m : Int) - 1 - f.fbits) (1 - f.bias - f.fbits) = e := by
    unfold qmin at hn hq
    omega
  unfold roundEx
  have hover : ¬ (((2 ^ f.ebits - 2 : Nat) : Int) - f.bias < e + (bitLen m : Int) - 1) := by omega
  have hexp : e + f.fbits - (1 - f.bias) = e - qmin f := by
    unfold qmin
    omega
  have henc : (if e = 1 - f.bias - f.fbits then m else m + (e - qmin f).toNat * 2 ^ f.fbits) = m + (e - qmin f).toNat * 2 ^ f.fbits := by
    split
    · rw [show e - qmin f = 0 from Int.sub_eq_zero.mpr ‹_›]
      simp
    · rfl
  simp [hm, roundAt_of_le rm neg m h1, hun, ht, hmaxq, roundAt_of_le rm neg m (le_refl e), hover, hexp, henc]

/-- Every pattern that is no NaN rounds from its value to itself, whatever the mode (R77, R106). -/
theorem roundEx_value (hf : IsIeee f) (rm : Nat) {x : Nat} (hx : x < 2 * f.signBit) (hn : (f.value x).isNan = false) :
    roundEx f rm 0 (f.value x) = ⟨x, 0, 0⟩ := by
  have hF := Nat.two_pow_pos f.fbits
  have hE : 2 ^ 2 ≤ 2 ^ f.ebits := Nat.pow_le_pow_right (by omega) hf.ebits
  have hxe := pattern_eq hx
  rw [value_isNan hf, decide_eq_false_iff_not] at hn
  rw [value_eq hf]
  split_ifs with hfin hsub hinf
  · by_cases h0 : mag f x = 0
    · rw [h0] at hxe ⊢
      exact congrArg (Rounded.mk · 0 0) hxe.symm
    · have hb : bitLen (mag f x) ≤ f.fbits := bitLen_le_iff.mpr hsub
      rw [roundEx_exact hf.top rm _ h0 (le_refl _) (by omega) (.inl rfl) (by unfold qmin; omega)]
      simp [← hxe]
  · have hd := Nat.div_add_mod (mag f x) (2 ^ f.fbits)
    have hr := Nat.mod_lt (mag f x) hF
    have h1 : 1 ≤ mag f x / 2 ^ f.fbits := by
      rw [Nat.le_div_iff_mul_le hF]
      omega
    have h2 : mag f x / 2 ^ f.fbits < 2 ^ f.ebits - 1 := (Nat.div_lt_iff_lt_mul hF).mpr hfin
    have hb : bitLen (2 ^ f.fbits + mag f x % 2 ^ f.fbits) = f.fbits + 1 := by
      have hle : bitLen (2 ^ f.fbits + mag f x % 2 ^ f.fbits) ≤ f.fbits + 1 := bitLen_le_iff.mpr (by rw [Nat.pow_succ]; omega)
      have hge : ¬ bitLen (2 ^ f.fbits + mag f x % 2 ^ f.fbits) ≤ f.fbits := fun h => absurd (bitLen_le_iff.mp h) (by omega)
      omega
    rw [roundEx_exact hf.top rm _ (by omega) (by unfold qmin; omega) hb.le (.inr hb) (by omega)]
    obtain ⟨k, hk⟩ := Nat.exists_eq_add_of_le' h1
    have hexp : ((mag f x / 2 ^ f.fbits : Nat) - f.bias - f.fbits - qmin f).toNat = k := by
      unfold qmin
      omega
    have hm : 2 ^ f.fbits + mag f x % 2 ^ f.fbits + k * 2 ^ f.fbits = mag f x := by
      rw [hk, Nat.mul_add, Nat.mul_comm _ k] at hd
      omega
    rw [hexp, hm, ← hxe]
  · rw [hinf] at hxe
    simp [roundEx, infInput, hf.top, ← hxe]
  · omega

/-- Every pattern of a NaN rounds from its value to the canonical NaN (R69). -/
theorem roundEx_value_nan (rm : Nat) {x : Nat} (hn : (f.value x).isNan = true) : roundEx f rm 0 (f.value x) = ⟨f.nan, 0, 1⟩ := by
  cases hv : f.value x with
  | nan => rfl
  | inf _ => simp [hv, Ex.isNan] at hn
  | fin _ _ _ => simp [hv, Ex.isNan] at hn

/-! ### FMIN and FMAX -/

/-- The key of R106 is the place in the order of values, with -0 below +0. -/
theorem floatKey_eq {x : Nat} (hx : x < 2 * f.signBit) : floatKey f x = if sign f x then place f x - 1 else place f x := by
  have hxe := pattern_eq hx
  have hs := sign_eq hx
  unfold floatKey place
  cases hb : sign f x <;> rw [hb] at hxe hs
  · rw [if_pos (by simpa using hs.symm)]
    simpa [signed_false] using hxe
  · rw [if_neg (by simpa using hs.symm)]
    simp only [if_true, signed_true] at hxe ⊢
    omega

/-- At or below 0 stand the patterns with a sign, at or above it those without. -/
theorem place_sign (f : FFmt) (x : Nat) : if sign f x then place f x ≤ 0 else 0 ≤ place f x := by
  unfold place
  cases sign f x
  · simp [signed_false]
  · simp [signed_true]

/-- The key tells the patterns of a format apart. -/
theorem floatKey_inj {a b : Nat} (h : floatKey f a = floatKey f b) : a = b := by
  unfold floatKey at h
  split_ifs at h <;> omega

/-- Values are ordered as their keys are; of two equal ones, a zero with a sign has the lower key. -/
theorem floatKey_order {a b : Nat} (ha : a < 2 * f.signBit) (hb : b < 2 * f.signBit) :
    (place f a < place f b → floatKey f a ≤ floatKey f b) ∧ (place f b < place f a → floatKey f b ≤ floatKey f a)
      ∧ (place f a = place f b → if sign f a then floatKey f a ≤ floatKey f b else floatKey f b ≤ floatKey f a) := by
  rw [floatKey_eq ha, floatKey_eq hb]
  have hpa := place_sign f a
  have hpb := place_sign f b
  cases sign f a <;> cases sign f b <;> simp only [if_true, if_false, Bool.false_eq_true] at hpa hpb ⊢ <;> omega

/-- FMIN and FMAX of two values are the one with the lower and the one with the higher key (R106). -/
theorem exMin_exMax_value (hf : IsIeee f) {a b : Nat} (ha : a < 2 * f.signBit) (hb : b < 2 * f.signBit) (hna : (f.value a).isNan = false)
    (hnb : (f.value b).isNan = false) :
    (floatKey f a ≤ floatKey f b ∧ exMin (f.value a) (f.value b) = f.value a ∧ exMax (f.value a) (f.value b) = f.value b)
      ∨ (floatKey f b ≤ floatKey f a ∧ exMin (f.value a) (f.value b) = f.value b ∧ exMax (f.value a) (f.value b) = f.value a) := by
  obtain ⟨hlt, hgt, heq⟩ := floatKey_order ha hb
  simp only [exMin, exMax, hna, hnb, exCmp_value hf hna hnb, value_isNeg hf hna]
  rcases lt_trichotomy (place f a) (place f b) with h | h | h
  · exact .inl ⟨hlt h, by simp [h]⟩
  · have heq := heq h
    cases hs : sign f a <;> rw [hs] at heq
    · exact .inr ⟨heq, by simp [h]⟩
    · exact .inl ⟨heq, by simp [h]⟩
  · exact .inr ⟨hgt h, by simp [h.not_gt, h.ne']⟩

theorem exMin_value (hf : IsIeee f) {a b : Nat} (ha : a < 2 * f.signBit) (hb : b < 2 * f.signBit) (hna : (f.value a).isNan = false)
    (hnb : (f.value b).isNan = false) : exMin (f.value a) (f.value b) = f.value (if floatKey f a ≤ floatKey f b then a else b) := by
  rcases exMin_exMax_value hf ha hb hna hnb with ⟨h, hmin, -⟩ | ⟨h, hmin, -⟩
  · rw [hmin, if_pos h]
  · rw [hmin]
    split
    · rw [floatKey_inj (le_antisymm h ‹_›)]
    · rfl

theorem exMax_value (hf : IsIeee f) {a b : Nat} (ha : a < 2 * f.signBit) (hb : b < 2 * f.signBit) (hna : (f.value a).isNan = false)
    (hnb : (f.value b).isNan = false) : exMax (f.value a) (f.value b) = f.value (if floatKey f a ≤ floatKey f b then b else a) := by
  rcases exMin_exMax_value hf ha hb hna hnb with ⟨h, -, hmax⟩ | ⟨h, -, hmax⟩
  · rw [hmax, if_pos h]
  · rw [hmax]
    split
    · rw [floatKey_inj (le_antisymm h ‹_›)]
    · rfl

/-- A value that is NaN is the one NaN of exact values. -/
theorem eq_nan_of_isNan {a : Ex} (h : a.isNan = true) : a = .nan := by
  cases a with
  | nan => rfl
  | inf _ => cases h
  | fin _ _ _ => cases h

/-- FMIN or FMAX, rounded, by an operation on values that gives the other operand for one NaN, and for none the one of the two that a
choice says (R106). -/
theorem roundEx_pick (hf : IsIeee f) (rm : Nat) {op : Ex → Ex → Ex} (hl : ∀ b, op .nan b = b) (hr : ∀ a, op a .nan = a) {a b : Nat}
    (ha : a < 2 * f.signBit) (hb : b < 2 * f.signBit) (c : Prop) [Decidable c]
    (hop : (f.value a).isNan = false → (f.value b).isNan = false → op (f.value a) (f.value b) = f.value (if c then a else b)) :
    (roundEx f rm 0 (op (f.value a) (f.value b))).bits = if (f.value a).isNan then (if (f.value b).isNan then f.nan else b)
      else if (f.value b).isNan then a else if c then a else b := by
  cases hna : (f.value a).isNan <;> cases hnb : (f.value b).isNan
  · rw [hop hna hnb]
    by_cases hc : c
    · simp [hc, roundEx_value hf rm ha hna]
    · simp [hc, roundEx_value hf rm hb hnb]
  · rw [eq_nan_of_isNan hnb, hr, roundEx_value hf rm ha hna]
    rfl
  · rw [eq_nan_of_isNan hna, hl, roundEx_value hf rm hb hnb]
    rfl
  · rw [eq_nan_of_isNan hna, hl, roundEx_value_nan rm hnb]
    rfl

end

/-- NaN is no operand of FMIN or FMAX where the other is (R106). -/
theorem exMin_nan (a : Ex) : exMin a .nan = a := by
  cases a <;> rfl

theorem exMax_nan (a : Ex) : exMax a .nan = a := by
  cases a <;> rfl

/-- Settles O20: FMIN and FMAX pick one of the two patterns by its key, and a pattern rounds from its value to itself. -/
theorem minAndMaxOrderTheZeros : Obligations.MinAndMaxOrderTheZeros := by
  intro f hf rm a b c ha hb nan
  have hf := isIeee_of_mem hf
  refine ⟨congrArg (Rounded.mk · 0 0) ?_, congrArg (Rounded.mk · 0 0) ?_⟩
  · exact roundEx_pick hf rm (fun _ => rfl) exMin_nan ha hb _ (exMin_value hf ha hb)
  · refine (roundEx_pick hf rm (fun _ => rfl) exMax_nan ha hb (¬ floatKey f a ≤ floatKey f b) fun hna hnb => ?_).trans ?_
    · rw [exMax_value hf ha hb hna hnb, ite_not]
    · rw [ite_not]

end Sys2Proof.Proofs

namespace Sys2Proof.Proofs

open Sys2Proof.Machine Sys2Proof.Laws

/-! ## Conditions and classes (O21) -/

/-- The place of an FP32 pattern in the order of values, in numbers. -/
theorem place_f32 {x : Nat} (h : x < 2 ^ 32) : place fmtF32 x = if x < 2 ^ 31 then (x : Int) else -((x - 2 ^ 31 : Nat) : Int) := by
  have hx : x < 2 * fmtF32.signBit := h
  have hs := sign_eq hx
  have hp := pattern_eq hx
  rw [show fmtF32.signBit = 2 ^ 31 from rfl] at hs hp
  unfold place
  cases hb : sign fmtF32 x <;> rw [hb] at hs hp
  · rw [if_pos (by simpa using hs.symm), signed_false]
    simpa using hp.symm
  · rw [if_neg (by simpa using hs.symm), signed_true]
    simp only [if_true] at hp
    omega

/-- FCMP of two values that are no NaN follows the order of their places (R107). -/
theorem fcmpHolds_of_places {f a b : Nat} (ha : (fmtF32.value a).isNan = false) (hb : (fmtF32.value b).isNan = false) (hf : f < 6) :
    fcmpHolds f a b = condHolds f (place fmtF32 a == place fmtF32 b) (decide (place fmtF32 a < place fmtF32 b)) := by
  have hne : (f != 6) = true := by simp; omega
  unfold fcmpHolds
  simp only [ha, hb, exCmp_value isIeee_f32 ha hb, hne, Bool.or_false, Bool.true_and]
  rcases lt_trichotomy (place fmtF32 a) (place fmtF32 b) with h | h | h
  · simp [h, beq_false_of_ne h.ne]
  · simp [h]
  · simp [h.not_gt, h.ne', beq_false_of_ne h.ne']

/-- The conditions of FCMP (R107). -/
theorem floatComparisonsFollowTheValues : FloatComparisonsFollowTheValues := by
  refine ⟨fun f a b h => if_pos h, fun f a b ha hb hna hnb hf => ?_, fun a b hna hnb => ?_, by decide, by decide, by decide⟩
  · rw [fcmpHolds_of_places hna hnb hf, place_f32 ha, place_f32 hb]
  · simp [fcmpHolds, hna, hnb]

/-- The class of a pattern by its sign and magnitude (R107). -/
theorem fclassBit_eq (x : Nat) :
    fclassBit x = if mag fmtF32 x < 0x7F800000 then
        (if mag fmtF32 x = 0 then (if sign fmtF32 x then 3 else 4) else if mag fmtF32 x < 0x800000 then (if sign fmtF32 x then 2 else 5)
        else if sign fmtF32 x then 1 else 6)
      else if mag fmtF32 x = 0x7F800000 then (if sign fmtF32 x then 0 else 7) else 8 := by
  have hv := value_eq isIeee_f32 x
  rw [show fmtF32.infBits = 0x7F800000 from rfl, show 2 ^ fmtF32.fbits = 0x800000 from rfl] at hv
  unfold fclassBit
  by_cases hfin : mag fmtF32 x < 0x7F800000
  · by_cases hsub : mag fmtF32 x < 0x800000
    · rw [hv, if_pos hfin, if_pos hsub, if_pos hfin, if_pos hsub]
      exact if_congr Iff.rfl rfl (if_pos hsub)
    · rw [hv, if_pos hfin, if_neg hsub, if_pos hfin, if_neg (by omega), if_neg hsub]
      exact (if_neg (by omega)).trans (if_neg (by omega))
  · by_cases hinf : mag fmtF32 x = 0x7F800000
    · rw [hv, if_neg hfin, if_pos hinf, if_neg hfin, if_pos hinf]
    · rw [hv, if_neg hfin, if_neg hinf, if_neg hfin, if_neg hinf]

/-- The class of every pattern (R107). -/
theorem everyPatternHasItsClass : EveryPatternHasItsClass := by
  intro x hx
  rw [fclassBit_eq, sign_eq (f := fmtF32) hx, show mag fmtF32 x = x % 0x80000000 from rfl, show fmtF32.signBit = 0x80000000 from rfl,
    show (2 : Nat) ^ 31 = 0x80000000 from rfl]
  simp only [decide_eq_true_eq]
  have hclass : x % 0x80000000 = 0 ∨ (0 < x % 0x80000000 ∧ x % 0x80000000 < 0x800000)
      ∨ (0x800000 ≤ x % 0x80000000 ∧ x % 0x80000000 < 0x7F800000) ∨ x % 0x80000000 = 0x7F800000 ∨ 0x7F800000 < x % 0x80000000 := by omega
  by_cases hs : 0x80000000 ≤ x <;> rcases hclass with h | h | h | h | h <;> simp (disch := omega) only [if_pos, if_neg]

/-- Settles O21: comparisons by the places of the values, classes by the ranges of the patterns. -/
theorem floatCornersFollowTheTables : Obligations.FloatCornersFollowTheTables := ⟨floatComparisonsFollowTheValues, everyPatternHasItsClass⟩

end Sys2Proof.Proofs

namespace Sys2Proof.Proofs

open Sys2Proof.Machine Sys2Proof.Laws

/-! ## Special operands of the transcendental functions (O22) -/

/-- The exact result of a transcendental function, with the flags that its operand sets (R108). -/
def transcEx (op : Nat) (v : Ex) : Ex × Nat :=
  match op with
  | 0x68 => exRcp v
  | 0x69 => exRsqrt v
  | 0x6A => exSqrt v
  | 0x6B => exExp2 v
  | _ => exLog2 v

/-- A transcendental function whose exact result rounds without a flag sets those of its operand alone. -/
theorem transcElem_eq {op rm x b fl ev : Nat} {y : Ex} (h : transcEx op (fmtF32.value x) = (y, fl))
    (hr : roundEx fmtF32 rm 0 y = ⟨b, 0, ev⟩) : transcElem op rm x = ⟨b, fl, ev⟩ := by
  have he : transcElem op rm x = { roundEx fmtF32 rm 0 (transcEx op (fmtF32.value x)).1 with
      flags := (roundEx fmtF32 rm 0 (transcEx op (fmtF32.value x)).1).flags ||| (transcEx op (fmtF32.value x)).2 } := rfl
  rw [he, h, hr, Nat.zero_or]

/-- Each of the functions carries a NaN through (R108). -/
theorem transcEx_nan {op : Nat} (hop : op ∈ [0x68, 0x69, 0x6A, 0x6B, 0x6C]) : transcEx op .nan = (.nan, 0) := by
  fin_cases hop <;> rfl

/-- The square root, its reciprocal and the logarithm of a negative value are invalid (R108). -/
theorem transcEx_negative {op : Nat} (hop : op ∈ [0x69, 0x6A, 0x6C]) {v : Ex} (hn : v.isNeg = true) (hz : v.isZero = false) :
    transcEx op v = (.nan, flNV) := by
  cases v with
  | nan => cases hn
  | inf n =>
    obtain rfl : n = true := hn
    fin_cases hop <;> rfl
  | fin n m e =>
    obtain rfl : n = true := hn
    have hm : m ≠ 0 := fun h => by simp [Ex.isZero, h] at hz
    fin_cases hop <;> exact if_neg hm

theorem isZero_fin {n : Bool} {m : Nat} {e : Int} (hm : m ≠ 0) : (Ex.fin n m e).isZero = false := by
  cases m with
  | zero => exact absurd rfl hm
  | succ => rfl

/-- Only the patterns of magnitude 0 have the value zero. -/
theorem value_isZero {f : FFmt} (hf : IsIeee f) {x : Nat} (hm : mag f x ≠ 0) : (f.value x).isZero = false := by
  have hF := Nat.two_pow_pos f.fbits
  rw [value_eq hf]
  split_ifs
  · exact isZero_fin hm
  · exact isZero_fin (by omega)
  · rfl
  · rfl

/-- The patterns from the negative subnormals to negative infinity have negative values other than zero. -/
theorem value_negative {x : Nat} (hlo : 0x80000000 < x) (hhi : x ≤ 0xFF800000) :
    (fmtF32.value x).isNeg = true ∧ (fmtF32.value x).isZero = false := by
  have hs : fmtF32.signBit = 0x80000000 := by decide
  have hm : mag fmtF32 x = x - 0x80000000 := by
    rw [mag, hs]
    omega
  have hnan : (fmtF32.value x).isNan = false := by
    rw [value_isNan isIeee_f32, hm, show fmtF32.infBits = 0x7F800000 by decide]
    exact decide_eq_false (by omega)
  refine ⟨?_, value_isZero isIeee_f32 (by omega)⟩
  rw [value_isNeg isIeee_f32 hnan, sign_eq (f := fmtF32) (by rw [hs]; omega), hs]
  exact decide_eq_true hlo.le

/-- The rows of the table of R108 for the operands that are no NaN, in every rounding mode. -/
theorem transcElem_posZero : ∀ rm < 5, transcElem 0x68 rm 0 = ⟨0x7F800000, flDZ, 0⟩ ∧ transcElem 0x69 rm 0 = ⟨0x7F800000, 0, 0⟩
    ∧ transcElem 0x6A rm 0 = ⟨0, 0, 0⟩ ∧ transcElem 0x6B rm 0 = ⟨0x3F800000, 0, 0⟩
    ∧ transcElem 0x6C rm 0 = ⟨0xFF800000, flDZ, 0⟩ := by
  decide

theorem transcElem_negZero : ∀ rm < 5, transcElem 0x68 rm 0x80000000 = ⟨0xFF800000, flDZ, 0⟩
    ∧ transcElem 0x69 rm 0x80000000 = ⟨0xFF800000, 0, 0⟩ ∧ transcElem 0x6A rm 0x80000000 = ⟨0x80000000, 0, 0⟩
    ∧ transcElem 0x6B rm 0x80000000 = ⟨0x3F800000, 0, 0⟩ ∧ transcElem 0x6C rm 0x80000000 = ⟨0xFF800000, flDZ, 0⟩ := by
  decide

theorem transcElem_posInf : ∀ rm < 5, transcElem 0x68 rm 0x7F800000 = ⟨0, 0, 0⟩ ∧ transcElem 0x69 rm 0x7F800000 = ⟨0, 0, 0⟩
    ∧ transcElem 0x6A rm 0x7F800000 = ⟨0x7F800000, 0, 0⟩ ∧ transcElem 0x6B rm 0x7F800000 = ⟨0x7F800000, 0, 0⟩
    ∧ transcElem 0x6C rm 0x7F800000 = ⟨0x7F800000, 0, 0⟩ := by
  decide

theorem transcElem_negInf : ∀ rm < 5, transcElem 0x68 rm 0xFF800000 = ⟨0x80000000, 0, 0⟩
    ∧ transcElem 0x6B rm 0xFF800000 = ⟨0, 0, 0⟩ := by
  decide

theorem isqrtLoop_spec (k n r : Nat) (hlo : r * r ≤ n) (hhi : n < (r + 2 ^ k) * (r + 2 ^ k)) : isqrtLoop k n r = n.sqrt := by
  induction k generalizing r with
  | zero => exact Nat.eq_sqrt.2 ⟨hlo, hhi⟩
  | succ k ih =>
    rw [Nat.pow_succ, Nat.mul_two, ← Nat.add_assoc] at hhi
    show isqrtLoop k n (if (r + 2 ^ k) * (r + 2 ^ k) ≤ n then r + 2 ^ k else r) = n.sqrt
    split
    case isTrue h => exact ih _ h hhi
    case isFalse h => exact ih _ hlo (Nat.lt_of_not_le h)

/-- The model's square root is the floor of the square root. -/
theorem isqrt_eq_sqrt (n : Nat) : isqrt n = n.sqrt := by
  refine isqrtLoop_spec _ n 0 (Nat.zero_le n) ?_
  calc n < 2 ^ bitLen n := lt_two_pow_bitLen n
    _ ≤ 2 ^ ((bitLen n / 2 + 1) + (bitLen n / 2 + 1)) := Nat.pow_le_pow_right (by decide) (by omega)
    _ = _ := by rw [Nat.pow_add, Nat.zero_add]

theorem isqrt_mul_self (n : Nat) : isqrt (n * n) = n := by
  rw [isqrt_eq_sqrt, Nat.sqrt_eq]

theorem exSqrt_of_odd {m : Nat} {e : Int} (hm : m ≠ 0) (he : e % 2 ≠ 0) {r : Nat} (hr : 2 * m * 2 ^ 80 = r * r) :
    exSqrt (.fin false m e) = (.fin false (2 * r) ((e - 1) / 2 - 40 - 1), 0) := by
  simp [exSqrt, hm, he, hr, isqrt_mul_self, sticky, b2n, -Nat.reducePow]

theorem exRsqrt_of_odd {m : Nat} {e : Int} (hm : m ≠ 0) (he : e % 2 ≠ 0) {k r : Nat} (hk : bitLen (2 * m) + 60 = k)
    (hr : 2 ^ (2 * k) / (2 * m) = r * r) (hx : r * r * (2 * m) = 2 ^ (2 * k)) :
    exRsqrt (.fin false m e) = (.fin false (2 * r) (-((e - 1) / 2) - k - 1), 0) := by
  simp [exRsqrt, hm, he, hk, hr, hx, isqrt_mul_self, sticky, b2n]

theorem value_one : fmtF32.value 0x3F800000 = .fin false (2 ^ 23) (-23) := by decide

theorem exSqrt_one : transcEx 0x6A (fmtF32.value 0x3F800000) = (.fin false (2 ^ 53) (-53), 0) := by
  rw [value_one]
  exact exSqrt_of_odd (m := 2 ^ 23) (e := -23) (r := 2 ^ 52) (by decide) (by decide) (by decide)

theorem exRsqrt_one : transcEx 0x69 (fmtF32.value 0x3F800000) = (.fin false (2 ^ 74) (-74), 0) := by
  rw [value_one]
  exact exRsqrt_of_odd (m := 2 ^ 23) (e := -23) (k := 85) (r := 2 ^ 73) (by decide) (by decide) (by decide) (by decide) (by decide)

theorem roundEx_one : ∀ rm < 5, roundEx fmtF32 rm 0 (.fin false (2 ^ 53) (-53)) = ⟨0x3F800000, 0, 0⟩
    ∧ roundEx fmtF32 rm 0 (.fin false (2 ^ 74) (-74)) = ⟨0x3F800000, 0, 0⟩ := by
  decide

theorem transcElem_one (rm : Nat) (hrm : rm < 5) : transcElem 0x68 rm 0x3F800000 = ⟨0x3F800000, 0, 0⟩
    ∧ transcElem 0x69 rm 0x3F800000 = ⟨0x3F800000, 0, 0⟩ ∧ transcElem 0x6A rm 0x3F800000 = ⟨0x3F800000, 0, 0⟩
    ∧ transcElem 0x6B rm 0x3F800000 = ⟨0x40000000, 0, 0⟩ ∧ transcElem 0x6C rm 0x3F800000 = ⟨0, 0, 0⟩ := by
  obtain ⟨hsqrt, hrsqrt⟩ := roundEx_one rm hrm
  have others : ∀ rm < 5, transcElem 0x68 rm 0x3F800000 = ⟨0x3F800000, 0, 0⟩ ∧ transcElem 0x6B rm 0x3F800000 = ⟨0x40000000, 0, 0⟩
      ∧ transcElem 0x6C rm 0x3F800000 = ⟨0, 0, 0⟩ := by
    decide
  obtain ⟨hrcp, hexp, hlog⟩ := others rm hrm
  exact ⟨hrcp, transcElem_eq exRsqrt_one hrsqrt, transcElem_eq exSqrt_one hsqrt, hexp, hlog⟩

/-- Settles O22: the table row by row, and the exact results of NaN and of the other negative operands. -/
theorem transcendentalSpecialOperands : Obligations.TranscendentalSpecialOperands := by
  refine ⟨fun rm hrm => ⟨transcElem_posZero rm hrm, transcElem_negZero rm hrm, transcElem_posInf rm hrm,
    transcElem_negInf rm hrm, transcElem_one rm hrm⟩, fun op hop rm x h => ?_, fun op hop rm x hlo hhi => ?_⟩
  · have hx : transcEx op (fmtF32.value x) = (.nan, 0) := by rw [eq_nan_of_isNan h, transcEx_nan hop]
    rw [transcElem_eq hx rfl]
    exact ⟨rfl, rfl⟩
  · obtain ⟨hn, hz⟩ := value_negative hlo hhi
    rw [transcElem_eq (transcEx_negative hop hn hz) rfl]
    exact ⟨rfl, rfl⟩

end Sys2Proof.Proofs

namespace Sys2Proof.Proofs

open Sys2Proof.Machine Sys2Proof.Laws

/-! ## The combination of REDX and SCAN ignores the order of the threads (O25) -/

/-- Each integer combination is a fold whose steps may be exchanged (R118). -/
theorem combInt_perm (op ty : Nat) {l m : List Nat} (h : l.Perm m) : combInt op ty l = combInt op ty m :=
  match op with
  | 0 => h.foldl_eq' (fun x _ y _ z => by simp [Nat.add_right_comm]) _
  | 1 => congrArg (wrapN (tyWidth ty)) (h.foldl_eq' (fun x _ y _ (z : Int) => min_right_comm ..) _)
  | 2 => congrArg (wrapN (tyWidth ty)) (h.foldl_eq' (fun x _ y _ (z : Int) => max_right_comm ..) _)
  | 3 => h.foldl_eq' (fun x _ y _ z => Nat.and_right_comm ..) _
  | 4 => h.foldl_eq' (fun x _ y _ z => Nat.or_right_comm ..) _
  | _ + 5 => h.foldl_eq' (fun x _ y _ z => Nat.xor_right_comm ..) _

/-- A sum kept modulo 2^w at every step is the sum modulo 2^w. -/
theorem foldl_add_mod (n z : Nat) (l : List Nat) : l.foldl (fun a x => (a + x) % n) (z % n) = (z + l.sum) % n := by
  induction l generalizing z with
  | nil => simp
  | cons x l ih => rw [List.foldl_cons, Nat.mod_add_mod, ih, List.sum_cons, Nat.add_assoc]

theorem combInt_add (ty : Nat) (l : List Nat) : combInt 0 ty l = l.sum % 2 ^ tyWidth ty := by
  have h := foldl_add_mod (2 ^ tyWidth ty) 0 l
  rwa [Nat.zero_mod, Nat.zero_add] at h

/-! ### The exact sum -/

/-- Whether a value is the infinity of that sign. -/
def isInf (neg : Bool) (x : Ex) : Bool :=
  match x with
  | .inf n => n == neg
  | _ => false

/-- The smallest exponent so far, beside that of one more term. -/
def expStep (q : Int) (x : Ex) : Int :=
  match x with
  | .fin _ _ e => min q e
  | _ => q

/-- The sum so far in units of 2^q, with one more term. -/
def termStep (q t : Int) (x : Ex) : Int :=
  match x with
  | .fin n m e => t + scaled n m e q
  | _ => t

/-- The zero that terms of sum 0 give: of their own sign where they share it (R118). -/
def zeroOf (rm : Nat) (l : List Ex) : Ex :=
  match l with
  | [] => .fin false 0 0
  | a :: r => if r.all (fun b => b.isNeg == a.isNeg) then .fin a.isNeg 0 0 else zeroSum rm

theorem any_isInf (l : List Ex) :
    l.any (isInf false) = l.any (fun x => match x with | .inf false => true | _ => false)
      ∧ l.any (isInf true) = l.any (fun x => match x with | .inf true => true | _ => false) := by
  constructor <;> congr 1 <;> funext x <;> cases x with
  | inf n => cases n <;> rfl
  | _ => rfl

/-- The exact sum by folds over its terms. -/
theorem exSum_eq (rm : Nat) (l : List Ex) : exSum rm l =
    let q := l.foldl expStep 0
    let t := l.foldl (termStep q) 0
    if l.any Ex.isNan then (.nan, l.any (isInf false) && l.any (isInf true))
    else if l.any (isInf false) && l.any (isInf true) then (.nan, true)
    else if l.any (isInf false) then (.inf false, false)
    else if l.any (isInf true) then (.inf true, false)
    else if t = 0 then (zeroOf rm l, false) else (Ex.ofInt t q, false) := by
  obtain ⟨hpos, hneg⟩ := any_isInf l
  rw [hpos, hneg]
  rfl

/-- The sign of a zero sum, without a first term. -/
theorem zeroOf_eq (rm : Nat) (l : List Ex) : zeroOf rm l =
    if l.all (fun b => b.isNeg == false) then .fin false 0 0 else if l.all (fun b => b.isNeg == true) then .fin true 0 0 else zeroSum rm := by
  cases l with
  | nil => rfl
  | cons a r => cases ha : a.isNeg <;> simp [zeroOf, ha]

theorem expStep_right_comm (q : Int) (x y : Ex) : expStep (expStep q x) y = expStep (expStep q y) x := by
  cases x <;> cases y <;> simp [expStep, min_right_comm]

theorem termStep_right_comm (q t : Int) (x y : Ex) : termStep q (termStep q t x) y = termStep q (termStep q t y) x := by
  cases x <;> cases y <;> simp [termStep, add_right_comm]

theorem exSum_perm (rm : Nat) {l m : List Ex} (h : l.Perm m) : exSum rm l = exSum rm m := by
  have hq : l.foldl expStep 0 = m.foldl expStep 0 := h.foldl_eq' (fun x _ y _ q => expStep_right_comm q x y) 0
  have ht (q : Int) : l.foldl (termStep q) 0 = m.foldl (termStep q) 0 := h.foldl_eq' (fun x _ y _ t => termStep_right_comm q t x y) 0
  simp only [exSum_eq, zeroOf_eq, h.any_eq, h.all_eq, hq, ht]

/-! ### The least and the greatest value -/

section

variable (op : Ex → Ex → Ex) (rank : Nat → WithTop ℤ)

/-- A fold of an operation that keeps the value of lower rank comes to a value of the least rank. -/
theorem foldl_pick (hop : ∀ a b, op (fmtF32.value a) (fmtF32.value b) = fmtF32.value (if rank a ≤ rank b then a else b)) (a : Nat) (l : List Nat) :
    ∃ b, (l.map fmtF32.value).foldl op (fmtF32.value a) = fmtF32.value b ∧ rank b = (l.map rank).foldl min (rank a) := by
  induction l generalizing a with
  | nil => exact ⟨a, rfl, rfl⟩
  | cons x l ih =>
    obtain ⟨b, hb, hr⟩ := ih (if rank a ≤ rank x then a else x)
    refine ⟨b, ?_, ?_⟩
    · rw [List.map_cons, List.foldl_cons, hop, hb]
    · rw [hr, List.map_cons, List.foldl_cons, min_def, apply_ite rank]

/-- Such a fold ignores the order of the values, where patterns of one rank have one value. -/
theorem foldl_pick_perm (hop : ∀ a b, op (fmtF32.value a) (fmtF32.value b) = fmtF32.value (if rank a ≤ rank b then a else b))
    (hinj : ∀ a b, rank a = rank b → fmtF32.value a = fmtF32.value b) (a : Nat) {l m : List Nat} (h : l.Perm m) :
    (l.map fmtF32.value).foldl op (fmtF32.value a) = (m.map fmtF32.value).foldl op (fmtF32.value a) := by
  obtain ⟨b, hb, hrb⟩ := foldl_pick op rank hop a l
  obtain ⟨c, hc, hrc⟩ := foldl_pick op rank hop a m
  rw [hb, hc]
  refine hinj b c ?_
  rw [hrb, hrc]
  exact (h.map rank).foldl_eq' (fun x _ y _ z => min_right_comm z x y) _

end

/-- The rank of a pattern by a key of FP32 patterns: NaN stands above all. -/
def rankBy (key : Nat → Int) (x : Nat) : WithTop ℤ :=
  if (fmtF32.value x).isNan then ⊤ else (key (x % (2 * fmtF32.signBit)) : Int)

theorem rankBy_nan {key : Nat → Int} {x : Nat} (h : (fmtF32.value x).isNan = true) : rankBy key x = ⊤ := if_pos h

theorem rankBy_num {key : Nat → Int} {x : Nat} (h : (fmtF32.value x).isNan = false) :
    rankBy key x = (key (x % (2 * fmtF32.signBit)) : Int) :=
  if_neg (by simp [h])

theorem value_eq_of_rankBy {key : Nat → Int} (hkey : ∀ a b, key a = key b → a = b) (a b : Nat) (h : rankBy key a = rankBy key b) :
    fmtF32.value a = fmtF32.value b := by
  cases ha : (fmtF32.value a).isNan <;> cases hb : (fmtF32.value b).isNan
  · rw [rankBy_num ha, rankBy_num hb, WithTop.coe_inj] at h
    rw [← value_mod isIeee_f32 a, hkey _ _ h, value_mod isIeee_f32 b]
  · rw [rankBy_num ha, rankBy_nan hb] at h
    exact absurd h (WithTop.coe_ne_top)
  · rw [rankBy_nan ha, rankBy_num hb] at h
    exact absurd h (WithTop.top_ne_coe)
  · rw [eq_nan_of_isNan ha, eq_nan_of_isNan hb]

/-- An operation that passes over NaN, and of two other values keeps the one with the lower key, keeps the value of lower rank. -/
theorem pick_of_key {op : Ex → Ex → Ex} {key : Nat → Int} (hl : ∀ b, op .nan b = b) (hr : ∀ a, op a .nan = a)
    (hop : ∀ a b, a < 2 * fmtF32.signBit → b < 2 * fmtF32.signBit → (fmtF32.value a).isNan = false → (fmtF32.value b).isNan = false →
      op (fmtF32.value a) (fmtF32.value b) = fmtF32.value (if key a ≤ key b then a else b)) (a b : Nat) :
    op (fmtF32.value a) (fmtF32.value b) = fmtF32.value (if rankBy key a ≤ rankBy key b then a else b) := by
  cases ha : (fmtF32.value a).isNan <;> cases hb : (fmtF32.value b).isNan
  · have hpos : 0 < 2 * fmtF32.signBit := Nat.mul_pos two_pos (Nat.two_pow_pos _)
    have h := hop _ _ (Nat.mod_lt a hpos) (Nat.mod_lt b hpos) ((congrArg Ex.isNan (value_mod isIeee_f32 a)).trans ha)
      ((congrArg Ex.isNan (value_mod isIeee_f32 b)).trans hb)
    rw [apply_ite fmtF32.value, value_mod isIeee_f32, value_mod isIeee_f32] at h
    rw [rankBy_num ha, rankBy_num hb, h, apply_ite fmtF32.value]
    simp only [WithTop.coe_le_coe]
  · rw [rankBy_nan hb, if_pos le_top, eq_nan_of_isNan hb, hr]
  · rw [rankBy_nan ha, rankBy_num hb, if_neg (by simp), eq_nan_of_isNan ha, hl]
  · rw [eq_nan_of_isNan ha, hl, eq_nan_of_isNan hb, apply_ite fmtF32.value, eq_nan_of_isNan ha, eq_nan_of_isNan hb, ite_self]

/-- FMIN keeps the value of the lower key. -/
theorem exMin_rank (a b : Nat) : exMin (fmtF32.value a) (fmtF32.value b) =
    fmtF32.value (if rankBy (floatKey fmtF32) a ≤ rankBy (floatKey fmtF32) b then a else b) :=
  pick_of_key (fun _ => rfl) exMin_nan (fun _ _ ha hb => exMin_value isIeee_f32 ha hb) a b

/-- FMAX keeps the value of the higher key. -/
theorem exMax_rank (a b : Nat) : exMax (fmtF32.value a) (fmtF32.value b) =
    fmtF32.value (if rankBy (fun x => -floatKey fmtF32 x) a ≤ rankBy (fun x => -floatKey fmtF32 x) b then a else b) := by
  refine pick_of_key (fun _ => rfl) exMax_nan (fun a b ha hb hna hnb => ?_) a b
  rcases exMin_exMax_value isIeee_f32 ha hb hna hnb with ⟨h, -, hmax⟩ | ⟨h, -, hmax⟩
  · rw [hmax]
    split
    · rw [floatKey_inj (le_antisymm h (neg_le_neg_iff.mp ‹_›))]
    · rfl
  · rw [hmax, if_pos (neg_le_neg h)]

/-- The canonical NaN, which FMIN and FMAX pass over. -/
theorem value_nan : fmtF32.value 0x7FC00000 = .nan := by decide

/-- Started from NaN, such a fold ignores the order of the values. -/
theorem foldl_perm_of_rank {op : Ex → Ex → Ex} {key : Nat → Int} (hkey : ∀ a b, key a = key b → a = b)
    (hop : ∀ a b, op (fmtF32.value a) (fmtF32.value b) = fmtF32.value (if rankBy key a ≤ rankBy key b then a else b)) {l m : List Nat} (h : l.Perm m) :
    (l.map fmtF32.value).foldl op .nan = (m.map fmtF32.value).foldl op .nan := by
  have hp := foldl_pick_perm op (rankBy key) hop (value_eq_of_rankBy hkey) 0x7FC00000 h
  rwa [value_nan] at hp

/-- The combination of a list that is not empty starts from NaN. -/
theorem combFloat_min_max (rm : Nat) {l : List Nat} (h : l ≠ []) :
    combFloat 1 rm l = ⟨(roundEx fmtF32 0 0 ((l.map fmtF32.value).foldl exMin .nan)).bits, 0, 0⟩
      ∧ ∀ k, combFloat (k + 2) rm l = ⟨(roundEx fmtF32 0 0 ((l.map fmtF32.value).foldl exMax .nan)).bits, 0, 0⟩ := by
  cases l with
  | nil => exact absurd rfl h
  | cons a t => exact ⟨rfl, fun _ => rfl⟩

/-- The combination by addition is the exact sum, rounded once. -/
theorem combFloat_sum (rm : Nat) (l : List Nat) : combFloat 0 rm l =
    let sum := exSum rm (l.map fmtF32.value)
    let y := roundEx fmtF32 rm 0 sum.1
    { y with flags := if sum.2 then y.flags ||| flNV else y.flags } := rfl

theorem combFloat_perm (op rm : Nat) {l m : List Nat} (h : l.Perm m) : combFloat op rm l = combFloat op rm m := by
  match op with
  | 0 => rw [combFloat_sum, combFloat_sum, exSum_perm rm (h.map fmtF32.value)]
  | 1 =>
    by_cases hl : l = []
    · subst hl
      rw [List.nil_perm.mp h]
    · rw [(combFloat_min_max rm hl).1, (combFloat_min_max rm fun hm => hl (List.perm_nil.mp (hm ▸ h))).1,
        foldl_perm_of_rank (fun a b => floatKey_inj) exMin_rank h]
  | k + 2 =>
    by_cases hl : l = []
    · subst hl
      rw [List.nil_perm.mp h]
    · rw [(combFloat_min_max rm hl).2, (combFloat_min_max rm fun hm => hl (List.perm_nil.mp (hm ▸ h))).2,
        foldl_perm_of_rank (fun a b hab => floatKey_inj (neg_inj.mp hab)) exMax_rank h]

/-- Neither integer nor FP32 combinations depend on the order of the values (R118). -/
theorem comb_perm (st : Strand) (r : Raw) {l m : List Nat} (h : l.Perm m) : st.comb r l = st.comb r m := by
  unfold Strand.comb
  rw [combFloat_perm _ _ h, combInt_perm _ _ h]

theorem combinationsIgnoreTheOrder : CombinationsIgnoreTheOrder :=
  ⟨fun st r _ _ h => comb_perm st r h, combInt_add, fun _ => ⟨rfl, rfl, rfl⟩, by decide, by decide, by decide, by decide,
    fun _ => ⟨rfl, rfl⟩, by decide⟩

/-- Settles O25: the destinations of each instruction, and the combination by its folds. -/
theorem votesAndReductions : Obligations.VotesAndReductions :=
  ⟨votesAndReductionsReachTheirDestination, combinationsIgnoreTheOrder⟩

end Sys2Proof.Proofs

namespace Sys2Proof.Proofs

open Sys2Proof.Machine Sys2Proof.Laws

/-! ## Integer elements as words (O15) -/

section

variable {w : Nat}

/-- The integer that a word is read as, by the type of its element (R94). -/
def reading (sg : Bool) (a : BitVec w) : Int := if sg then a.toInt else a.toNat

/-- The word of an element result. -/
def element (op : Nat) (sg sat : Bool) (a b c : BitVec w) : BitVec w :=
  BitVec.ofNat w (intElem op w sg sat a.toNat b.toNat c.toNat)

theorem ofNat_toNat_self (a : BitVec w) : BitVec.ofNat w a.toNat = a := by
  rw [BitVec.ofNat_toNat, BitVec.setWidth_eq]

/-- The model's reading of the number of a word is the reading of the word. -/
theorem sInt_toNat (a : BitVec w) : sInt w a.toNat = a.toInt := by
  rw [sInt_eq_toInt, ofNat_toNat_self]

theorem reading_eq (sg : Bool) (a : BitVec w) : (if sg then sInt w a.toNat else (a.toNat : Int)) = reading sg a := by
  rw [sInt_toNat, reading]

theorem ofNat_wrapN (x : Int) : BitVec.ofNat w (wrapN w x) = BitVec.ofInt w x := by
  rw [wrapN_eq_toNat, ofNat_toNat_self]

theorem ofInt_reading (sg : Bool) (a : BitVec w) : BitVec.ofInt w (reading sg a) = a := by
  cases sg
  · exact (BitVec.ofInt_natCast ..).trans (ofNat_toNat_self a)
  · exact BitVec.ofInt_toInt

theorem ofInt_sub (x y : Int) : BitVec.ofInt w (x - y) = BitVec.ofInt w x - BitVec.ofInt w y := by
  rw [sub_eq_add_neg, BitVec.ofInt_add, BitVec.ofInt_neg, BitVec.sub_eq_add_neg]

/-! ### What each arithmetic opcode does, on the readings -/

variable (sg sat : Bool) (a b c : BitVec w)

/-- An exact integer into a word: clamped where the instruction saturates. -/
def fitted (w : Nat) (sg sat : Bool) (x : Int) : BitVec w :=
  BitVec.ofInt w (if sat then max (intLo sg w) (min x (intHi sg w)) else x)

theorem element_add : element 0x20 sg sat a b c = fitted w sg sat (reading sg a + reading sg b) := by
  rw [← reading_eq, ← reading_eq]
  exact ofNat_wrapN _

theorem element_sub : element 0x21 sg sat a b c = fitted w sg sat (reading sg a - reading sg b) := by
  rw [← reading_eq, ← reading_eq]
  exact ofNat_wrapN _

theorem element_mul : element 0x22 sg sat a b c = BitVec.ofInt w (reading sg a * reading sg b) := by
  rw [← reading_eq, ← reading_eq]
  exact ofNat_wrapN _

theorem element_mulh : element 0x23 sg sat a b c = BitVec.ofInt w (reading sg a * reading sg b / (2 ^ w : Nat)) := by
  rw [← reading_eq, ← reading_eq]
  exact ofNat_wrapN _

theorem element_mad : element 0x24 sg sat a b c = BitVec.ofInt w (reading sg a * reading sg b + reading sg c) := by
  rw [← reading_eq, ← reading_eq, ← reading_eq]
  exact ofNat_wrapN _

theorem element_min : element 0x27 sg sat a b c = BitVec.ofInt w (min (reading sg a) (reading sg b)) := by
  rw [← reading_eq, ← reading_eq]
  exact ofNat_wrapN _

theorem element_max : element 0x28 sg sat a b c = BitVec.ofInt w (max (reading sg a) (reading sg b)) := by
  rw [← reading_eq, ← reading_eq]
  exact ofNat_wrapN _

theorem element_abs : element 0x29 sg sat a b c = fitted w sg sat (reading sg a).natAbs := by
  rw [← reading_eq]
  exact ofNat_wrapN _

/-! ### Wrapping and clamping -/

/-- Without .SAT, sums, differences and products wrap modulo 2^w (R94). -/
theorem element_wraps : element 0x20 sg false a b c = a + b ∧ element 0x21 sg false a b c = a - b ∧ element 0x22 sg false a b c = a * b
    ∧ element 0x24 sg false a b c = a * b + c := by
  refine ⟨?_, ?_, ?_, ?_⟩
  · rw [element_add, fitted, if_neg Bool.false_ne_true, BitVec.ofInt_add, ofInt_reading, ofInt_reading]
  · rw [element_sub, fitted, if_neg Bool.false_ne_true, ofInt_sub, ofInt_reading, ofInt_reading]
  · rw [element_mul, BitVec.ofInt_mul, ofInt_reading, ofInt_reading]
  · rw [element_mad, BitVec.ofInt_add, BitVec.ofInt_mul, ofInt_reading, ofInt_reading, ofInt_reading]

/-- A signed word holds a clamped integer as it is. -/
theorem toInt_fitted (hw : 0 < w) (x : Int) : (fitted w true true x).toInt = max (-2 ^ (w - 1)) (min x (2 ^ (w - 1) - 1)) := by
  have hpos : (0 : Int) < 2 ^ (w - 1) := by positivity
  have hlim : intLo true w = -2 ^ (w - 1) ∧ intHi true w = 2 ^ (w - 1) - 1 := by simp [intLo, intHi]
  rw [fitted, if_pos rfl, hlim.1, hlim.2]
  exact BitVec.toInt_ofInt_eq_self hw (le_max_left ..) (by omega)

/-- A natural word holds a clamped integer as it is. -/
theorem toNat_fitted (x : Int) : ((fitted w false true x).toNat : Int) = max 0 (min x ((2 ^ w : Nat) - 1)) := by
  have hpos := Nat.two_pow_pos w
  rw [fitted, BitVec.toNat_ofInt, Int.toNat_of_nonneg (Int.emod_nonneg _ (by omega))]
  exact Int.emod_eq_of_lt (le_max_left ..) (by simp [intLo, intHi])

/-! ### Products, order and sign -/

theorem element_mulh_eq : element 0x23 true false a b c = BitVec.ofInt w (a.toInt * b.toInt / 2 ^ w)
    ∧ element 0x23 false false a b c = BitVec.ofNat w (a.toNat * b.toNat / 2 ^ w) := by
  rw [element_mulh, element_mulh, ← BitVec.ofInt_natCast]
  exact ⟨by simp [reading], by simp [reading]⟩

/-- MIN keeps a unless b is read as less. -/
theorem element_min_eq : element 0x27 sg sat a b c = if reading sg b < reading sg a then b else a := by
  rw [element_min, min_comm, min_def_lt, apply_ite (BitVec.ofInt w), ofInt_reading, ofInt_reading]

/-- MAX keeps a unless it is read as less than b. -/
theorem element_max_eq : element 0x28 sg sat a b c = if reading sg a < reading sg b then b else a := by
  rw [element_max, max_def_lt, apply_ite (BitVec.ofInt w), ofInt_reading, ofInt_reading]

/-- ABS negates what is read as negative. -/
theorem element_abs_eq : element 0x29 true false a b c = if a.slt 0#w then -a else a := by
  rw [element_abs, fitted, if_neg Bool.false_ne_true]
  by_cases h : a.toInt < 0
  · rw [if_pos (BitVec.slt_iff_toInt_lt.mpr (by simpa using h)), Int.ofNat_natAbs_of_nonpos (show reading true a ≤ 0 from h.le), BitVec.ofInt_neg,
      ofInt_reading]
  · rw [if_neg fun hs => h (by simpa using BitVec.slt_iff_toInt_lt.mp hs), Int.natAbs_of_nonneg (show 0 ≤ reading true a from not_lt.mp h),
      ofInt_reading]

/-! ### Bits -/

theorem element_logic : element 0x2A sg sat a b c = a &&& b ∧ element 0x2B sg sat a b c = a ||| b ∧ element 0x2C sg sat a b c = a ^^^ b
    ∧ element 0x2D sg sat a b c = a &&& ~~~b := by
  have hnot : element 0x2D sg sat a b c = BitVec.ofNat w (a.toNat &&& (~~~b).toNat) := by
    rw [BitVec.toNat_not]
    rfl
  refine ⟨BitVec.ofNat_and.trans ?_, BitVec.ofNat_or.trans ?_, BitVec.ofNat_xor.trans ?_, hnot.trans (BitVec.ofNat_and.trans ?_)⟩
  all_goals rw [ofNat_toNat_self, ofNat_toNat_self]

/-- Shift counts are taken modulo w (R94). -/
theorem element_shift : element 0x2E sg sat a b c = a <<< (b.toNat % w) ∧ element 0x2F sg sat a b c = a >>> (b.toNat % w)
    ∧ element 0x30 sg sat a b c = a.sshiftRight (b.toNat % w) := by
  refine ⟨BitVec.eq_of_toNat_eq ?_, BitVec.eq_of_toNat_eq ?_, (ofNat_wrapN _).trans ?_⟩
  · show (BitVec.ofNat w (a.toNat * 2 ^ (b.toNat % w) % 2 ^ w)).toNat = _
    rw [BitVec.toNat_ofNat, Nat.mod_mod, BitVec.toNat_shiftLeft, Nat.shiftLeft_eq]
  · show (BitVec.ofNat w (a.toNat / 2 ^ (b.toNat % w))).toNat = _
    rw [BitVec.toNat_ofNat, Nat.mod_eq_of_lt ((Nat.div_le_self ..).trans_lt a.isLt), BitVec.toNat_ushiftRight, Nat.shiftRight_eq_div_pow]
  · rw [sInt_toNat, BitVec.sshiftRight, Int.shiftRight_eq_div_pow]

/-- The two parts of a rotated word share no bit, so their sum is their union. -/
theorem rotateLeft_eq_add {k : Nat} (hk : k < w) : a.rotateLeft k = a <<< k + a >>> (w - k) := by
  rw [BitVec.rotateLeft_eq_rotateLeftAux_of_lt hk, BitVec.rotateLeftAux]
  refine (BitVec.add_eq_or_of_and_eq_zero _ _ (BitVec.eq_of_getLsbD_eq fun i hi => ?_)).symm
  simp only [BitVec.getLsbD_and, BitVec.getLsbD_shiftLeft, BitVec.getLsbD_ushiftRight, BitVec.getLsbD_zero]
  by_cases h : i < k
  · simp [h]
  · rw [BitVec.getLsbD_of_ge a (w - k + i) (by omega), Bool.and_false]

theorem element_rotate (hw : 0 < w) : element 0x31 sg sat a b c = a.rotateLeft (b.toNat % w) := by
  rw [rotateLeft_eq_add a (Nat.mod_lt _ hw)]
  refine BitVec.eq_of_toNat_eq ?_
  show (BitVec.ofNat w ((a.toNat * 2 ^ (b.toNat % w) + a.toNat / 2 ^ (w - b.toNat % w)) % 2 ^ w)).toNat = _
  rw [BitVec.toNat_ofNat, Nat.mod_mod, BitVec.toNat_add, BitVec.toNat_shiftLeft, BitVec.toNat_ushiftRight, Nat.shiftLeft_eq,
    Nat.shiftRight_eq_div_pow, Nat.mod_add_mod]

/-- The bits of revBits from the top down. -/
theorem revBits_bits (n x : Nat) : revBits n x < 2 ^ n ∧ ∀ i, (revBits n x).testBit i = (decide (i < n) && x.testBit (n - 1 - i)) := by
  induction n generalizing x with
  | zero => exact ⟨by simp [revBits], fun i => by simp [revBits]⟩
  | succ n ih =>
    obtain ⟨hlt, hbit⟩ := ih (x / 2)
    have he : revBits (n + 1) x = 2 ^ n * (x % 2) + revBits n (x / 2) := by rw [Nat.mul_comm]; rfl
    refine ⟨?_, fun i => ?_⟩
    · have : 2 ^ n * (x % 2) ≤ 2 ^ n * 1 := Nat.mul_le_mul_left _ (by omega)
      rw [he, Nat.pow_succ]
      omega
    · rw [he, Nat.testBit_two_pow_mul_add _ hlt, hbit, Nat.testBit_div_two]
      rcases lt_trichotomy i n with h | h | h
      · simp [h, h.trans (Nat.lt_succ_self n), show n - 1 - i + 1 = n - i by omega]
      · simp [h]
      · obtain ⟨k, hk⟩ : ∃ k, i - n = k + 1 := ⟨i - n - 1, by omega⟩
        rw [if_neg h.not_gt, decide_eq_false (by omega), hk, Nat.testBit_succ, show x % 2 / 2 = 0 by omega]
        simp

theorem element_reverse : element 0x34 sg sat a b c = a.reverse := by
  obtain ⟨hlt, hbit⟩ := revBits_bits w a.toNat
  refine BitVec.eq_of_getLsbD_eq fun i hi => ?_
  show (BitVec.ofNat w (revBits w a.toNat)).getLsbD i = _
  rw [← BitVec.testBit_toNat, BitVec.toNat_ofNat, Nat.mod_eq_of_lt hlt, hbit, BitVec.getLsbD_reverse, BitVec.getMsbD, BitVec.testBit_toNat]

/-- CLZ counts the zeros above the highest one (R94). -/
theorem toNat_element_clz (h : a ≠ 0#w) : (element 0x33 sg sat a b c).toNat = (w - 1 - Nat.log2 a.toNat) % 2 ^ w := by
  have h0 : a.toNat ≠ 0 := fun hz => h (BitVec.eq_of_toNat_eq hz)
  have he : element 0x33 sg sat a b c = BitVec.ofNat w (w - bitLen a.toNat) := rfl
  rw [he, BitVec.toNat_ofNat, bitLen, if_neg h0, Nat.sub_add_eq, Nat.sub_right_comm]

theorem element_clz_zero (h : a = 0#w) : element 0x33 sg sat a b c = BitVec.ofNat w w := by
  subst h
  rfl

end

/-- The integer elements, opcode by opcode (R94). -/
theorem integerElements : IntegerElements := by
  intro w a b c hw e
  refine ⟨fun sg => element_wraps sg a b c, ?_, ?_, ?_, ?_, (element_mulh_eq a b c).1, (element_mulh_eq a b c).2, ?_, ?_, ?_, ?_,
    element_abs_eq a b c, fun sg => element_logic sg false a b c, fun sg => ?_, fun sg => element_reverse sg false a b c,
    fun sg h => toNat_element_clz sg false a b c h, fun h sg => element_clz_zero sg false a b c h⟩
  · exact (congrArg BitVec.toInt (element_add true true a b c)).trans (toInt_fitted hw _)
  · have h := toNat_fitted (w := w) (reading false a + reading false b)
    rw [← element_add false true a b c] at h
    have := Nat.two_pow_pos w
    show (element 0x20 false true a b c).toNat = _
    simp only [reading, Bool.false_eq_true, if_false] at h
    omega
  · exact (congrArg BitVec.toInt (element_sub true true a b c)).trans (toInt_fitted hw _)
  · have h := toNat_fitted (w := w) (reading false a - reading false b)
    rw [← element_sub false true a b c] at h
    have := a.isLt
    show (element 0x21 false true a b c).toNat = _
    simp only [reading, Bool.false_eq_true, if_false] at h
    omega
  · rw [show e 0x27 true false = _ from element_min_eq true false a b c]
    simp [reading, BitVec.slt_iff_toInt_lt]
  · rw [show e 0x27 false false = _ from element_min_eq false false a b c]
    simp [reading, BitVec.lt_def]
  · rw [show e 0x28 true false = _ from element_max_eq true false a b c]
    simp [reading, BitVec.slt_iff_toInt_lt]
  · rw [show e 0x28 false false = _ from element_max_eq false false a b c]
    simp [reading, BitVec.lt_def]
  · obtain ⟨hl, hr, hs⟩ := element_shift sg false a b c
    exact ⟨hl, hr, hs, element_rotate sg false a b c hw⟩

/-! ## Quotients and remainders (R96) -/

section

variable {w : Nat} (sg : Bool) (a b : BitVec w)

/-- A divisor 0 gives all ones and the dividend. -/
theorem divElem_zero : divElem false sg w a.toNat (0#w).toNat = 2 ^ w - 1 ∧ divElem true sg w a.toNat (0#w).toNat = a.toNat := by
  have h0 : (if sg then sInt w (0#w).toNat else ((0#w).toNat : Int)) = 0 := by
    rw [reading_eq]
    cases sg <;> simp [reading]
  exact ⟨if_pos h0, if_pos h0⟩

theorem reading_ne_zero (hb : b ≠ 0#w) : reading sg b ≠ 0 := fun h => hb (by rw [← ofInt_reading sg b, h, BitVec.ofInt_ofNat])

/-- Another divisor gives the quotient truncated toward zero, and the remainder of it. -/
theorem divElem_eq (hb : b ≠ 0#w) :
    BitVec.ofNat w (divElem false sg w a.toNat b.toNat) = BitVec.ofInt w ((reading sg a).tdiv (reading sg b))
      ∧ BitVec.ofNat w (divElem true sg w a.toNat b.toNat) = BitVec.ofInt w ((reading sg a).tmod (reading sg b)) := by
  have hne := reading_ne_zero sg b hb
  rw [← ofNat_wrapN, ← ofNat_wrapN]
  rw [← reading_eq] at hne
  rw [← reading_eq, ← reading_eq]
  exact ⟨congrArg _ (if_neg hne), congrArg _ (if_neg hne)⟩

theorem ofInt_tdiv : BitVec.ofInt w ((reading false a).tdiv (reading false b)) = a / b
    ∧ BitVec.ofInt w ((reading true a).tdiv (reading true b)) = a.sdiv b := by
  refine ⟨?_, BitVec.eq_of_toInt_eq ?_⟩
  · rw [show (reading false a).tdiv (reading false b) = (a / b).toNat from (Int.ofNat_tdiv ..).symm, BitVec.ofInt_natCast, ofNat_toNat_self]
  · rw [BitVec.toInt_ofInt, BitVec.toInt_sdiv]
    rfl

theorem ofInt_tmod : BitVec.ofInt w ((reading false a).tmod (reading false b)) = a % b
    ∧ BitVec.ofInt w ((reading true a).tmod (reading true b)) = a.srem b := by
  constructor
  · rw [show (reading false a).tmod (reading false b) = (a % b).toNat from (Int.ofNat_tmod ..).symm, BitVec.ofInt_natCast, ofNat_toNat_self]
  · rw [show (reading true a).tmod (reading true b) = (a.srem b).toInt from (BitVec.toInt_srem ..).symm, BitVec.ofInt_toInt]

end

theorem divisionCorners : DivisionCorners := by
  intro w a b hw q m
  refine ⟨fun hb sg => ?_, fun hb => ?_⟩
  · subst hb
    obtain ⟨hq, hm⟩ := divElem_zero sg a
    refine ⟨BitVec.eq_of_toNat_eq ?_, (congrArg _ hm).trans (ofNat_toNat_self a)⟩
    rw [show q sg = BitVec.ofNat w (2 ^ w - 1) from congrArg (BitVec.ofNat w) hq, BitVec.toNat_ofNat, BitVec.toNat_allOnes,
      Nat.mod_eq_of_lt (Nat.sub_one_lt (Nat.two_pow_pos w).ne')]
  · obtain ⟨hqn, hmn⟩ := divElem_eq false a b hb
    obtain ⟨hqs, hms⟩ := divElem_eq true a b hb
    obtain ⟨hdn, hds⟩ := ofInt_tdiv a b
    obtain ⟨hrn, hrs⟩ := ofInt_tmod a b
    exact ⟨hqn.trans hdn, hmn.trans hrn, hqs.trans hds, hms.trans hrs⟩

/-- Settles O15: each element result is the word of the exact result on the readings of its sources. -/
theorem integerElementsAreExact : Obligations.IntegerElementsAreExact := ⟨integerElements, divisionCorners⟩

end Sys2Proof.Proofs

namespace Sys2Proof.Proofs

open Sys2Proof.Machine Sys2Proof.Laws

/-! ## What the memory homes and the core caches leave as it is -/

/-- A projection that no round changes for an element of the list, a loop does not change. -/
theorem forEach_same_of_mem {α σ τ : Type} (g : σ → τ) {l : List α} {f : σ → α → σ} (s : σ) (h : ∀ x, ∀ a ∈ l, g (f x a) = g x) :
    g (forEach l s f) = g s := by
  induction l generalizing s with
  | nil => rfl
  | cons a t ih => exact (ih (f s a) fun x b hb => h x b (.tail _ hb)).trans (h s a (.head _))

/-- The bins of cores. -/
def binsOf (cores : KV Core) (c b : Nat) : Bin := kvGet Bin.empty (((kvFind cores c).getD Core.empty).bins) b

theorem bin_eq_binsOf (s : State) (c b : Nat) : s.bin c b = binsOf s.cores c b := by
  unfold State.bin State.core binsOf
  split <;> simp [*, Core.empty]

/-- What no access of memory changes: the regions, the next number to be given, device time and the spawn bins. -/
def plan (s : State) : KV (Option Region) × Nat × Nat × (Nat → Nat → Bin) := (s.regions, s.ids, s.time, binsOf s.cores)

/-- What a home changes only by waking a strand that waits there: the plan and the strands. -/
def scene (s : State) : KV (Option Strand) × KV (Option Region) × Nat × Nat × (Nat → Nat → Bin) := (s.strands, plan s)

theorem plan_of_scene {s t : State} (h : scene t = scene s) : plan t = plan s := congrArg Prod.snd h

theorem binsOf_kvPut (cores : KV Core) (c : Nat) (x : Core) (h : x.bins = ((kvFind cores c).getD Core.empty).bins) :
    binsOf (kvPut cores c x) = binsOf cores := by
  funext d b
  unfold binsOf
  by_cases hd : d = c
  · rw [hd, kvFind_kvPut_self, ← h]
    rfl
  · rw [kvFind_kvPut_ne _ _ _ _ hd]

/-- An update of a core that leaves its bins leaves the scene. -/
theorem modCore_scene (s : State) (c : Nat) {f : Core → Core} (h : ∀ x, (f x).bins = x.bins) : scene (s.modCore c f) = scene s := by
  have hb : binsOf (s.modCore c f).cores = binsOf s.cores := by
    refine binsOf_kvPut _ _ _ ((h _).trans ?_)
    unfold State.core
    split <;> simp [*, Core.empty]
  unfold scene plan
  rw [hb]
  rfl

theorem push_scene (s : State) (i : Instr) : scene (s.push i) = scene s := by
  unfold State.push
  split <;> rfl

/-! ### The last-level cache -/

theorem scene_of_onlyHomes {s t : State} (h : OnlyHomes s t) : scene t = scene s := by
  rw [h]
  rfl

theorem dropTag_scene (s : State) (l k : Nat) : scene (s.dropTag l k) = scene s := scene_of_onlyHomes (dropTag_onlyHomes s l k)

theorem hbmSettle_scene (s : State) (l : Nat) (w : Bool) : scene (s.hbmSettle l w) = scene s := scene_of_onlyHomes (hbmSettle_onlyHomes s l w)

theorem setTag_scene (s : State) (k : Nat) (t : Option Tag) : scene (s.setTag k t) = scene s := rfl
theorem laterRecord_scene (s : State) (c a : Nat) : scene (s.laterRecord c a) = scene s := rfl
theorem lifeAdd_scene (s : State) (i n : Nat) : scene (s.lifeAdd i n) = scene s := rfl
theorem withMem_scene (s : State) (m : Memory) : scene { s with mem := m } = scene s := rfl

theorem recoverSet_scene (s : State) (l : Nat) : scene (s.recoverSet l) = scene s := by
  refine forEach_same scene _ s _ fun x p => ?_
  grind [dropTag_scene, hbmSettle_scene, setTag_scene, laterRecord_scene, lifeAdd_scene, withMem_scene]

theorem fillWith_scene (s : State) (l : Nat) (bs : List Byte) : scene (s.fillWith l bs) = scene s := scene_of_onlyHomes (fillWith_onlyHomes s l bs)

theorem touch_scene (s : State) (l k : Nat) : scene (s.touch l k) = scene s := scene_of_onlyHomes (touch_onlyHomes s l k)

theorem makeRoom_scene (s : State) (l k need fuel n : Nat) : scene (s.makeRoom l k need fuel n).1 = scene s :=
  scene_of_onlyHomes (makeRoom_onlyHomes s l k need fuel n)

theorem count_scene (s : State) (l w n : Nat) : scene (s.count l w n) = scene s := rfl

theorem recompress_scene (s : State) (l k : Nat) (t : Tag) (a b : List Byte) : scene (s.recompress l k t a b) = scene s := by
  unfold State.recompress
  grind [touch_scene, makeRoom_scene, count_scene, setTag_scene, dropTag_scene]

theorem llcWrite_scene (s : State) (l : Nat) (full : Bool) (bs : List Byte) : scene (s.llcWrite l full bs) = scene s := by
  unfold State.llcWrite
  grind [recoverSet_scene, recompress_scene, fillWith_scene, setTag_scene]

/-! ### Writes and reads at the homes -/

theorem stampFrom_scene (s : State) (l w : Nat) (core : Option Nat) : scene (s.stampFrom l w core) = scene s := by
  cases core with
  | none => rfl
  | some c => exact modCore_scene _ c fun _ => rfl

theorem noteWts_scene (s : State) (l c : Nat) : scene (s.noteWts l c) = scene s := modCore_scene _ c fun _ => rfl

theorem unpoison_scene (s : State) (ws : List (Nat × Byte)) : scene (s.unpoison ws) = scene s := by
  unfold State.unpoison
  split <;> rfl

theorem unseenWrite_scene (s : State) (pa n : Nat) : scene (s.unseenWrite pa n) = scene s := rfl

theorem withHomes_scene (s : State) (h : Homes) : scene { s with homes := h } = scene s := rfl

theorem noteBlocked_scene (s : State) (l : Nat) (core : Option Nat) : scene (s.noteBlocked l core) = scene s := by
  unfold State.noteBlocked
  grind [push_scene, withHomes_scene]

theorem noteDev_scene (s : State) (l : Nat) : scene (s.noteDev l) = scene s := by
  unfold State.noteDev
  grind [push_scene, withHomes_scene]

theorem devPut_scene (s : State) (pa : Nat) (bs : List Byte) : scene (s.devPut pa bs) = scene s := by
  refine (forEach_same scene _ _ _ fun x l => ?_).trans ((unseenWrite_scene _ _ _).trans (unpoison_scene s _))
  grind [recoverSet_scene, llcWrite_scene, stampFrom_scene, withMem_scene]

theorem devWrite_scene (s : State) (pa : Nat) (bs : List Byte) : scene (s.devWrite pa bs) = scene s := by
  unfold State.devWrite
  split
  · exact forEach_same scene _ _ _ noteDev_scene
  · exact devPut_scene s pa bs

theorem setReg_scene (s : State) (n v : Nat) : scene (s.setReg n v) = scene s := rfl

theorem negPut_scene (s : State) (e : List Byte) : scene (s.negPut e) = scene s := (setReg_scene _ _ _).trans (devWrite_scene ..)

theorem negative_scene (s : State) (sid at_ kind addr value home seqKey : Nat) :
    scene (s.negative sid at_ kind addr value home seqKey) = scene s := by
  unfold State.negative State.homeSeq
  grind [negPut_scene, withHomes_scene]

theorem negativeAt_scene (s : State) (sid at_ kind va pa value : Nat) : scene (s.negativeAt sid at_ kind va pa value) = scene s := by
  unfold State.negativeAt
  split
  · exact negative_scene ..
  · exact negative_scene s.freeVal.2 ..

theorem waitNegative_scene (s : State) (sid : Nat) (e : LogEnt) : scene (s.waitNegative sid e) = scene s := by
  unfold State.waitNegative State.negativeBank
  grind [negativeAt_scene, negative_scene]

theorem modStrand_plan (s : State) (n : Nat) (f : Strand → Strand) : plan (s.modStrand n f) = plan s := rfl

theorem push_plan (s : State) (i : Instr) : plan (s.push i) = plan s := plan_of_scene (push_scene s i)

theorem endWait_plan (s : State) (sid slot : Nat) (e : LogEnt) : plan (s.endWait sid slot e) = plan s := by
  unfold State.endWait State.finishWait
  grind [modStrand_plan, push_plan, waitNegative_scene, plan_of_scene]

theorem notify_plan (s : State) (space : Strand → Raw → Bool) (lo n : Nat) (rd : Nat → Nat → Nat) : plan (s.notify space lo n rd) = plan s := by
  refine forEach_same plan _ _ _ fun x p => forEach_same plan _ _ _ fun y q => ?_
  grind [modStrand_plan, endWait_plan, noteWts_scene, plan_of_scene]

theorem kvFind_map {β : Type} (m : KV β) (f : β → β) (k : Nat) : kvFind (m.map (fun (p : Nat × β) => (p.1, f p.2))) k = (kvFind m k).map f := by
  induction m with
  | nil => rfl
  | cons p t ih =>
    simp only [List.map_cons, kvFind]
    split
    · rfl
    · exact ih

theorem binsOf_map (cores : KV Core) {f : Core → Core} (h : ∀ x, (f x).bins = x.bins) :
    binsOf (cores.map (fun (p : Nat × Core) => (p.1, f p.2))) = binsOf cores := by
  funext c b
  unfold binsOf
  rw [kvFind_map]
  cases kvFind cores c with
  | none => rfl
  | some x => exact congrArg (kvGet Bin.empty · b) (h x)

theorem freshenHost_scene (s : State) (l : Nat) : scene (s.freshenHost l) = scene s := by
  have hb : binsOf (s.freshenHost l).cores = binsOf s.cores := binsOf_map s.cores (f := fun x => { x with copies := x.copies.map _ }) fun _ => rfl
  unfold scene plan
  rw [hb]
  rfl

theorem homeWriteFrom_plan (s : State) (ws : List (Nat × Byte)) (lw : Nat) (core : Option Nat) : plan (s.homeWriteFrom ws lw core) = plan s := by
  unfold State.homeWriteFrom State.notifyGlobal
  grind [notify_plan, plan_of_scene, freshenHost_scene, stampFrom_scene, llcWrite_scene, recoverSet_scene, unpoison_scene, withMem_scene]

theorem sift_scene (s : State) (c : Copy) (ws : List (Nat × Byte)) : scene (s.sift c ws).2 = scene s := rfl

theorem setCopy_scene (s : State) (core : Nat) (c : Copy) : scene (s.setCopy core c) = scene s := modCore_scene s core fun _ => rfl

theorem dropCopies_scene (s : State) (core : Nat) (p : Copy → Bool) : scene (s.dropCopies core p) = scene s := modCore_scene s core fun _ => rfl

theorem writeBack_plan (s : State) (core line : Nat) : plan (s.writeBack core line).2 = plan s := by
  unfold State.writeBack State.homeWrite
  grind [homeWriteFrom_plan, plan_of_scene, sift_scene, setCopy_scene, dropCopies_scene, push_scene, withHomes_scene, noteBlocked_scene]

theorem writeBackAll_plan (s : State) (core : Nat) (sids : List Nat) : plan (s.writeBackAll core sids).2 = plan s :=
  forEach_same (fun x : Bool × State => plan x.2) _ _ _ fun x l => writeBack_plan x.2 core l

/-- Performing the bytes that strands have left dirty in a core's cache changes no region, number or bin, and takes no time. -/
theorem performCore_plan (s : State) (core : Nat) (sids : List Nat) : plan (s.performCore core sids).2 = plan s := writeBackAll_plan s core sids

theorem expireCopies_scene (s : State) (core : Nat) : scene (s.expireCopies core) = scene s := modCore_scene s core fun _ => rfl

theorem wake_scene (s : State) (core : Nat) : scene (s.wake core) = scene s := by
  unfold State.wake
  split
  · rfl
  · refine modCore_scene s core fun x => ?_
    split <;> rfl

theorem pushPlacement_scene (s : State) : scene s.pushPlacement = scene s := (push_scene _ _).trans (push_scene s _)

theorem strand_of_scene {s t : State} (h : scene t = scene s) (sid : Nat) : t.strand sid = s.strand sid := by
  rw [State.strand, show t.strands = s.strands from congrArg Prod.fst h]
  rfl

theorem bin_of_plan {s t : State} (h : (plan t).2.2 = (plan s).2.2) (c b : Nat) : t.bin c b = s.bin c b := by
  rw [bin_eq_binsOf, bin_eq_binsOf, show binsOf t.cores = binsOf s.cores from congrArg Prod.snd h]

theorem time_of_plan {s t : State} (h : (plan t).2.2 = (plan s).2.2) : t.time = s.time := congrArg Prod.fst h

end Sys2Proof.Proofs

namespace Sys2Proof.Proofs

open Sys2Proof.Machine Sys2Proof.Laws

/-! ## A formed strand becomes resident (O30) -/

theorem natsFrom_eq_range' (a n : Nat) : natsFrom a n = List.range' a n := by
  induction n generalizing a with
  | zero => rfl
  | succ n ih => rw [natsFrom, ih, List.range'_succ]

/-- The elements of a list beside their places. -/
theorem mem_zip_nats {α : Type} {n : Nat} {l : List α} (hl : l.length ≤ n) {i : Nat} {a : α} : (i, a) ∈ (nats n).zip l ↔ l[i]? = some a := by
  rw [nats, natsFrom_eq_range', List.mem_iff_getElem?]
  simp only [List.getElem?_zip_eq_some]
  constructor
  · rintro ⟨j, hj, ha⟩
    grind
  · intro h
    refine ⟨i, ?_, h⟩
    grind

/-- A key that a list of pairs names with one value only has that value once the list is entered. -/
theorem kvGet_forEach_kvSet {β : Type} [DecidableEq β] (dflt : β) {l m : KV β} {k : Nat} {v : β} (hu : ∀ w, (k, w) ∈ l → w = v)
    (h : (k, v) ∈ l ∨ kvGet dflt m k = v) : kvGet dflt (forEach l m (fun m x => kvSet dflt m x.1 x.2)) k = v := by
  induction l generalizing m with
  | nil => exact h.resolve_left List.not_mem_nil
  | cons p t ih =>
    obtain ⟨a, w⟩ := p
    refine ih (fun w hw => hu w (.tail _ hw)) ?_
    rw [kvGet_kvSet]
    split
    · next ha => exact .inr (hu w (ha ▸ .head _))
    · next ha => exact h.imp_left fun h => (List.mem_cons.mp h).resolve_left fun he => ha (Prod.ext_iff.mp he).1

theorem listAt_eq {α : Type} (dflt : α) {l : List α} {i : Nat} {a : α} (h : l[i]? = some a) : listAt dflt l i = a := by
  induction l generalizing i with
  | nil => exact nomatch h
  | cons b t ih => 
    cases i with
    | zero => simpa [listAt] using h
    | succ i => exact ih (by simpa using h)

/-- The argument records of spawned threads as lanes of v1 to v4 (R144). -/
def argLanes (ts : List BinThread) : KV Word :=
  ((nats ts.length).zip ts).flatMap (fun x => ((nats 4).zip x.2.args).map (fun y => ((y.1 + 1) * 64 + x.1, y.2)))

theorem mem_argLanes {ts : List BinThread} (hargs : ∀ x ∈ ts, x.args.length = 4) {k : Nat} {w : Word} :
    (k, w) ∈ argLanes ts ↔ ∃ th i x, ts[th]? = some x ∧ x.args[i]? = some w ∧ (i + 1) * 64 + th = k := by
  simp only [argLanes, List.mem_flatMap, List.mem_map, Prod.exists, Prod.mk.injEq, mem_zip_nats le_rfl]
  constructor
  · rintro ⟨th, x, hx, i, a, ha, rfl, rfl⟩
    exact ⟨th, i, x, hx, (mem_zip_nats (hargs x (List.mem_of_getElem? hx)).le).mp ha, rfl⟩
  · rintro ⟨th, i, x, hx, ha, rfl⟩
    exact ⟨th, x, hx, i, w, (mem_zip_nats (hargs x (List.mem_of_getElem? hx)).le).mpr ha, rfl, rfl⟩

/-- The vector registers of a new strand: v0 holds the number of each thread, under what the strand is given (R39). -/
def newLanes (regs : KV Word) : KV Word :=
  forEach regs ((natsFrom 1 63).map (fun t => (t, BitVec.ofNat 32 t))) (fun m x => kvSet 0#32 m x.1 x.2)

/-- Thread th of a spawned strand has its argument i in v(i + 1). -/
theorem newLanes_argLanes {ts : List BinThread} (hts : ts.length ≤ 64) (hargs : ∀ x ∈ ts, x.args.length = 4) {th i : Nat} {x : BinThread}
    (hx : ts[th]? = some x) (hi : i < 4) : kvGet 0#32 (newLanes (argLanes ts)) ((i + 1) * 64 + th) = listAt 0#32 x.args i := by
  have hlen : i < x.args.length := by rw [hargs x (List.mem_of_getElem? hx)]; exact hi
  rw [listAt_eq 0#32 (List.getElem?_eq_getElem hlen)]
  refine kvGet_forEach_kvSet _ (fun w hw => ?_) (.inl ((mem_argLanes hargs).mpr ⟨th, i, x, hx, List.getElem?_eq_getElem hlen, rfl⟩))
  obtain ⟨th', i', x', hx', hw', hk⟩ := (mem_argLanes hargs).mp hw
  have hth : th < 64 := by grind
  have hth' : th' < 64 := by grind
  obtain ⟨rfl, rfl⟩ : i' = i ∧ th' = th := by omega
  grind

theorem newStrand_strand (s : State) (rid cid core quad cidx entry allot : Nat) (spawned : Bool) (regs : KV Word) (amask s2 : Nat) :
    let n := s.newStrand rid cid core quad cidx entry allot spawned regs amask s2
    let st := n.2.strand n.1
    st.life = .resident ∧ st.core = core ∧ st.rid = rid ∧ st.pc = BitVec.ofNat 56 entry ∧ st.amask = BitVec.ofNat 64 amask
      ∧ st.allot = allot ∧ st.spawned = spawned ∧ st.vregs = newLanes regs := by
  intro n st
  have hst : st = _ := setStrand_strand _ _ _
  rw [hst]
  simp [newLanes]

/-- A formed strand stands at its entry with one active thread for each spawned one, and each thread has its arguments (R144). -/
theorem placeSpawned_strand (s : State) (core : Nat) (k : BinKey) (ts : List BinThread) :
    ∃ sid, let st := (s.placeSpawned core k ts).strand sid
      st.life = .resident ∧ st.core = core ∧ st.rid = k.rid ∧ st.pc = BitVec.ofNat 56 k.entry ∧ st.amask = BitVec.ofNat 64 (2 ^ ts.length - 1)
        ∧ st.allot = k.allot ∧ st.spawned = true ∧ st.vregs = newLanes (argLanes ts) :=
  ⟨_, newStrand_strand ..⟩

theorem placeSpawned_plan (s : State) (core : Nat) (k : BinKey) (ts : List BinThread) : (plan (s.placeSpawned core k ts)).2.2 = (plan s).2.2 := by
  unfold State.placeSpawned
  refine (congrArg (·.2.2) (plan_of_scene (expireCopies_scene _ core))).trans ?_
  exact congrArg (·.2.2) (plan_of_scene (wake_scene _ core))

theorem setBin_self (s : State) (core b : Nat) (x : Bin) : (s.setBin core b x).bin core b = x := by
  simp [State.bin, State.setBin]

theorem setBin_time (s : State) (core b : Nat) (x : Bin) : (s.setBin core b x).time = s.time := rfl

/-- A formed place that has emptied is filled at once only from a full list, or from one whose timer has run out (R143). -/
theorem placeEmptied_waits {s : State} {core b : Nat} (hp : (s.bin core b).pending.length < 64)
    (ht : ∀ d, (s.bin core b).timer = some d → s.time < d) : s.placeEmptied core b = s := by
  refine if_neg ?_
  cases htimer : (s.bin core b).timer with
  | none => simp [hp.ne]
  | some d => simp [hp.ne, ht d htimer]

/-- What SPAWN_RESIDENCY comes to for a formed strand (R137, R144, R148). -/
theorem execSpawnResidency_formed {s : State} {core b : Nat} {k : BinKey} {ts : List BinThread} (h : (s.bin core b).formed = some (k, ts)) :
    execSpawnResidency core b s =
      let prio := (s.region k.rid).rcb.prio
      let room := s.hasRoom core 1 k.allot k.tiles 0 && s.poolRoom (s.region k.rid).pool 1 k.tiles 0
        && !s.formedBefore core b prio && !s.tileFirst core prio
      if !room || ts.any (fun t => !s.logClear t.parent t.seq) then .next s
      else
        let p := s.performCore core (ts.map BinThread.parent)
        if !p.1 then .next p.2
        else
          let t := p.2.placeSpawned core k ts
          let t := t.setBin core b { t.bin core b with formed := none }
          .next (t.placeEmptied core b).pushPlacement := by
  unfold execSpawnResidency
  rw [h]

/-- The half of O30 about SPAWN_RESIDENCY holds: a formed strand takes its place with the arguments of its threads. -/
theorem formedStrandBecomesResident : FormedStrandBecomesResident := by
  intro s core b key ts h room
  have hexec : exec (.spawnResidency core b) s = _ := execSpawnResidency_formed h
  refine ⟨fun hno => ?_, fun hroom hclear hperf hlen hargs hpend htimer => ?_⟩
  · rw [hexec]
    refine if_pos ?_
    rw [Bool.or_eq_true, Bool.not_eq_true', List.any_eq_true]
    exact hno.imp_right fun ⟨x, hx, hlog⟩ => ⟨x, hx, by rw [hlog]; rfl⟩
  · have hgo : ¬ (!room || ts.any (fun t => !s.logClear t.parent t.seq)) = true := by
      simpa [hroom] using hclear
    have hplan := (placeSpawned_plan (s.performCore core (ts.map BinThread.parent)).2 core key ts).trans
      (congrArg (·.2.2) (performCore_plan s core (ts.map BinThread.parent)))
    obtain ⟨sid, hlife, hcore, hrid, hpc, hamask, hallot, hspawned, hregs⟩ :=
      placeSpawned_strand (s.performCore core (ts.map BinThread.parent)).2 core key ts
    refine ⟨_, sid, hexec.trans ((if_neg hgo).trans (if_neg (by simpa using hperf))), ?_⟩
    generalize (s.performCore core (ts.map BinThread.parent)).2.placeSpawned core key ts = t at *
    have hbin : t.bin core b = s.bin core b := bin_of_plan hplan core b
    have hwait := placeEmptied_waits (s := t.setBin core b { t.bin core b with formed := none }) (core := core) (b := b)
      (by simpa [setBin_self, hbin] using hpend) (by simpa [setBin_self, setBin_time, hbin, time_of_plan hplan] using htimer)
    rw [hwait, strand_of_scene (pushPlacement_scene _), bin_of_plan (congrArg (·.2.2) (plan_of_scene (pushPlacement_scene _))), setBin_self]
    refine ⟨rfl, hlife, hcore, hrid, hpc, hamask, hallot, hspawned, fun th i x hx hi => ?_⟩
    have hlane : kvGet 0#32 (t.strand sid).vregs ((i + 1) * 64 + th) = listAt 0#32 x.args i := by
      rw [hregs, newLanes_argLanes hlen hargs hx hi]
    exact congrArg BitVec.toNat hlane

end Sys2Proof.Proofs

namespace Sys2Proof.Proofs

open Sys2Proof.Machine Sys2Proof.Laws

/-! ## SPAWN with U = 1 (O30) -/

/-- No thread is active, and uniform register 3 asks for more tiles than there are. -/
def noThread : State :=
  State.reset.setStrand 0 (({ Strand.empty with life := .resident } : Strand).setS 3 2049)

/-- SPAWN at the entry in uniform register 1, with the tiles in uniform register 3 and its status in register 2, with U = 1. -/
def uniformSpawn : AOps := ⟨0, 4, 2, 7, 1, 1, 0, 0, 0, 0, 3, 1, none⟩

theorem ready_uniformSpawn : Ready noThread (rawA 0x0A uniformSpawn) := by
  unfold Ready
  decide

/-- With no active thread SPAWN writes no status. -/
theorem spawn_leavesS2 : leavesS2 (execSpawn uniformSpawn noThread) = 0 := by
  unfold execSpawn
  rw [issue_go _ _ _ ready_uniformSpawn]
  decide

/-- Refutes O30: a SPAWN with U = 1 and no active thread asks for too many tiles, and the statement wants status 8 in the uniform register
that no thread writes. -/
theorem not_spawnedThreadsBecomeStrands : ¬ Obligations.SpawnedThreadsBecomeStrands := by
  rintro ⟨⟨hspawn, -⟩, -⟩
  obtain ⟨-, hmany, -⟩ := hspawn noThread uniformSpawn ready_uniformSpawn
  obtain ⟨t, ht, hd, -⟩ := hmany (by decide) (by decide)
  have hs : leavesS2 (exec (.spawn uniformSpawn) noThread) = 0 := spawn_leavesS2
  rw [ht] at hs
  have h8 : t.me.s 2 = 8 := (delivers_uniform hd (by decide) (by decide)).trans (by decide)
  exact absurd (hs.symm.trans h8) (by decide)

end Sys2Proof.Proofs

namespace Sys2Proof.Proofs

open Sys2Proof.Machine Sys2Proof.Laws

/-! ## JOIN (O31) -/

/-- How many of the regions that a strand is to join have a state that satisfies a test. -/
def childCount (s : State) (st : Strand) (p : Nat → Bool) : Nat := (st.joins.filter (fun rid => p (s.region rid).state)).length

/-- The children that still run. -/
def running (s : State) (st : Strand) : Nat := childCount s st (fun x => decide (x < 5))

theorem running_pos {s : State} {st : Strand} : 0 < running s st ↔ ∃ rid ∈ st.joins, (s.region rid).state < 5 := by
  simp [running, childCount, List.length_pos_iff_exists_mem]

/-- While a child runs JOIN has nothing to write (R151). -/
theorem joinResult_running {s : State} {st : Strand} (h : 0 < running s st) : s.joinResult st = none :=
  if_pos (by simpa using running_pos.mp h)

/-- With every child done JOIN writes the status of the worst, with the numbers of those that faulted and were killed (R151). -/
theorem joinResult_done {s : State} {st : Strand} (h : running s st = 0) :
    let faulted := childCount s st (fun x => x == 6 || x == 9)
    let killed := childCount s st (fun x => x == 7 || x == 8)
    s.joinResult st = some (if 0 < killed then 7 else if 0 < faulted then 6 else 0, faulted + killed * 2 ^ 32) := by
  intro faulted killed
  have hdone : ¬ ∃ rid ∈ st.joins, (s.region rid).state < 5 := fun hr => (running_pos.mpr hr).ne' h
  have hjoin : s.joinResult st = if 0 < killed then some (7, faulted + killed * 2 ^ 32) else if 0 < faulted then some (6, faulted) else some (0, 0) := by
    unfold State.joinResult
    simp only [List.filter_map, List.length_map]
    exact if_neg (by simpa using hdone)
  rw [hjoin]
  clear_value faulted killed
  split_ifs with hk hf <;> simp_all

/-- The words give a timeout of 0 (R151). -/
theorem noTimeout_iff (o : AOps) : ((rawA 0x0C o).len = 2#2 ∧ (rawA 0x0C o).imm32 = 0) ↔ o.imm = some 0#32 := by
  cases ho : o.imm <;> simp [rawA, Raw.imm32, lenOf, immWord, ho, BitVec.toNat_eq]

/-- The time at which a JOIN gives up (R151). -/
theorem joinLimit_eq (o : AOps) (now : Nat) :
    (if (rawA 0x0C o).len = 2#2 then some (now + (rawA 0x0C o).imm32 * 47000) else none) = o.imm.map (fun x => now + x.toNat * 47000) := by
  cases ho : o.imm <;> simp [rawA, Raw.imm32, lenOf, immWord, ho]

/-- A strand that waits in a JOIN (R151). -/
def joinWaiting (s : State) (o : AOps) : Strand :=
  { (s.me.emptyAll [keyS o.d.toNat, keyS (o.d.toNat + 1)]).next (rawA 0x0C o).bytes with
    waiting := .join o.d.toNat (o.imm.map (fun x => s.time + x.toNat * 47000)), waitSince := s.time }

/-- JOIN, by what its children have come to (R151). -/
theorem execJoin_go (o : AOps) (s : State) (h : Ready s (rawA 0x0C o)) :
    execJoin o s = .next (match s.joinResult s.me with
      | some (a, b) => (s.setStrand s.cur ((s.me.finishJoin o.d.toNat a b).next (rawA 0x0C o).bytes)).expireCopies s.me.core
      | none =>
        if o.imm = some 0#32 then s.setStrand s.cur ((s.me.finishJoin o.d.toNat 1 (running s s.me)).next (rawA 0x0C o).bytes)
        else s.setStrand s.cur (joinWaiting s o)) := by
  simp only [← noTimeout_iff, joinWaiting, ← joinLimit_eq]
  unfold execJoin
  exact issue_go s (rawA 0x0C o) _ h

theorem isEmpty_markEmpty (x : Strand) {k : Nat} (h : k ≠ 128) : (x.markEmpty k).isEmpty k = true := by
  unfold Strand.markEmpty Strand.isEmpty
  split
  · next hc => exact hc.resolve_left h
  · simp

theorem isEmpty_markEmpty_of {x : Strand} {k : Nat} (h : x.isEmpty k = true) (j : Nat) : (x.markEmpty j).isEmpty k = true := by
  unfold Strand.isEmpty at *
  unfold Strand.markEmpty
  split
  · exact h
  · simp_all

/-- Marking registers empty changes no other field of the strand. -/
theorem emptyAll_eq (x : Strand) (ks : List Nat) : x.emptyAll ks = { x with empties := (x.emptyAll ks).empties } := by
  refine forEach_keeps (fun y => y = { x with empties := y.empties }) ks x _ rfl fun y k hy => ?_
  unfold Strand.markEmpty
  split
  · exact hy
  · rw [hy]

/-- A strand that waits in a JOIN has gone on, with both destinations empty. -/
theorem joinWaiting_only (o : AOps) (s : State) :
    SameRegs s.me (joinWaiting s o) [] []
      ∧ (joinWaiting s o).waiting = .join o.d.toNat (o.imm.map (fun x => s.time + x.toNat * 47000))
      ∧ (o.d.toNat ≠ 0 → (joinWaiting s o).isEmpty (keyS o.d.toNat) = true) ∧ (joinWaiting s o).isEmpty (keyS (o.d.toNat + 1)) = true
      ∧ GoneOn s.me (joinWaiting s o) (rawA 0x0C o) := by
  have hempty (k : Nat) : (joinWaiting s o).isEmpty k = (s.me.emptyAll [keyS o.d.toNat, keyS (o.d.toNat + 1)]).isEmpty k := by
    simp [joinWaiting, Strand.isEmpty]
  refine ⟨?_, rfl, fun hd => ?_, ?_, ?_⟩
  · unfold joinWaiting
    rw [emptyAll_eq]
    exact ⟨fun n t _ _ => by simp [Strand.v], fun n _ => by simp [Strand.s], by simp, by simp⟩
  · rw [hempty]
    exact isEmpty_markEmpty_of (isEmpty_markEmpty _ (by simpa [keyS] using hd)) _
  · rw [hempty]
    exact isEmpty_markEmpty _ (by simp [keyS])
  · have hgone := goneOn s.me (s.me.emptyAll [keyS o.d.toNat, keyS (o.d.toNat + 1)]) (rawA 0x0C o)
      (by rw [emptyAll_eq]) (by rw [emptyAll_eq]) (by rw [emptyAll_eq])
    exact hgone

theorem finishJoin_s (x : Strand) (d status n m : Nat) : (x.finishJoin d status n).s m = ((x.setS d status).setS (d + 1) n).s m := by
  simp [Strand.finishJoin, Strand.fullAll, Strand.markFull, Strand.s]

theorem finishJoin_writes {x : Strand} {d status n : Nat} (hd : d ≠ 0) (hstatus : status < 2 ^ 64) (hn : n < 2 ^ 64) :
    (x.finishJoin d status n).s d = status ∧ (x.finishJoin d status n).s (d + 1) = n
      ∧ (x.finishJoin d status n).joins = (if status = 1 then x.joins else []) ∧ (x.finishJoin d status n).isEmpty (keyS d) = false
      ∧ (x.finishJoin d status n).waiting = .nothing := by
  refine ⟨?_, ?_, ?_, ?_, rfl⟩
  · rw [finishJoin_s, s_setS, s_setS, if_neg (by omega), if_pos ⟨rfl, hd⟩, Nat.mod_eq_of_lt hstatus]
  · rw [finishJoin_s, s_setS, if_pos ⟨rfl, by omega⟩, Nat.mod_eq_of_lt hn]
  · simp [Strand.finishJoin, Strand.fullAll, Strand.markFull]
  · simp [Strand.finishJoin, Strand.fullAll, Strand.markFull, Strand.isEmpty]

/-- The half of O31 about JOIN holds: its answer follows from the states of the children. -/
theorem joinReportsTheChildren : JoinReportsTheChildren := by
  refine ⟨fun s o h => ?_, fun st d status n hd hs hn => finishJoin_writes hd hs hn, fun s sid d lim hw => ?_⟩
  · have hgo : exec (.join o) s = _ := execJoin_go o s h
    refine ⟨fun hdone => ?_, fun hrun ho => ?_, fun hrun ho => ?_⟩
    · rw [hgo, joinResult_done hdone]
      rfl
    · rw [hgo, joinResult_running hrun]
      exact congrArg _ (if_pos ho)
    · rw [joinResult_running hrun] at hgo
      obtain ⟨t, ht, hme, hwait⟩ := onlyMe_of_setStrand (hgo.trans (congrArg _ (if_neg ho)))
      obtain ⟨hregs, hwaiting, hd, hd1, hgone⟩ := joinWaiting_only o s
      rw [← hwait] at hregs hwaiting hd hd1 hgone
      exact ⟨t, ht, hme, hregs, hwaiting, hd, hd1, hgone⟩
  · have hto : exec (.joinTimeout sid) s = execJoinTimeout sid s := rfl
    rw [hto]
    unfold execJoinTimeout
    simp only [hw]
    refine ⟨fun hlt => if_pos hlt, fun hle hlife hrun => ?_⟩
    rw [if_neg (by omega), if_neg (by simp [hlife]), joinResult_running (running_pos.mpr hrun)]

end Sys2Proof.Proofs

namespace Sys2Proof.Proofs

open Sys2Proof.Machine Sys2Proof.Laws

/-! ## LAUNCH into a pool whose owner is not numbered yet (O31) -/

/-- The bytes that are not 0 of an RCB at 512 that overrides nothing: two strands of 16 registers, and one tile. -/
def rcbCells : List (Nat × Byte) := cellsOf 512 (leBytes 8 0x110000) ++ cellsOf 544 (leBytes 8 (1 + 2 ^ 21 + 2 ^ 42))

/-- Effective fields under which a pool has so many slots. -/
def slotsRcb (n : Nat) : Rcb := { Rcb.empty with slotb := n, atsb := 1, shut := 1000, cvrec := 4096 }

/-- Region 0 draws on the pool of region 1, which has two slots and bears the number that the next region will be given. -/
def borrowing : State :=
  let s := State.reset.setStrand 0 (({ Strand.empty with life := .resident, amask := 1 } : Strand).setS 1 512)
  let s := (s.setRegion 0 { Region.empty with rcb := slotsRcb 1, pool := 1, state := 2 }).setRegion 1 { Region.empty with rcb := slotsRcb 2 }
  { s with mem := s.mem.put rcbCells, xlate := { s.xlate with cluster := [(0, [⟨0, 0, 2 ^ 30, 0x1F⟩])] } }

/-- LAUNCH of the RCB at the address in uniform register 1, with its status in register 2. -/
def launchOps : AOps := ⟨0, 1, 2, 7, 0, 0, 0, 0, 0, 0, 0, 0, none⟩

theorem ready_launch : Ready borrowing (rawA 0x0B launchOps) := by
  unfold Ready
  decide +kernel

/-- The launch of the RCB that is read is granted, and its region is valid: the hypotheses of the statement's last clause. -/
def grants (s : State) (q : Except MemR LaunchInfo × State) : Bool :=
  match q with
  | (.ok l, u) =>
    let st := u.strand s.cur
    l.rcb.prio != 7 && decide (st.joins.length < 64) && l.state == 0 && decide (u.liveRegions < 1024) && !bit (rcbOvr l.words) 5
      && (u.performCore st.core [s.cur]).1 && (u.performCore st.core [s.cur]).2.logClear s.cur s.seq
      && l.valid false (u.region (u.regionOf st).pool).rcb
  | (.error _, _) => false

/-- What the LAUNCH reads at the RCB's address. -/
def rcbRead : Except MemR LaunchInfo × State :=
  borrowing.readRcb (borrowing.who borrowing.cur) 512 (some borrowing.me.rid) (some borrowing.seq)

theorem rcbRead_grants : grants borrowing rcbRead = true := by decide +kernel

/-- The regions that the strand is to join and their states, in the next state. -/
def joinStates (o : Res) : List (Nat × Nat) :=
  match o with
  | .next t => (t.strand 0).joins.map (fun rid => (rid, (t.region rid).state))
  | _ => []

/-- The region ends at once in state 9. -/
theorem launch_invalid : joinStates (exec (.launch launchOps) borrowing) = [(1, 9)] := by decide +kernel

/-- Refutes O31: the new region is given the number of the pool's owner and takes its place, so the pool that the launch is judged by is no
longer the one that the statement reads, and the region ends in state 9. -/
theorem not_launchAndJoin : ¬ Obligations.LaunchAndJoin := by
  rintro ⟨hlaunch, -⟩
  have hgrants := rcbRead_grants
  rcases hread : rcbRead with ⟨_ | l, u⟩ <;> rw [hread] at hgrants
  · exact absurd hgrants Bool.false_ne_true
  simp only [grants, Bool.and_eq_true, bne_iff_ne, decide_eq_true_eq, beq_iff_eq, Bool.not_eq_true'] at hgrants
  obtain ⟨⟨⟨⟨⟨⟨⟨hprio, hjoins⟩, hstate⟩, hlive⟩, hown⟩, hperf⟩, hclear⟩, hvalid⟩ := hgrants
  obtain ⟨-, hok⟩ := hlaunch borrowing u launchOps l ready_launch
  obtain ⟨-, hok⟩ := hok (by decide) hread
  obtain ⟨-, -, hok⟩ := hok fun h => absurd h hprio
  obtain ⟨-, hok⟩ := hok hjoins (.inl hstate) (by omega) hlive
  obtain ⟨t, rid, ht, -, -, -, hone, hmem⟩ := hok (fun h => absurd (hown.symm.trans h) (by decide)) hperf hclear
  have hstates := launch_invalid
  rw [ht] at hstates
  have h9 : (rid, (t.region rid).state) ∈ [(1, 9)] := hstates ▸ List.mem_map_of_mem hmem
  have h1 : (t.region rid).state = 1 := hone (by omega) (by simpa [hown] using hvalid)
  simp [h1] at h9

end Sys2Proof.Proofs

namespace Sys2Proof.Proofs

open Sys2Proof.Machine Sys2Proof.Laws

/-! ## The turn of a YIELD, with each strand listed once (O45) -/

/-- In canonical form a key reads as the value that stands with it. -/
theorem kvGet_of_mem {β : Type} [DecidableEq β] {dflt : β} {m : KV β} (hm : kvWf dflt m = true) {k : Nat} {v : β} (h : (k, v) ∈ m) :
    kvGet dflt m k = v := by
  obtain ⟨hrise, -⟩ := (kvWf_iff dflt m).mp hm
  clear hm
  induction m with
  | nil => exact nomatch h
  | cons p t ih =>
    obtain ⟨hp, ht⟩ := List.pairwise_cons.mp hrise
    rcases List.mem_cons.mp h with rfl | ht'
    · exact if_pos rfl
    · exact (if_neg (hp _ ht').ne).trans (ih ht' ht)

/-- In canonical form each strand stands once. -/
theorem strand_of_mem {s : State} (hs : kvWf none s.strands = true) {p : Nat × Strand} (h : p ∈ s.allStrands) : s.strand p.1 = p.2 := by
  obtain ⟨⟨k, x⟩, hmem, hx⟩ := List.mem_filterMap.mp h
  obtain ⟨st, rfl, rfl⟩ := Option.map_eq_some_iff.mp hx
  rw [State.strand, kvGet_of_mem hs hmem]
  rfl

/-- The issue of a strand shortens no wait of its own. -/
theorem yieldSeen_self {s : State} (hs : kvWf none s.strands = true) {sid : Nat}
    (hw : ∀ d ps, (s.strand sid).waiting = .yield d (some ps) → sid ∉ ps) : (s.yieldSeen sid).strand sid = s.strand sid := by
  refine forEach_same_of_mem (fun x : State => x.strand sid) s fun x p hp => ?_
  dsimp only
  split
  · next d ps hp' =>
    split
    · next hc =>
      refine setStrand_strand_ne _ _ _ _ fun he => ?_
      subst he
      rw [strand_of_mem hs hp] at hw
      exact hw d ps hp' (List.contains_iff_mem.mp hc)
    · rfl
  · rfl

@[simp] theorem modCore_strand (s : State) (c n : Nat) (f : Core → Core) : (s.modCore c f).strand n = s.strand n := rfl

/-- The wait that a YIELD has once its turn is booked (R141). -/
def yieldWait (s : State) (sid d : Nat) (ready : List Nat) : Waiting :=
  if s.peersOf sid ready = [] then .nothing else .yield d (some (s.peersOf sid ready))

theorem yielded_eq {s : State} {sid d : Nat} (ready : List Nat) (hw : (s.strand sid).waiting = .yield d none) :
    s.yielded sid ready = yieldWait s sid d ready := by
  unfold State.yielded yieldWait
  rw [hw]
  cases s.peersOf sid ready <;> rfl

/-- It waits for no strand but others. -/
theorem yieldWait_others {s : State} {sid d d' : Nat} {ready ps : List Nat} (h : yieldWait s sid d ready = .yield d' (some ps)) : sid ∉ ps := by
  unfold yieldWait at h
  split at h
  · exact nomatch h
  · obtain ⟨-, hps⟩ := Waiting.yield.inj h
    simp [← Option.some.inj hps, State.peersOf]

/-- The clause that O45's counterexample breaks holds where the list of strands is canonical: the turn of a YIELD is booked as R141 says. -/
theorem issued_waiting {s : State} (hs : kvWf none s.strands = true) {sid d : Nat} (ready : List Nat) (hw : (s.strand sid).waiting = .yield d none) :
    ((s.issued sid ready).strand sid).waiting = yieldWait s sid d ready := by
  unfold State.issued
  refine (congrArg Strand.waiting (forEach_same_of_mem (fun x : State => x.strand sid) _ fun x p hp => ?_)).trans
    ((congrArg Strand.waiting (yieldSeen_self ?_ ?_)).trans ?_)
  · have hne : p.1 ≠ sid := bne_iff_ne.mp (Bool.and_eq_true_iff.mp (List.mem_filter.mp hp).2).1
    exact modStrand_strand_ne _ _ _ _ hne.symm
  · exact kvWf_kvSet none s.strands sid _ hs
  · intro d' ps h
    rw [modCore_strand, setStrand_strand, yielded_eq ready hw] at h
    exact yieldWait_others h
  · rw [modCore_strand, setStrand_strand, yielded_eq ready hw]

end Sys2Proof.Proofs

namespace Sys2Proof.Proofs

open Sys2Proof.Machine Sys2Proof.Laws

/-! ## Strands that stand aside (O45) -/

/-- Strand 0 stands twice in the list of strands, which the canonical form of a sparse map rules out and the statement does not: first in a
YIELD that has just issued, then in one that waits for strands 0 and 1. -/
def listedTwice : State :=
  { State.reset with strands := [(0, some { Strand.empty with waiting := .yield 0 none }),
      (0, some { Strand.empty with waiting := .yield 0 (some [0, 1]) })] }

/-- Refutes O45: with none to let go first the YIELD of strand 0 goes straight on, and then the second entry, whose wait the issue of strand
0 shortens, is written over it. -/
theorem not_strandsStepAsideLeaveAndReturn : ¬ Obligations.StrandsStepAsideLeaveAndReturn := by
  rintro ⟨⟨-, hissued, -⟩, -⟩
  obtain ⟨hwait, -⟩ := hissued listedTwice 0 0 [] rfl
  exact absurd hwait (by decide)

end Sys2Proof.Proofs
